-- ==== Sys2Proof/Word.lean ====
section
/-!
DEFINITION. The bit-vector types of the bay link, the printed mark and the station counters.
Only what the manual gives as places (bits) is a bit vector; counts and indexes are Nat.
-/
namespace Sys2Proof

/-- One byte of a frame body (R164), of a printed mark (R58) or of the configuration image (R185). -/
abbrev Byte := BitVec 8

/-- A five-place member address in a frame header (R163). -/
abbrev LinkAddress := BitVec 5

/-- The nine-place arbitration field: precedence above sender (R163). -/
abbrev Arbitration := BitVec 9

/-- A 16-bit station counter (R181). -/
abbrev Count16 := BitVec 16

/-- A clinch or reference reading, 0 to 1023 (R93, R117). -/
abbrev SenseReading := BitVec 10

end Sys2Proof
end

