-- ==== Sys2Proof/Syntax.lean ====
section
/-!
DEFINITION. The commands the block takes: one constructor of `Instr` per row of spec/opcode_table.json, in the table's
order, and the plain data they carry. The table gives its rows no fields; the operands are what the rows' rules say the
event brings (log 4). Fields of frame bodies are the raw bytes of R164, so that a value out of range can be sent.
-/
namespace Sys2Proof

/-- The four collation pockets, numbered 1 to 4 (00_scope.md, Conventions). -/
inductive PocketId where
  | p1 | p2 | p3 | p4
  deriving DecidableEq, Repr

/-- One level per pocket: its occupancy sensor or its jam sensor. -/
structure PocketLevels where
  p1 : Bool
  p2 : Bool
  p3 : Bool
  p4 : Bool
  deriving DecidableEq, Repr

/-- The link rate the rate strap selects (R184 step 1). -/
inductive LinkRate where
  | kbit250 | mbit1
  deriving DecidableEq, Repr

/-- The address and rate straps (R184 step 1): an address from 0 to 15 and the rate. -/
structure Straps where
  address : BitVec 4
  rate : LinkRate
  deriving DecidableEq, Repr

/-- The sensors that a resume request reads: the head and carriage jam senses (R148) and the occupancy sensors of the
pockets (R149 step 4). The pocket jam sensors are held in State, since POCKET_JAM and POCKET_JAM_CLEARED move them. -/
structure ResumeReadings where
  headJam : Bool
  carriageJam : Bool
  occupied : PocketLevels
  deriving DecidableEq, Repr

/-- The four bytes of a printed mark (R58). -/
structure SheetMark where
  b0 : Byte
  b1 : Byte
  b2 : Byte
  b3 : Byte
  deriving DecidableEq, Repr

/-- A frame as delivered: header fields 1 to 4 of R163 and the body, whose length is field 5. -/
structure Frame where
  precedence : BitVec 4
  sender : LinkAddress
  kind : BitVec 4
  target : LinkAddress
  body : List Byte
  deriving DecidableEq, Repr

/-- What a receiver read of a frame, up to its spoil window (R163, R166): the header, the body length as read, the body
bytes, the check as read, whether the frame ran to the end of its check, and whether every place was readable. -/
structure Reception where
  frame : Frame
  length : BitVec 7
  check : BitVec 16
  complete : Bool
  readable : Bool
  deriving DecidableEq, Repr

/-- A frame whose spoil window was driven (R166): the station's own attempt, or a frame the station received. -/
inductive SpoiledFrame where
  | own
  | received (r : Reception)
  deriving DecidableEq, Repr

/-- The moments of a contention that reach the station (R165, log 5).
`whole others`: the link falls idle, the attempt begins and is carried through the arbitration field against the fields
of the other contenders. `begins`: the attempt begins and stands at its start level. `arbitrates others`: an attempt
that has begun goes through the arbitration field. `differs`: a place is read that the station did not send. -/
inductive ContentionMoment where
  | whole (others : List Arbitration)
  | begins
  | arbitrates (others : List Arbitration)
  | differs
  deriving DecidableEq, Repr

/-- A pack id as a frame body carries it: a feed byte and two serial bytes (R164). -/
structure WirePackId where
  feed : Byte
  serial : BitVec 16
  deriving DecidableEq, Repr

/-- The body of an OFFER (R164). -/
structure OfferBody where
  id : WirePackId
  classCode : Byte
  roll : Byte
  count : Byte
  finish : Byte
  lane : Byte
  deriving DecidableEq, Repr

/-- The body of a BID (R164). -/
structure BidBody where
  id : WirePackId
  fit : Byte
  load : Byte
  deriving DecidableEq, Repr

/-- The body of a DELIVERED (R164). -/
structure DeliveredBody where
  id : WirePackId
  bin : Byte
  flags : Byte
  deriving DecidableEq, Repr

/-- The body of an ASIDE (R164). -/
structure AsideBody where
  id : WirePackId
  reason : Byte
  deriving DecidableEq, Repr

/-- The body of a JOIN (R164). -/
structure JoinBody where
  resetCause : Byte
  capabilities : Byte
  outcome : Byte
  capacity : Byte
  deriving DecidableEq, Repr

/-- A delivered frame of a kind that stations send and whose row covers both cases (R167): this station's echo, which is
the frame its own attempt sent, or a frame another member sent, with the sender address of its header. -/
inductive Arrival (α : Type) where
  | echo
  | other (sender : LinkAddress) (body : α)
  deriving DecidableEq, Repr

/-- The header fields of an ASK or ORDER that vary (R164): its sender and its target. -/
structure ConsoleHeader where
  sender : LinkAddress
  target : LinkAddress
  deriving DecidableEq, Repr

/-- The commands: one constructor per row of spec/opcode_table.json. -/
inductive Instr where
  /-- POWER_RESET (R183): the straps as they stand if the station enters LOADING at once. -/
  | powerReset (straps : Straps)
  /-- RESET_PIN_ACTIVE (R183): whether the reset cuts off a retained store write (R188). -/
  | resetPinActive (cutsWrite : Bool)
  /-- RESET_PIN_RELEASED (R183): the straps as sampled. -/
  | resetPinReleased (straps : Straps)
  /-- IMAGE_READ_COMPLETE (R184): the bytes returned, the occupancy sensors, the cartridge-present sense. -/
  | imageReadComplete (bytes : List Byte) (occupied : PocketLevels) (cartridge : Bool)
  /-- IMAGE_READ_TIMEOUT (R184). -/
  | imageReadTimeout
  /-- CONTENTION (R165). -/
  | contention (moment : ContentionMoment)
  /-- SPOILED_FRAME (R166). -/
  | spoiledFrame (spoiled : SpoiledFrame)
  /-- MALFORMED_FRAME (R173). -/
  | malformedFrame (frame : Frame)
  /-- OFFER (R8). -/
  | offer (sender : LinkAddress) (body : OfferBody)
  /-- BID (R9). -/
  | bid (arrival : Arrival BidBody)
  /-- CLOSE (R10). -/
  | close (sender : LinkAddress) (id : WirePackId)
  /-- WITHDRAW (R12). -/
  | withdraw (sender : LinkAddress) (id : WirePackId)
  /-- DELIVERED (R14). -/
  | delivered (arrival : Arrival DeliveredBody)
  /-- ASIDE (R14). -/
  | aside (arrival : Arrival AsideBody)
  /-- HALT of another station (R15): its sender and cause byte. -/
  | halt (sender : LinkAddress) (cause : Byte)
  /-- HALT_ECHO (R144). -/
  | haltEcho
  /-- JOIN of another station (R16). -/
  | join (sender : LinkAddress) (body : JoinBody)
  /-- JOIN_ECHO (R189). -/
  | joinEcho
  /-- HOLD of another station (R161): its sender and hold time byte. -/
  | hold (sender : LinkAddress) (time : Byte)
  /-- HOLD_ECHO (R158). -/
  | holdEcho
  /-- RENEWAL_TIMER_EXPIRY (R159). -/
  | renewalTimerExpiry
  /-- ASK_SUMMARY (R177). -/
  | askSummary (header : ConsoleHeader)
  /-- ASK_PACK (R20): the selected pack id. -/
  | askPack (header : ConsoleHeader) (id : WirePackId)
  /-- ASK_POCKET (R82): the selector byte. -/
  | askPocket (header : ConsoleHeader) (selector : Byte)
  /-- ASK_BIN (R178): the selector byte. -/
  | askBin (header : ConsoleHeader) (selector : Byte)
  /-- ASK_HEAD (R115). -/
  | askHead (header : ConsoleHeader)
  /-- ASK_COUNTERS (R181). -/
  | askCounters (header : ConsoleHeader)
  /-- REPORT_ECHO (R175). -/
  | reportEcho
  /-- ANSWER_ECHO (R175). -/
  | answerEcho
  /-- ORDER_STANDBY (R180). -/
  | orderStandby (header : ConsoleHeader)
  /-- ORDER_RESUME (R180): the sensors a resume would read. -/
  | orderResume (header : ConsoleHeader) (readings : ResumeReadings)
  /-- ORDER_SELF_TEST (R116). -/
  | orderSelfTest (header : ConsoleHeader)
  /-- ORDER_CLEAR_COUNTERS (R181). -/
  | orderClearCounters (header : ConsoleHeader)
  /-- ORDER_REBOOT (R179): the straps as sampled, and whether the reset cuts off a retained store write. -/
  | orderReboot (header : ConsoleHeader) (straps : Straps) (cutsWrite : Bool)
  /-- SERVICE_BUTTON (R182): the sensors a resume would read. -/
  | serviceButton (readings : ResumeReadings)
  /-- SHEET_AT_GATE (R61): the mark read, or none where the reader found none (R59). -/
  | sheetAtGate (mark : Option SheetMark)
  /-- GAP_TIMER_EXPIRY (R71) of a pocket. -/
  | gapTimerExpiry (pocket : PocketId)
  /-- FIRST_SHEET_TIMER_EXPIRY (R72) of a pocket. -/
  | firstSheetTimerExpiry (pocket : PocketId)
  /-- STROKE_COMPLETE (R93): the clinch reading. -/
  | strokeComplete (reading : SenseReading)
  /-- STROKE_LIMIT_EXPIRY (R93). -/
  | strokeLimitExpiry
  /-- NO_STAPLE (R111). -/
  | noStaple
  /-- HEAD_JAM (R102). -/
  | headJam
  /-- EJECT_COMPLETE (R98): the occupancy sensor of the operation's pocket. -/
  | ejectComplete (occupied : Bool)
  /-- EJECT_LIMIT_EXPIRY (R98). -/
  | ejectLimitExpiry
  /-- CARRIAGE_JAM (R102). -/
  | carriageJam
  /-- DROP_CONFIRMED (R99). -/
  | dropConfirmed
  /-- DROP_LIMIT_EXPIRY (R99). -/
  | dropLimitExpiry
  /-- TRAY_DROP_CONFIRMED (R100): the occupancy sensor of the operation's pocket. -/
  | trayDropConfirmed (occupied : Bool)
  /-- TRAY_DROP_LIMIT_EXPIRY (R100). -/
  | trayDropLimitExpiry
  /-- REFERENCE_READING (R117). -/
  | referenceReading (reading : SenseReading)
  /-- READING_LIMIT_EXPIRY (R117). -/
  | readingLimitExpiry
  /-- CARTRIDGE_INSERTED (R110). -/
  | cartridgeInserted
  /-- BIN_EMPTIED (R133): the bin's number. -/
  | binEmptied (bin : Nat)
  /-- TRAY_EMPTIED (R135). -/
  | trayEmptied
  /-- POCKET_JAM (R139): the pocket whose jam sensor shows a jam. -/
  | pocketJam (pocket : PocketId)
  /-- LOSS_OF_POWER (R188): whether it cuts off a retained store write. -/
  | lossOfPower (cutsWrite : Bool)
  /-- FRAME_FOR_ANOTHER_MEMBER (R174). -/
  | frameForAnotherMember (frame : Frame)
  /-- POCKET_JAM_CLEARED (R139): the pocket whose jam sensor shows clear. -/
  | pocketJamCleared (pocket : PocketId)
  deriving DecidableEq, Repr

end Sys2Proof
end

