-- ==== Sys2Proof/Decode.lean ====
section
/-!
DEFINITION. The command a table word spells. spec/opcode_table.json gives none of its rows any bits (98_reader.md:
no row has "fixed" or "fields"), so no word spells a command.
-/
namespace Sys2Proof

/-- The command that the word `w` of `nbits` bits spells by the table's bits: none, for no row has bits. -/
def decodeTableWord (_nbits _w : Nat) : Option Instr := none

end Sys2Proof
end

