-- ==== Sys2Proof/Config.lean ====
section
/-!
DEFINITION. What is fixed for the part (limits, capacities and bands the manual states as numbers) and the
configuration values that an image distributes at start (R184 step 4, R185).
Times are Nat counts of half seconds, the smallest period the manual names (R155: half of a whole-second hold time).
The manual leaves no result undefined, so there is no free value here (log 28).
-/
namespace Sys2Proof.Config

/-- An intake verdict: ACCEPT with a fit, or REFUSE (R46). -/
inductive Verdict where
  | accept (fit : Nat)
  | refuse
  deriving DecidableEq, Repr

/-- The six offer values a COMPARE entry may test (R49). -/
inductive RuleField where
  | classCode | roll | count | finish | lane | feed
  deriving DecidableEq, Repr

/-- The four relations of a COMPARE entry (R50). -/
inductive Relation where
  | eq | ne | ge | lt
  deriving DecidableEq, Repr

/-- An active intake rule entry (R46, R47). EMPTY entries end the table and are not held by the engine.
The verdict is read only on the last entry of a chain. -/
inductive Rule where
  | compare (field : RuleField) (relation : Relation) (value : Byte) (join : Bool) (verdict : Verdict)
  | setMask (value : Byte) (join : Bool) (verdict : Verdict)
  deriving DecidableEq, Repr

/-- The join flag, which ties an entry to the one after it (R46). -/
def Rule.join : Rule → Bool
  | .compare _ _ _ j _ => j
  | .setMask _ j _ => j

/-- The verdict part of an entry (R46). -/
def Rule.verdict : Rule → Verdict
  | .compare _ _ _ _ v => v
  | .setMask _ _ v => v

/-- Whether the entry is a SET_MASK (R46). -/
def Rule.isMask : Rule → Bool
  | .compare .. => false
  | .setMask .. => true

/-- The mode of a delivery map entry (R122). -/
inductive MapMode where
  | off | single | upto | block
  deriving DecidableEq, Repr

/-- A delivery map entry (R122). -/
structure MapEntry where
  mode : MapMode
  classCode : Nat
  rollBound : Nat
  exponent : Nat
  primary : Nat
  overflow : Option Nat
  deriving DecidableEq, Repr

/-- The values of a validated configuration image (R185), handed to the blocks at step 4 of R184. -/
structure StationConfig where
  stapler : Bool
  edge : Bool
  openPacks : Bool
  pocketCapacity : Nat
  rackSize : Nat
  binPackCapacity : Nat
  binSheetCapacity : Nat
  trayCapacity : Nat
  cartridgeSize : Nat
  lowThreshold : Nat
  overdriveThreshold : Nat
  /-- in seconds -/
  gapLimit : Nat
  /-- in seconds -/
  firstSheetLimit : Nat
  /-- in seconds -/
  dropLimit : Nat
  /-- in seconds -/
  holdTime : Nat
  holdThreshold : Nat
  defaultVerdict : Verdict
  rules : List Rule
  map : List MapEntry
  deriving DecidableEq, Repr

/-- What the blocks read before any image has been distributed: an empty rule table with default REFUSE (R45), an
empty map (R121), no stapler, and no capacity at all (R107, R128: CONFIG_FAULT has no sizes and no bin records). -/
def StationConfig.undistributed : StationConfig :=
  { stapler := false, edge := false, openPacks := false, pocketCapacity := 0, rackSize := 0, binPackCapacity := 0,
    binSheetCapacity := 0, trayCapacity := 0, cartridgeSize := 0, lowThreshold := 0, overdriveThreshold := 0,
    gapLimit := 0, firstSheetLimit := 0, dropLimit := 0, holdTime := 0, holdThreshold := 0,
    defaultVerdict := .refuse, rules := [], map := [] }

/-- The pack table holds at most 64 entries (R5). -/
def tableCapacity : Nat := 64

/-- The stroke limit, 1.0 s (R83), in half seconds. -/
def strokeLimit : Nat := 2

/-- The eject limit, 2.0 s (R83), in half seconds. -/
def ejectLimit : Nat := 4

/-- The tray drop limit, 3.0 s (R83), in half seconds. -/
def trayDropLimit : Nat := 6

/-- A self-test level's reading limit, equal to the stroke limit (R117), in half seconds. -/
def readingLimit : Nat := 2

/-- The pass-over count at which an entry is promoted (R84, R91). -/
def agingLimit : Nat := 8

/-- The spoil run at which link loss is reported (R170, R171). -/
def spoilLimit : Nat := 16

/-- The records carried by one BIN report (R178). -/
def rosterSection : Nat := 12

/-- The image is read from offset 0 to offset 174 (R184, R185). -/
def imageLength : Nat := 175

/-- A whole number of seconds as half seconds. -/
def seconds (n : Nat) : Nat := 2 * n

end Sys2Proof.Config
end

