-- ==== Sys2Proof/Machine/State.lean ====
section
/-!
DEFINITION. The state of the FS41 as plain data, grouped by the block that owns it (00_scope.md, "State by owner"),
the reasons a step could stop, and the state after a POWER reset.
-/
namespace Sys2Proof.Machine

open Sys2Proof.Config

/-! ### Names -/

/-- The station state (R183). -/
inductive StationState where
  | loading | configFault | joining | run | drain | standby | halting | halted | safe
  deriving DecidableEq, Repr

/-- The kind of the last reset (R183). -/
inductive ResetCause where
  | power | line | reboot
  deriving DecidableEq, Repr

/-- The recorded result of the retained store check (R187, R188). -/
inductive StoreResult where
  | notMade | bad | good
  deriving DecidableEq, Repr

/-- The six halt causes (R139). -/
inductive HaltCause where
  | headJam | strokeTimeout | ejectFault | dropTimeout | trayTimeout | pocketJam
  deriving DecidableEq, Repr

/-- The configuration fault codes (R186), in the order of the checks. -/
inductive FaultCode where
  | badAddress | readFailed | badCheck | outOfRange | sheetCapacity | mapBin | mapSameBin | chainOpen | chainMaskEnd
  deriving DecidableEq, Repr

/-- A configuration fault with its offending item, where the code has one (R186). -/
structure ConfigFault where
  code : FaultCode
  item : Option Nat
  deriving DecidableEq, Repr

/-- The finish kind of a pack (R2). -/
inductive FinishKind where
  | loose | corner | edge
  deriving DecidableEq, Repr

/-- The lane of a pack (R2). -/
inductive Lane where
  | normal | urgent
  deriving DecidableEq, Repr

/-- The reasons of ASIDE (R13). -/
inductive AsideReason where
  | sequence | short | gap | noSheets | truncated | extra | withdrawn | clinch
  deriving DecidableEq, Repr

/-! ### Pack Table -/

/-- A pack id (R1). -/
structure PackId where
  feed : Nat
  serial : Nat
  deriving DecidableEq, Repr

/-- The offer fields, stored unchanged in the entry (R2). -/
structure Offer where
  id : PackId
  classCode : Nat
  roll : Nat
  count : Nat
  finish : FinishKind
  lane : Lane
  deriving DecidableEq, Repr

/-- A bid record (R3). -/
structure BidRecord where
  station : Nat
  fit : Nat
  load : Nat
  deriving DecidableEq, Repr

/-- The annex stage (R4). -/
inductive Stage where
  | live | ending
  deriving DecidableEq, Repr

/-- The own-pack annex (R4). -/
structure Annex where
  pocket : PocketId
  bin : Nat
  stage : Stage
  deriving DecidableEq, Repr

/-- The state of an entry with the parts that state has (R3). -/
inductive EntryState where
  | bidding (bids : List BidRecord)
  | placed (owner : Nat) (annex : Option Annex)
  deriving DecidableEq, Repr

/-- A pack table entry (R3). -/
structure Entry where
  offer : Offer
  state : EntryState
  deriving DecidableEq, Repr

/-- The stage of a pending bid (R30). -/
inductive BidStage where
  | queued | sent
  deriving DecidableEq, Repr

/-- A pending bid with its tentative claims (R30, R31). -/
structure PendingBid where
  id : PackId
  pocket : PocketId
  staples : Nat
  bin : Nat
  fit : Nat
  stage : BidStage
  deriving DecidableEq, Repr

/-- The Pack Table: the replicated entries in OFFER order (R5) and this station's pending bids (R30). -/
structure PackTable where
  entries : List Entry
  bids : List PendingBid
  deriving DecidableEq, Repr

/-! ### Gate Unit and Pocket Set -/

/-- A pocket or head job (R62, R84); SET_ASIDE carries its reason. -/
inductive Job where
  | finish
  | setAside (reason : AsideReason)
  | clear
  deriving DecidableEq, Repr

/-- The pocket states (R62, R63), with the fault reason of ABSORBING and the job of the states that have one. -/
inductive PocketState where
  | free
  | reserved
  | filling
  | absorbing (reason : AsideReason)
  | waiting (job : Job)
  | atHead (job : Job)
  | retiring (job : Job)
  | leftover
  deriving DecidableEq, Repr

/-- The bound pack and the next expected index, present together (R62). -/
structure Binding where
  pack : PackId
  next : Nat
  deriving DecidableEq, Repr

/-- A pocket's timer with its remaining half seconds (R62). -/
inductive PocketTimer where
  | firstSheet (left : Nat)
  | gap (left : Nat)
  deriving DecidableEq, Repr

/-- A pocket record (R62). `driven` counts the bound pack's staple positions driven with a good clinch, which R75, R108
and R145 read (log 21). -/
structure Pocket where
  state : PocketState
  bound : Option Binding
  sheets : Nat
  driven : Nat
  timer : Option PocketTimer
  extraSeen : Bool
  deriving DecidableEq, Repr

/-- The reset value of a pocket record (R62). -/
def Pocket.empty : Pocket :=
  { state := .free, bound := none, sheets := 0, driven := 0, timer := none, extraSeen := false }

/-- The four pocket records (R62). -/
structure Pockets where
  p1 : Pocket
  p2 : Pocket
  p3 : Pocket
  p4 : Pocket
  deriving DecidableEq, Repr

/-! ### Finishing Head Controller -/

/-- Why a queue entry is not ready (R84). -/
inductive BlockedReason where
  | bin | staples | tray
  deriving DecidableEq, Repr

/-- What a staple-out put-back leaves in an entry beside the positions done (R97). -/
structure StrokesDone where
  openStaple : Bool
  retried : Bool
  deriving DecidableEq, Repr

/-- A finish queue entry (R84). The positions done stand in the pocket record. -/
structure QueueEntry where
  pocket : PocketId
  job : Job
  lane : Lane
  stamp : Nat
  passOvers : Nat
  blocked : Option BlockedReason
  strokes : Option StrokesDone
  deriving DecidableEq, Repr

/-- The phase of a head operation (R83). -/
inductive Phase where
  | stroke (position : Nat) (retry : Bool)
  | eject
  | drop
  | trayDrop
  deriving DecidableEq, Repr

/-- A head operation: pocket, job and phase (R83), its limit timer in half seconds, the parts of the granted entry that
a put-back returns (R89), and the RETRIED flag (R95). -/
structure Operation where
  pocket : PocketId
  job : Job
  phase : Phase
  limit : Nat
  lane : Lane
  stamp : Nat
  passOvers : Nat
  retried : Bool
  deriving DecidableEq, Repr

/-- The judgement of a self-test level (R118). -/
inductive Judgement where
  | pass | marginal | fail
  deriving DecidableEq, Repr

/-- The self-test outcome (R113). -/
inductive TestOutcome where
  | none | pass | marginal | fail
  deriving DecidableEq, Repr

/-- The reference level a self-test awaits, with the judgements of the levels before it (R117, R118). -/
inductive TestLevel where
  | light
  | medium (light : Judgement)
  | firm (light medium : Judgement)
  deriving DecidableEq, Repr

/-- The head state (R83). -/
inductive HeadState where
  | idle
  | busy (op : Operation)
  | testing (level : TestLevel) (limit : Nat)
  | stopped
  deriving DecidableEq, Repr

/-- Whether the head has reported the cartridge exhausted (R107). -/
inductive StapleState where
  | ready | empty
  deriving DecidableEq, Repr

/-- The staple budget (R107). -/
structure StapleBudget where
  remaining : Nat
  committed : Nat
  state : StapleState
  deriving DecidableEq, Repr

/-- A head reading with its updated flag (R113). `rewritten` says that it was written again after the HEAD report now
queued was built (R115, log 21). -/
structure HeadReading where
  value : SenseReading
  updated : Bool
  rewritten : Bool
  deriving DecidableEq, Repr

/-- The reset value of a reading (R113). -/
def HeadReading.clear : HeadReading := { value := 0, updated := false, rewritten := false }

/-- The head readings record (R113). -/
structure HeadReadings where
  position1 : HeadReading
  position2 : HeadReading
  light : HeadReading
  medium : HeadReading
  firm : HeadReading
  outcome : TestOutcome
  deriving DecidableEq, Repr

/-- The Finishing Head Controller: finish queue and arrival count (R84), head state (R83), waiting self-test (R116),
staple budget (R107), head readings (R113). -/
structure FinishingHead where
  queue : List QueueEntry
  arrivals : Nat
  state : HeadState
  testWaiting : Bool
  staples : StapleBudget
  readings : HeadReadings
  deriving DecidableEq, Repr

/-! ### Return Rack Unit and the retained store -/

/-- The flags of DELIVERED and of a roster record (R13, R129). -/
structure DeliveryFlags where
  extraSeen : Bool
  retried : Bool
  overflowBin : Bool
  deriving DecidableEq, Repr

/-- A roster record (R129). -/
structure RosterRecord where
  id : PackId
  classCode : Nat
  roll : Nat
  sheets : Nat
  flags : DeliveryFlags
  deriving DecidableEq, Repr

/-- A bin record (R128). -/
structure Bin where
  fillPacks : Nat
  fillSheets : Nat
  committed : Nat
  roster : List RosterRecord
  deriving DecidableEq, Repr

/-- An empty bin record (R136). -/
def Bin.empty : Bin := { fillPacks := 0, fillSheets := 0, committed := 0, roster := [] }

/-- The Return Rack Unit's bin table and exception tray count (R128, R134). -/
structure Rack where
  bins : List Bin
  tray : Nat
  deriving DecidableEq, Repr

/-- A bin as the retained store keeps it (R136: committed counts are not retained). -/
structure RetainedBin where
  fillPacks : Nat
  fillSheets : Nat
  roster : List RosterRecord
  deriving DecidableEq, Repr

/-- The retained store (12.4, R188): its content with the geometry it was written under (R137), and whether its store
check matches. -/
structure RetainedStore where
  rackSize : Nat
  binPackCapacity : Nat
  binSheetCapacity : Nat
  trayCapacity : Nat
  bins : List RetainedBin
  tray : Nat
  remaining : Nat
  checkMatches : Bool
  deriving DecidableEq, Repr

/-- A store whose content a POWER reset has not preserved (R188, log 12). -/
def RetainedStore.lost : RetainedStore :=
  { rackSize := 0, binPackCapacity := 0, binSheetCapacity := 0, trayCapacity := 0, bins := [], tray := 0,
    remaining := 0, checkMatches := false }

/-! ### Station Controller -/

/-- The hold record (R155); the renewal timer holds its remaining half seconds. -/
structure Hold where
  active : Bool
  queued : Bool
  timer : Option Nat
  deriving DecidableEq, Repr

/-- An ask: its kind and selector (R164, R175). -/
inductive Ask where
  | summary
  | pack (id : WirePackId)
  | pocket (selector : Byte)
  | bin (selector : Byte)
  | head
  | counters
  deriving DecidableEq, Repr

/-- The order kinds (R175). -/
inductive OrderKind where
  | standby | resume | selfTest | clearCounters | reboot
  deriving DecidableEq, Repr

/-- The answer codes (R175). -/
inductive AnswerCode where
  | accepted | busy | wrongState | jamPresent
  deriving DecidableEq, Repr

/-- The 24 counters (R181), in the order of the counter table. -/
structure Counters where
  offersRefused : Count16
  malformed : Count16
  outOfSequence : Count16
  lateBids : Count16
  unreadable : Count16
  ownPassed : Count16
  extra : Count16
  clinchRetries : Count16
  overdrive : Count16
  asideSequence : Count16
  asideShort : Count16
  asideGap : Count16
  asideNoSheets : Count16
  asideTruncated : Count16
  asideExtra : Count16
  asideWithdrawn : Count16
  asideClinch : Count16
  delivered : Count16
  tooLate : Count16
  spoiledSeen : Count16
  spoiledHere : Count16
  ownRetries : Count16
  ordersIgnored : Count16
  furtherFaults : Count16
  deriving DecidableEq, Repr

/-- Every counter at 0 (R181). -/
def Counters.zero : Counters :=
  { offersRefused := 0, malformed := 0, outOfSequence := 0, lateBids := 0, unreadable := 0, ownPassed := 0, extra := 0,
    clinchRetries := 0, overdrive := 0, asideSequence := 0, asideShort := 0, asideGap := 0, asideNoSheets := 0,
    asideTruncated := 0, asideExtra := 0, asideWithdrawn := 0, asideClinch := 0, delivered := 0, tooLate := 0,
    spoiledSeen := 0, spoiledHere := 0, ownRetries := 0, ordersIgnored := 0, furtherFaults := 0 }

/-- The Station Controller. -/
structure Controller where
  station : StationState
  resetCause : ResetCause
  storeResult : StoreResult
  configFault : Option ConfigFault
  haltCause : Option HaltCause
  heldCause : Option HaltCause
  linkLossHeld : Bool
  hold : Hold
  reportSlot : Option Ask
  answerSlot : Option (OrderKind × AnswerCode)
  /-- the bin and the 1-based position where its next BIN report starts (R178) -/
  rosterCursor : Option (Nat × Nat)
  counters : Counters
  deriving DecidableEq, Repr

/-! ### Reports -/

/-- The phase part of a report on a busy head (R106). -/
structure BusyView where
  pocket : PocketId
  job : Job
  phase : Phase
  deriving DecidableEq, Repr

/-- The head state as SUMMARY gives it (R106). -/
inductive HeadView where
  | idle
  | busy (view : BusyView)
  | testing
  | stopped
  deriving DecidableEq, Repr

/-- The number of pockets in each state (R82). -/
structure PocketCensus where
  free : Nat
  reserved : Nat
  filling : Nat
  absorbing : Nat
  waiting : Nat
  atHead : Nat
  retiring : Nat
  leftover : Nat
  deriving DecidableEq, Repr

/-- The content of a SUMMARY report (R177); times in whole seconds, rounded up. -/
structure SummaryContent where
  station : StationState
  resetCause : ResetCause
  storeResult : StoreResult
  haltCause : Option HaltCause
  testing : Bool
  holdActive : Bool
  holdQueued : Bool
  renewalSeconds : Option Nat
  holdCondition : Bool
  trayFull : Bool
  entries : Nat
  bidding : Nat
  ownPlaced : Nat
  pockets : PocketCensus
  head : HeadView
  queueLength : Nat
  queueBlocked : Nat
  remaining : Nat
  committed : Nat
  stapleState : StapleState
  outcome : TestOutcome
  rackSize : Nat
  binsFull : Nat
  tray : Nat
  trayCapacity : Nat
  deriving DecidableEq, Repr

/-- A pocket timer as reported: its kind and the remaining whole seconds, rounded up (R82). -/
inductive TimerView where
  | firstSheet (seconds : Nat)
  | gap (seconds : Nat)
  deriving DecidableEq, Repr

/-- Strokes done as reported (R84, R106). -/
structure StrokesView where
  done : Nat
  openStaple : Bool
  retried : Bool
  deriving DecidableEq, Repr

/-- A finish queue entry as a POCKET report gives it (R106). -/
structure QueueView where
  lane : Lane
  stamp : Nat
  passOvers : Nat
  blocked : Option BlockedReason
  strokes : Option StrokesView
  deriving DecidableEq, Repr

/-- The content of a POCKET report (R82, R106). -/
structure PocketContent where
  state : PocketState
  pack : Option PackId
  sheets : Nat
  next : Option Nat
  reason : Option AsideReason
  job : Option Job
  timer : Option TimerView
  extraSeen : Bool
  queue : Option QueueView
  phase : Option Phase
  deriving DecidableEq, Repr

/-- The content of a BIN report (R138, R178). -/
structure BinContent where
  fillPacks : Nat
  fillSheets : Nat
  committed : Nat
  tentative : Nat
  sheetRoom : Nat
  hasPlace : Bool
  records : List RosterRecord
  first : Nat
  length : Nat
  deriving DecidableEq, Repr

/-- A reading with its flag, as a HEAD report carries it (R115). -/
structure ReadingView where
  value : SenseReading
  updated : Bool
  deriving DecidableEq, Repr

/-- The content of a HEAD report (R112, R115). -/
structure HeadContent where
  position1 : ReadingView
  position2 : ReadingView
  light : ReadingView
  medium : ReadingView
  firm : ReadingView
  outcome : TestOutcome
  remaining : Nat
  committed : Nat
  stapleState : StapleState
  cartridgeSize : Nat
  deriving DecidableEq, Repr

/-- The content of a REPORT after its ask kind, by its named fields (00_scope.md, Layouts; R176 to R178). `nothing` is
REPORT NONE; `faulted` is the SUMMARY of CONFIG_FAULT. -/
inductive ReportContent where
  | nothing
  | summary (content : SummaryContent)
  | faulted (station : StationState) (resetCause : ResetCause) (fault : Option ConfigFault)
  | pack (entry : Entry)
  | pocket (content : PocketContent)
  | bin (content : BinContent)
  | head (content : HeadContent)
  | counters (content : Counters)
  deriving DecidableEq, Repr

/-! ### Bay Link Unit -/

/-- A frame this station sends (R164), by its body fields. -/
inductive TxFrame where
  | delivered (id : PackId) (bin : Nat) (flags : DeliveryFlags)
  | aside (id : PackId) (reason : AsideReason)
  | halt (cause : HaltCause)
  | bid (id : PackId) (fit : Nat) (load : Nat)
  | hold (time : Nat)
  | join (cause : ResetCause) (stapler : Bool) (edge : Bool) (outcome : TestOutcome) (capacity : Nat)
  | report (ask : Ask) (content : ReportContent)
  | answer (order : OrderKind) (code : AnswerCode)
  deriving DecidableEq, Repr

/-- A request that waits for the end of a frame's attempt (R169). -/
inductive TxMark where
  | none | remove | replace
  deriving DecidableEq, Repr

/-- A transmit queue element: the frame, the number of its append (its entry order, R168), whether an attempt of it is
in progress (R165), and a waiting request (R169). -/
structure TxEntry where
  number : Nat
  frame : TxFrame
  attempting : Bool
  mark : TxMark
  deriving DecidableEq, Repr

/-- The Bay Link Unit (R168, R170, R171). -/
structure BayLink where
  queue : List TxEntry
  nextNumber : Nat
  lastEnded : Option Nat
  sendRun : Nat
  recvRun : Nat
  deriving DecidableEq, Repr

/-! ### The part -/

/-- Events that the senses hold until the retained store check (R133, R135, R184). -/
structure HeldEvents where
  bins : List Nat
  tray : Bool
  cartridge : Bool
  deriving DecidableEq, Repr

/-- Power, pins and sensors (00_scope.md, Pin groups). -/
structure Part where
  supplied : Bool
  resetPin : Bool
  straps : Option Straps
  jamLines : PocketLevels
  occupied : PocketLevels
  headJamSense : Bool
  carriageJamSense : Bool
  cartridgeSense : Bool
  divert : Option PocketId
  held : HeldEvents
  deriving DecidableEq, Repr

/-- The whole machine. -/
structure State where
  /-- the commands that are waiting, first in, first out -/
  pending : List Instr
  part : Part
  config : Option StationConfig
  ctl : Controller
  link : BayLink
  packs : PackTable
  pockets : Pockets
  head : FinishingHead
  rack : Rack
  store : RetainedStore
  deriving DecidableEq, Repr

/-- No command of this block ends in a fault: the spec gives every command an effect or says it is ignored (log 28). -/
inductive Fault where
  deriving DecidableEq, Repr

/-- Why a step would be refused. -/
inductive Refusal where
  /-- Raised only by an arm of `exec` whose command has no meaning yet; safe, since the run stops there. -/
  | notModelled (mnemonic : String)
  deriving DecidableEq, Repr

/-- No level active. -/
def noLevels : PocketLevels := { p1 := false, p2 := false, p3 := false, p4 := false }

/-- The machine right after a POWER reset with the reset pin not active (R183): LOADING, reset cause POWER, every block
at its reset values, the straps sampled. The strap and sensor levels are DESIGN CHOICES (logs 1 and 2). -/
def State.reset : State :=
  { pending := [],
    part :=
      { supplied := true, resetPin := false, straps := some { address := 1, rate := .kbit250 }, jamLines := noLevels,
        occupied := noLevels, headJamSense := false, carriageJamSense := false, cartridgeSense := false,
        divert := none, held := { bins := [], tray := false, cartridge := false } },
    config := none,
    ctl :=
      { station := .loading, resetCause := .power, storeResult := .notMade, configFault := none, haltCause := none,
        heldCause := none, linkLossHeld := false, hold := { active := false, queued := false, timer := none },
        reportSlot := none, answerSlot := none, rosterCursor := none, counters := Counters.zero },
    link := { queue := [], nextNumber := 0, lastEnded := none, sendRun := 0, recvRun := 0 },
    packs := { entries := [], bids := [] },
    pockets := { p1 := Pocket.empty, p2 := Pocket.empty, p3 := Pocket.empty, p4 := Pocket.empty },
    head :=
      { queue := [], arrivals := 0, state := .idle, testWaiting := false,
        staples := { remaining := 0, committed := 0, state := .ready },
        readings :=
          { position1 := HeadReading.clear, position2 := HeadReading.clear, light := HeadReading.clear,
            medium := HeadReading.clear, firm := HeadReading.clear, outcome := .none } },
    rack := { bins := [], tray := 0 },
    store := RetainedStore.lost }

end Sys2Proof.Machine
end

