-- ==== Sys2Proof/Machine/Flags.lean ====
section
/-!
DEFINITION. The counters (R181), the predicates and derived values that the rules read from State, and the codes of R164
and R175. None of these changes State.
-/
namespace Sys2Proof

/-- The four pockets in number order. -/
def PocketId.all : List PocketId := [.p1, .p2, .p3, .p4]

/-- A pocket's number, 1 to 4. -/
def PocketId.number : PocketId → Nat
  | .p1 => 1
  | .p2 => 2
  | .p3 => 3
  | .p4 => 4

/-- The level of one pocket. -/
def PocketLevels.get (l : PocketLevels) : PocketId → Bool
  | .p1 => l.p1
  | .p2 => l.p2
  | .p3 => l.p3
  | .p4 => l.p4

/-- The levels with one pocket's level set. -/
def PocketLevels.set (l : PocketLevels) (b : Bool) : PocketId → PocketLevels
  | .p1 => { l with p1 := b }
  | .p2 => { l with p2 := b }
  | .p3 => { l with p3 := b }
  | .p4 => { l with p4 := b }

/-- Whether any pocket's level is active. -/
def PocketLevels.any (l : PocketLevels) : Bool := l.p1 || l.p2 || l.p3 || l.p4

end Sys2Proof

namespace Sys2Proof.Machine

open Sys2Proof.Config

/-! ### Counters -/

/-- The names of the 24 counters (R181); the set-aside counters are named by their reason. -/
inductive CounterName where
  | offersRefused | malformed | outOfSequence | lateBids | unreadable | ownPassed | extra | clinchRetries | overdrive
  | setAside (reason : AsideReason)
  | delivered | tooLate | spoiledSeen | spoiledHere | ownRetries | ordersIgnored | furtherFaults
  deriving DecidableEq, Repr

/-- A counter raised at 65535 stays at 65535 (R181). -/
def raised (c : Count16) : Count16 := if c = 65535 then c else c + 1

/-- The value of a counter. -/
def Counters.get (k : Counters) : CounterName → Count16
  | .offersRefused => k.offersRefused
  | .malformed => k.malformed
  | .outOfSequence => k.outOfSequence
  | .lateBids => k.lateBids
  | .unreadable => k.unreadable
  | .ownPassed => k.ownPassed
  | .extra => k.extra
  | .clinchRetries => k.clinchRetries
  | .overdrive => k.overdrive
  | .setAside .sequence => k.asideSequence
  | .setAside .short => k.asideShort
  | .setAside .gap => k.asideGap
  | .setAside .noSheets => k.asideNoSheets
  | .setAside .truncated => k.asideTruncated
  | .setAside .extra => k.asideExtra
  | .setAside .withdrawn => k.asideWithdrawn
  | .setAside .clinch => k.asideClinch
  | .delivered => k.delivered
  | .tooLate => k.tooLate
  | .spoiledSeen => k.spoiledSeen
  | .spoiledHere => k.spoiledHere
  | .ownRetries => k.ownRetries
  | .ordersIgnored => k.ordersIgnored
  | .furtherFaults => k.furtherFaults

/-- Raise one counter by 1, saturating (R181). -/
def Counters.bump (k : Counters) : CounterName → Counters
  | .offersRefused => { k with offersRefused := raised k.offersRefused }
  | .malformed => { k with malformed := raised k.malformed }
  | .outOfSequence => { k with outOfSequence := raised k.outOfSequence }
  | .lateBids => { k with lateBids := raised k.lateBids }
  | .unreadable => { k with unreadable := raised k.unreadable }
  | .ownPassed => { k with ownPassed := raised k.ownPassed }
  | .extra => { k with extra := raised k.extra }
  | .clinchRetries => { k with clinchRetries := raised k.clinchRetries }
  | .overdrive => { k with overdrive := raised k.overdrive }
  | .setAside .sequence => { k with asideSequence := raised k.asideSequence }
  | .setAside .short => { k with asideShort := raised k.asideShort }
  | .setAside .gap => { k with asideGap := raised k.asideGap }
  | .setAside .noSheets => { k with asideNoSheets := raised k.asideNoSheets }
  | .setAside .truncated => { k with asideTruncated := raised k.asideTruncated }
  | .setAside .extra => { k with asideExtra := raised k.asideExtra }
  | .setAside .withdrawn => { k with asideWithdrawn := raised k.asideWithdrawn }
  | .setAside .clinch => { k with asideClinch := raised k.asideClinch }
  | .delivered => { k with delivered := raised k.delivered }
  | .tooLate => { k with tooLate := raised k.tooLate }
  | .spoiledSeen => { k with spoiledSeen := raised k.spoiledSeen }
  | .spoiledHere => { k with spoiledHere := raised k.spoiledHere }
  | .ownRetries => { k with ownRetries := raised k.ownRetries }
  | .ordersIgnored => { k with ordersIgnored := raised k.ordersIgnored }
  | .furtherFaults => { k with furtherFaults := raised k.furtherFaults }

/-! ### Pockets -/

/-- One pocket's record. -/
def Pockets.get (ps : Pockets) : PocketId → Pocket
  | .p1 => ps.p1
  | .p2 => ps.p2
  | .p3 => ps.p3
  | .p4 => ps.p4

/-- The records with one pocket's record replaced. -/
def Pockets.set (ps : Pockets) (q : Pocket) : PocketId → Pockets
  | .p1 => { ps with p1 := q }
  | .p2 => { ps with p2 := q }
  | .p3 => { ps with p3 := q }
  | .p4 => { ps with p4 := q }

/-- The job part of a pocket record (R62). -/
def Pocket.job (q : Pocket) : Option Job :=
  match q.state with
  | .waiting j => some j
  | .atHead j => some j
  | .retiring j => some j
  | .free => none
  | .reserved => none
  | .filling => none
  | .absorbing _ => none
  | .leftover => none

/-- The fault reason part of a pocket record (R62): the reason of ABSORBING, or of a SET_ASIDE job. -/
def Pocket.reason (q : Pocket) : Option AsideReason :=
  match q.state with
  | .absorbing r => some r
  | .waiting (.setAside r) => some r
  | .atHead (.setAside r) => some r
  | .retiring (.setAside r) => some r
  | _ => none

/-- Whether a job belongs to a pack (FINISH or SET_ASIDE) rather than to leftover sheets (CLEAR). -/
def Job.ofPack : Job → Bool
  | .finish => true
  | .setAside _ => true
  | .clear => false

/-- A pocket counts as bound to an entry in these states (R32, R63). -/
def Pocket.isBound (q : Pocket) : Bool :=
  match q.state with
  | .reserved => true
  | .filling => true
  | .absorbing _ => true
  | .waiting j => j.ofPack
  | .atHead j => j.ofPack
  | .retiring _ => true
  | .free => false
  | .leftover => false

/-! ### The part and the station state -/

/-- The part takes events only with power applied and the reset pin released (R183). -/
def State.running (s : State) : Bool := s.part.supplied && !s.part.resetPin

/-- The station's own address, 0 while no straps are sampled (R162). -/
def State.address (s : State) : Nat :=
  match s.part.straps with
  | some st => st.address.toNat
  | none => 0

/-- The Bay Link Unit drives the link and delivers only with a sampled address from 1 to 8 (R162). -/
def State.unitActive (s : State) : Bool := s.running && decide (1 ≤ s.address ∧ s.address ≤ 8)

/-- The configuration in force; before distribution, the undistributed values (R45, R121). -/
def State.cfg (s : State) : StationConfig := s.config.getD StationConfig.undistributed

/-- The gate decides, and pocket timers run, in RUN, DRAIN and STANDBY (R60, R73). -/
def StationState.gates : StationState → Bool
  | .run => true
  | .drain => true
  | .standby => true
  | .loading => false
  | .configFault => false
  | .joining => false
  | .halting => false
  | .halted => false
  | .safe => false

/-- The hold acts in JOINING, RUN, DRAIN and STANDBY (R155). -/
def StationState.holds : StationState → Bool
  | .joining => true
  | .run => true
  | .drain => true
  | .standby => true
  | .loading => false
  | .configFault => false
  | .halting => false
  | .halted => false
  | .safe => false

/-- A selection may be made in LOADING, JOINING, RUN, DRAIN and STANDBY (R90). -/
def StationState.selects : StationState → Bool
  | .loading => true
  | .joining => true
  | .run => true
  | .drain => true
  | .standby => true
  | .configFault => false
  | .halting => false
  | .halted => false
  | .safe => false

/-- The finish queue is frozen in HALTING (R87) and SAFE (R150). -/
def StationState.freezes : StationState → Bool
  | .halting => true
  | .safe => true
  | .loading => false
  | .configFault => false
  | .joining => false
  | .run => false
  | .drain => false
  | .standby => false
  | .halted => false

/-- The Pack Table discards frames in LOADING and CONFIG_FAULT (R5). -/
def StationState.applies : StationState → Bool
  | .loading => false
  | .configFault => false
  | .joining => true
  | .run => true
  | .drain => true
  | .standby => true
  | .halting => true
  | .halted => true
  | .safe => true

/-- Asks and orders are taken in these states by R176 and R179 (R175). -/
def StationState.answers : StationState → Bool
  | .joining => true
  | .run => true
  | .drain => true
  | .standby => true
  | .halting => true
  | .halted => true
  | .loading => false
  | .configFault => false
  | .safe => false

/-! ### Head, tray, hold -/

/-- The station is testing from the request of a self-test until it ends (R116). -/
def State.testing (s : State) : Bool :=
  s.head.testWaiting ||
    match s.head.state with
    | .testing _ _ => true
    | .idle => false
    | .busy _ => false
    | .stopped => false

/-- The exception tray is full when its count equals the capacity (R134); with no configuration there is no capacity. -/
def State.trayFull (s : State) : Bool :=
  match s.config with
  | some c => decide (s.rack.tray = c.trayCapacity)
  | none => false

/-- The hold condition (R156). -/
def State.holdCondition (s : State) : Bool :=
  match s.config with
  | some c => decide (c.holdThreshold ≤ s.head.queue.length) || s.trayFull
  | none => false

/-- An entry is ready when it has no blocked reason (R84). -/
def QueueEntry.ready (e : QueueEntry) : Bool := e.blocked.isNone

/-- An entry is of the first class when URGENT or aged to the limit (R91). -/
def QueueEntry.firstClass (e : QueueEntry) : Bool :=
  decide (e.lane = .urgent) || decide (e.passOvers = agingLimit)

/-! ### Pack table lookups -/

/-- The entry of a pack id (R5). -/
def State.entry (s : State) (id : PackId) : Option Entry := s.packs.entries.find? fun e => decide (e.offer.id = id)

/-- This station's pending bid for a pack (R30). -/
def State.pendingBid (s : State) (id : PackId) : Option PendingBid := s.packs.bids.find? fun b => decide (b.id = id)

/-- The annex of an entry, present at the owner (R4). -/
def Entry.annex (e : Entry) : Option Annex :=
  match e.state with
  | .placed _ a => a
  | .bidding _ => none

/-- Whether an entry is BIDDING. -/
def Entry.isBidding (e : Entry) : Bool :=
  match e.state with
  | .bidding _ => true
  | .placed _ _ => false

/-- Whether an entry is PLACED with the given station as owner. -/
def Entry.ownedBy (e : Entry) (station : Nat) : Bool :=
  match e.state with
  | .bidding _ => false
  | .placed o _ => decide (o = station)

/-- The staples a finish kind needs (R2, R26). -/
def FinishKind.need : FinishKind → Nat
  | .loose => 0
  | .corner => 1
  | .edge => 2

/-- The answers of a lookup for the gate (R19). -/
inductive Lookup where
  | unknown
  | bidding
  | other
  | own (entry : Entry) (annex : Annex)
  deriving DecidableEq, Repr

/-- The Pack Table's answer to the Gate Unit (R19). -/
def State.lookup (s : State) (id : PackId) : Lookup :=
  match s.entry id with
  | none => .unknown
  | some e =>
    match e.state with
    | .bidding _ => .bidding
    | .placed o a =>
      if o = s.address then
        match a with
        | some a => .own e a
        | none => .other
      else .other

/-- The staple positions of a pocket's pack not yet driven with a good clinch (R75, R108). -/
def State.undriven (s : State) (p : PocketId) : Nat :=
  match (s.pockets.get p).bound with
  | none => 0
  | some b =>
    match s.entry b.pack with
    | none => 0
    | some e => e.offer.finish.need - (s.pockets.get p).driven

/-- The target bin of a pocket's pack, from its annex (R4). -/
def State.targetBin (s : State) (p : PocketId) : Option Nat :=
  match (s.pockets.get p).bound with
  | none => none
  | some b =>
    match s.entry b.pack with
    | none => none
    | some e => e.annex.map Annex.bin

/-! ### Bins -/

/-- The record of bin `n`, numbered from 1 (R128). -/
def State.bin (s : State) (n : Nat) : Option Bin := if n = 0 then none else s.rack.bins[n - 1]?

/-- The tentative count of a bin: the pending bids whose target it is (R28, R127). -/
def State.tentative (s : State) (n : Nat) : Nat := s.packs.bids.countP fun b => decide (b.bin = n)

/-- A bin has a place by R127. -/
def State.hasPlace (s : State) (n : Nat) : Bool :=
  match s.bin n with
  | none => false
  | some b => decide (b.fillPacks + b.committed + s.tentative n < s.cfg.binPackCapacity)

/-- The tentative staples: the staple claims of all pending bids (R27). -/
def State.tentativeStaples (s : State) : Nat := (s.packs.bids.map PendingBid.staples).sum

/-- The staples not yet promised, which may be negative (R27). -/
def State.unpromised (s : State) : Int :=
  (s.head.staples.remaining : Int) - s.head.staples.committed - s.tentativeStaples

/-- The load of a new bid: pockets bound to entries plus pending bids (R32). -/
def State.load (s : State) : Nat :=
  (PocketId.all.countP fun p => (s.pockets.get p).isBound) + s.packs.bids.length

/-- The claims of the pending bids on pockets (R25). -/
def State.claimed (s : State) (p : PocketId) : Bool := s.packs.bids.any fun b => decide (b.pocket = p)

/-- The lowest-numbered FREE pocket no pending bid has claimed (R25). -/
def State.freePocket (s : State) : Option PocketId :=
  PocketId.all.find? fun p => decide ((s.pockets.get p).state = .free) && !s.claimed p

/-! ### Codes of the frame bodies (R164) and of the console (R175) -/

def AsideReason.code : AsideReason → Nat
  | .sequence => 1
  | .short => 2
  | .gap => 3
  | .noSheets => 4
  | .truncated => 5
  | .extra => 6
  | .withdrawn => 7
  | .clinch => 8

def HaltCause.code : HaltCause → Nat
  | .headJam => 1
  | .strokeTimeout => 2
  | .ejectFault => 3
  | .dropTimeout => 4
  | .trayTimeout => 5
  | .pocketJam => 6

def ResetCause.code : ResetCause → Nat
  | .power => 1
  | .line => 2
  | .reboot => 3

def TestOutcome.code : TestOutcome → Nat
  | .none => 0
  | .pass => 1
  | .marginal => 2
  | .fail => 3

/-- The flags of DELIVERED as a byte: place 0 EXTRA_SEEN, place 1 RETRIED, place 2 OVERFLOW_BIN (R164). -/
def DeliveryFlags.code (f : DeliveryFlags) : Nat := f.extraSeen.toNat + 2 * f.retried.toNat + 4 * f.overflowBin.toNat

def Ask.code : Ask → Nat
  | .summary => 1
  | .pack _ => 2
  | .pocket _ => 3
  | .bin _ => 4
  | .head => 5
  | .counters => 6

def OrderKind.code : OrderKind → Nat
  | .standby => 1
  | .resume => 2
  | .selfTest => 3
  | .clearCounters => 4
  | .reboot => 5

def AnswerCode.code : AnswerCode → Nat
  | .accepted => 1
  | .busy => 2
  | .wrongState => 3
  | .jamPresent => 4

def FaultCode.number : FaultCode → Nat
  | .badAddress => 1
  | .readFailed => 2
  | .badCheck => 3
  | .outOfRange => 4
  | .sheetCapacity => 5
  | .mapBin => 6
  | .mapSameBin => 7
  | .chainOpen => 8
  | .chainMaskEnd => 9

end Sys2Proof.Machine
end

