-- ==== Sys2Proof/Machine/DeliveryMap.lean ====
section
/-!
DEFINITION. The delivery map: matching and lookup (R123 to R126) and the choice of a target bin (R127).
-/
namespace Sys2Proof.Machine

open Sys2Proof.Config

/-- The lower bound of an UPTO entry, read from the entry before it (R124). -/
def uptoLower (before : Option MapEntry) (e : MapEntry) : Nat :=
  match before with
  | none => 1
  | some b => if b.mode ≠ .off ∧ b.classCode = e.classCode then b.rollBound + 1 else 1

/-- The start of the aligned group of 2^k roll numbers that contains the roll bound (R125). -/
def blockStart (e : MapEntry) : Nat := e.rollBound / 2 ^ e.exponent * 2 ^ e.exponent

/-- The roll range of an entry (R123). -/
def rollInRange (before : Option MapEntry) (e : MapEntry) (roll : Nat) : Bool :=
  match e.mode with
  | .off => false
  | .single => decide (roll = e.rollBound)
  | .upto => decide (uptoLower before e ≤ roll ∧ roll ≤ e.rollBound)
  | .block => decide (blockStart e ≤ roll ∧ roll ≤ blockStart e + (2 ^ e.exponent - 1))

/-- An entry matches a class code and roll number (R123). -/
def mapMatches (before : Option MapEntry) (e : MapEntry) (classCode roll : Nat) : Bool :=
  decide (e.classCode = classCode) && rollInRange before e roll

/-- The first entry that matches, with the entry before the head of the list at hand (R126). -/
def lookupFrom (classCode roll : Nat) : Option MapEntry → List MapEntry → Option MapEntry
  | _, [] => none
  | before, e :: rest =>
    if mapMatches before e classCode roll then some e else lookupFrom classCode roll (some e) rest

/-- The lookup of a class code and roll number (R126). -/
def mapLookup (m : List MapEntry) (classCode roll : Nat) : Option MapEntry := lookupFrom classCode roll none m

/-- The target bin of an offer: the primary bin if it has a place, else the overflow bin if it has one (R127). -/
def chooseBin (s : State) (o : Offer) : Option Nat :=
  match mapLookup s.cfg.map o.classCode o.roll with
  | none => none
  | some e =>
    if s.hasPlace e.primary then some e.primary
    else
      match e.overflow with
      | none => none
      | some b => if s.hasPlace b then some b else none

/-- The OVERFLOW_BIN flag of a drop: the target is the overflow bin of the lookup's entry (R131 step 1). -/
def isOverflow (s : State) (o : Offer) (bin : Nat) : Bool :=
  match mapLookup s.cfg.map o.classCode o.roll with
  | none => false
  | some e => decide (e.overflow = some bin)

end Sys2Proof.Machine
end

