-- ==== Sys2Proof/Machine/Intake.lean ====
section
/-!
DEFINITION. The Intake Rule Engine: the values rules test (R49), chains (R48), and the evaluation of an offer (R50 to R56).
An evaluation reads the offer and the configured table and changes nothing.
-/
namespace Sys2Proof.Machine

open Sys2Proof.Config

/-- The value of an offer that a COMPARE entry tests (R49). -/
def ruleValue (o : Offer) : RuleField → Nat
  | .classCode => o.classCode
  | .roll => o.roll
  | .count => o.count
  | .finish => o.finish.need
  | .lane =>
    match o.lane with
    | .normal => 0
    | .urgent => 1
  | .feed => o.id.feed - 16

/-- The result of a COMPARE (R50): EQ and NE under the working mask, GE and LT on the full values. -/
def compareHolds (relation : Relation) (mask value entry : Byte) : Bool :=
  match relation with
  | .eq => decide (value &&& mask = entry &&& mask)
  | .ne => decide (value &&& mask ≠ entry &&& mask)
  | .ge => decide (entry.toNat ≤ value.toNat)
  | .lt => decide (value.toNat < entry.toNat)

/-- The chains of a run of active entries, in table order (R48). -/
def chainsOf : List Rule → List (List Rule)
  | [] => []
  | r :: rest =>
    if r.join then
      match chainsOf rest with
      | [] => [[r]]
      | c :: cs => (r :: c) :: cs
    else [r] :: chainsOf rest

/-- A chain walked with the working mask in force at its first entry: the verdict of its last entry when every entry
yields true, none when a COMPARE fails (R50 to R54). -/
def walkChain (o : Offer) : Byte → List Rule → Option Verdict
  | _, [] => none
  | mask, r :: rest =>
    match r with
    | .compare field relation value _ verdict =>
      if compareHolds relation mask (BitVec.ofNat 8 (ruleValue o field)) value then
        match rest with
        | [] => some verdict
        | _ :: _ => walkChain o mask rest
      else none
    | .setMask value _ verdict =>
      match rest with
      | [] => some verdict
      | _ :: _ => walkChain o value rest

/-- The chains in table order, each from the mask with which the evaluation began, since a chain that fails restores it
(R52, R53); the first that decides gives the verdict (R54). -/
def walkChains (o : Offer) (mask : Byte) : List (List Rule) → Option Verdict
  | [] => none
  | c :: cs =>
    match walkChain o mask c with
    | some v => some v
    | none => walkChains o mask cs

/-- The verdict for an offer: the deciding chain's, else the default (R52, R55). -/
def intakeVerdict (c : StationConfig) (o : Offer) : Verdict :=
  (walkChains o 255 (chainsOf c.rules)).getD c.defaultVerdict

end Sys2Proof.Machine
end

