-- ==== Sys2Proof/Machine/Operands.lean ====
section
/-!
DEFINITION. How operands are read: frame kinds and the checks of R173, the frame check (R163) and the damage test of
R166, the body fields of each kind (R1, R2, R9, R164), the printed mark (R58, R59), and the arbitration of R165.
-/
namespace Sys2Proof

/-! ### The frame check (R163) -/

/-- One place through the remainder register of x^16 + x^12 + x^5 + 1 (R163). -/
def crcPlace (reg : BitVec 16) (place : Bool) : BitVec 16 :=
  if reg.msb != place then (reg <<< 1) ^^^ 0x1021#16 else reg <<< 1

/-- The remainder of a run of places, the register starting at all ones (R163). -/
def crcPlaces (places : List Bool) : BitVec 16 := places.foldl crcPlace 0xFFFF#16

/-- The places of a value, most significant first (R163). -/
def placesOf (width value : Nat) : List Bool := (List.range width).map fun i => value.testBit (width - 1 - i)

/-- The places of a run of bytes. -/
def bytePlaces (bytes : List Byte) : List Bool := bytes.flatMap fun b => placesOf 8 b.toNat

/-- Fields 1 to 6 of a received frame, in the order sent (R163). -/
def Reception.places (r : Reception) : List Bool :=
  placesOf 4 r.frame.precedence.toNat ++ placesOf 5 r.frame.sender.toNat ++ placesOf 4 r.frame.kind.toNat ++
    placesOf 5 r.frame.target.toNat ++ placesOf 7 r.length.toNat ++ bytePlaces r.frame.body

/-! ### The printed mark (R58) -/

/-- The sum of the eight four-place groups (R58). -/
def SheetMark.groupSum (m : SheetMark) : Nat :=
  ([m.b0, m.b1, m.b2, m.b3].map fun b => b.toNat / 16 + b.toNat % 16).sum

/-- The six zero places of R58: byte 1 place 0, byte 2 place 7, byte 3 places 3 to 0. -/
def SheetMark.zeroPlaces (m : SheetMark) : Bool :=
  !m.b1.getLsbD 0 && !m.b2.getLsbD 7 && decide (m.b3.toNat % 16 = 0)

def SheetMark.serial (m : SheetMark) : Nat := (m.b0.toNat % 64) * 64 + m.b1.toNat / 4

def SheetMark.sheetIndex (m : SheetMark) : Nat := m.b2.toNat % 128

end Sys2Proof

namespace Sys2Proof.Machine

open Sys2Proof.Config

/-! ### Frame kinds (R163, R164) -/

/-- The frame kinds (R163). -/
inductive FrameKind where
  | offer | bid | close | withdraw | delivered | aside | halt | join | hold | ask | order | report | answer
  deriving DecidableEq, Repr

/-- The kind of a kind code; 0, 14 and 15 are unused (R163). -/
def FrameKind.ofCode (c : BitVec 4) : Option FrameKind :=
  match c.toNat with
  | 1 => some .offer
  | 2 => some .bid
  | 3 => some .close
  | 4 => some .withdraw
  | 5 => some .delivered
  | 6 => some .aside
  | 7 => some .halt
  | 8 => some .join
  | 9 => some .hold
  | 10 => some .ask
  | 11 => some .order
  | 12 => some .report
  | 13 => some .answer
  | _ => none

/-- The kind code (R163). -/
def FrameKind.code : FrameKind → BitVec 4
  | .offer => 1
  | .bid => 2
  | .close => 3
  | .withdraw => 4
  | .delivered => 5
  | .aside => 6
  | .halt => 7
  | .join => 8
  | .hold => 9
  | .ask => 10
  | .order => 11
  | .report => 12
  | .answer => 13

/-- The precedence of a kind (R164). -/
def FrameKind.precedence : FrameKind → Nat
  | .delivered => 1
  | .aside => 1
  | .halt => 2
  | .bid => 3
  | .hold => 4
  | .close => 5
  | .withdraw => 6
  | .offer => 7
  | .join => 8
  | .ask => 9
  | .order => 9
  | .report => 10
  | .answer => 10

/-- A station's address (R162). -/
def isStation (a : Nat) : Bool := decide (1 ≤ a ∧ a ≤ 8)

/-- A feed node's address (R162). -/
def isFeed (a : Nat) : Bool := decide (16 ≤ a ∧ a ≤ 19)

/-- An address of some member; 0, 9 to 15, 20 to 29 and 31 are unused (R162). -/
def isUsed (a : Nat) : Bool := isStation a || isFeed a || decide (a = 30)

/-- The senders of a kind (R164). -/
def FrameKind.sentBy (k : FrameKind) (a : Nat) : Bool :=
  match k with
  | .offer => isFeed a
  | .close => isFeed a
  | .withdraw => isFeed a || decide (a = 30)
  | .ask => decide (a = 30)
  | .order => decide (a = 30)
  | .bid => isStation a
  | .delivered => isStation a
  | .aside => isStation a
  | .halt => isStation a
  | .join => isStation a
  | .hold => isStation a
  | .report => isStation a
  | .answer => isStation a

/-- The targets of a kind (R164). -/
def FrameKind.sentTo (k : FrameKind) (a : Nat) : Bool :=
  match k with
  | .ask => isStation a
  | .order => isStation a
  | .report => decide (a = 30)
  | .answer => decide (a = 30)
  | .offer => decide (a = 31)
  | .bid => decide (a = 31)
  | .close => decide (a = 31)
  | .withdraw => decide (a = 31)
  | .delivered => decide (a = 31)
  | .aside => decide (a = 31)
  | .halt => decide (a = 31)
  | .join => decide (a = 31)
  | .hold => decide (a = 31)

/-- The ask kind codes (R175). -/
def knownAsk (b : Byte) : Bool := decide (1 ≤ b.toNat ∧ b.toNat ≤ 6)

/-- The order kind codes (R175). -/
def knownOrder (b : Byte) : Bool := decide (1 ≤ b.toNat ∧ b.toNat ≤ 5)

/-- The length of an ASK by its ask kind (R164); an unknown ask kind fails its own check. -/
def askLength (b : Byte) : Nat :=
  match b.toNat with
  | 2 => 4
  | 3 => 2
  | 4 => 2
  | _ => 1

/-- The body lengths of a kind, for an ASK with its ask kind (R164, R173). -/
def FrameKind.lengthAllowed (k : FrameKind) (body : List Byte) : Bool :=
  match k with
  | .delivered => decide (body.length = 5)
  | .aside => decide (body.length = 4)
  | .halt => decide (body.length = 1)
  | .bid => decide (body.length = 5)
  | .hold => decide (body.length = 1)
  | .close => decide (body.length = 3)
  | .withdraw => decide (body.length = 3)
  | .offer => decide (body.length = 8)
  | .join => decide (body.length = 4)
  | .ask => decide (body.length = askLength (body.headD 0))
  | .order => decide (body.length = 1)
  | .report => decide (1 ≤ body.length ∧ body.length ≤ 80)
  | .answer => decide (body.length = 2)

/-- The ask kind, order kind and hold time checks (R173). -/
def FrameKind.bodyAllowed (k : FrameKind) (body : List Byte) : Bool :=
  match k with
  | .ask => knownAsk (body.headD 0)
  | .order => knownOrder (body.headD 0)
  | .hold => decide (1 ≤ (body.headD 0).toNat ∧ (body.headD 0).toNat ≤ 30)
  | .offer => true
  | .bid => true
  | .close => true
  | .withdraw => true
  | .delivered => true
  | .aside => true
  | .halt => true
  | .join => true
  | .report => true
  | .answer => true

/-- A frame delivered from another member is well formed at the station with address `own` (R173, all nine checks).
A frame with the station's own sender address that is not its echo is malformed. -/
def frameWellFormed (own : Nat) (f : Frame) : Bool :=
  isUsed f.sender.toNat &&
    match FrameKind.ofCode f.kind with
    | none => false
    | some k =>
      decide (f.precedence.toNat = k.precedence) && k.sentBy f.sender.toNat && k.sentTo f.target.toNat &&
        k.lengthAllowed f.body && k.bodyAllowed f.body && decide (f.sender.toNat ≠ own)

/-! ### The damage test (R166) -/

/-- A receiver finds the frame damaged (R166). -/
def receptionDamaged (r : Reception) : Bool :=
  decide (81 ≤ r.length.toNat) || !r.complete || !r.readable || decide (r.check ≠ crcPlaces r.places)

/-! ### Body fields -/

/-- The pack id check of R1: a feed from 16 to 19 and a serial other than 0. -/
def readPackId (w : WirePackId) : Option PackId :=
  if isFeed w.feed.toNat && decide (w.serial.toNat ≠ 0) then some { feed := w.feed.toNat, serial := w.serial.toNat } else none

/-- The finish kind coding (R164). -/
def readFinish (b : Byte) : Option FinishKind :=
  match b.toNat with
  | 0 => some .loose
  | 1 => some .corner
  | 2 => some .edge
  | _ => none

/-- The lane coding (R164). -/
def readLane (b : Byte) : Option Lane :=
  match b.toNat with
  | 0 => some .normal
  | 1 => some .urgent
  | _ => none

/-- The offer fields within their ranges (R1, R2). -/
def readOffer (b : OfferBody) : Option Offer :=
  match readPackId b.id, readFinish b.finish, readLane b.lane with
  | some id, some finish, some lane =>
    if id.serial ≤ 4095 ∧ 1 ≤ b.classCode.toNat ∧ b.classCode.toNat ≤ 250 ∧ 1 ≤ b.roll.toNat ∧ b.roll.toNat ≤ 60 ∧
        b.count.toNat ≤ 120 then
      some { id := id, classCode := b.classCode.toNat, roll := b.roll.toNat, count := b.count.toNat, finish := finish,
             lane := lane }
    else none
  | _, _, _ => none

/-- The fit and load ranges of a BID (R9). -/
def bidInRange (b : BidBody) : Bool :=
  decide (1 ≤ b.fit.toNat ∧ b.fit.toNat ≤ 15 ∧ b.load.toNat ≤ 3)

/-! ### Frames as the rows spell them, and bodies read back from a raw frame -/

/-- A frame of a kind with the precedence R164 gives it. -/
def frameOf (k : FrameKind) (sender target : LinkAddress) (body : List Byte) : Frame :=
  { precedence := BitVec.ofNat 4 k.precedence, sender := sender, kind := k.code, target := target, body := body }

/-- The three bytes of a pack id (R164). -/
def packIdBytes (w : WirePackId) : List Byte := [w.feed, w.serial.extractLsb' 8 8, w.serial.extractLsb' 0 8]

/-- A pack id from its three bytes (R164). -/
def packIdOf (feed hi lo : Byte) : WirePackId := { feed := feed, serial := hi ++ lo }

def offerFrame (sender : LinkAddress) (b : OfferBody) : Frame :=
  frameOf .offer sender 31 (packIdBytes b.id ++ [b.classCode, b.roll, b.count, b.finish, b.lane])

def bidFrame (sender : LinkAddress) (b : BidBody) : Frame :=
  frameOf .bid sender 31 (packIdBytes b.id ++ [b.fit, b.load])

def closeFrame (sender : LinkAddress) (id : WirePackId) : Frame := frameOf .close sender 31 (packIdBytes id)

def withdrawFrame (sender : LinkAddress) (id : WirePackId) : Frame := frameOf .withdraw sender 31 (packIdBytes id)

def deliveredFrame (sender : LinkAddress) (b : DeliveredBody) : Frame :=
  frameOf .delivered sender 31 (packIdBytes b.id ++ [b.bin, b.flags])

def asideFrame (sender : LinkAddress) (b : AsideBody) : Frame :=
  frameOf .aside sender 31 (packIdBytes b.id ++ [b.reason])

def haltFrame (sender : LinkAddress) (cause : Byte) : Frame := frameOf .halt sender 31 [cause]

def joinFrame (sender : LinkAddress) (b : JoinBody) : Frame :=
  frameOf .join sender 31 [b.resetCause, b.capabilities, b.outcome, b.capacity]

def holdFrame (sender : LinkAddress) (time : Byte) : Frame := frameOf .hold sender 31 [time]

def askBody : Ask → List Byte
  | .summary => [1]
  | .pack id => 2 :: packIdBytes id
  | .pocket n => [3, n]
  | .bin n => [4, n]
  | .head => [5]
  | .counters => [6]

def askFrame (h : ConsoleHeader) (a : Ask) : Frame := frameOf .ask h.sender h.target (askBody a)

def orderFrame (h : ConsoleHeader) (o : OrderKind) : Frame :=
  frameOf .order h.sender h.target [BitVec.ofNat 8 o.code]

/-- An ask from its body (R164, R175). -/
def readAsk : List Byte → Option Ask
  | [k] =>
    match k.toNat with
    | 1 => some .summary
    | 5 => some .head
    | 6 => some .counters
    | _ => none
  | [k, n] =>
    match k.toNat with
    | 3 => some (.pocket n)
    | 4 => some (.bin n)
    | _ => none
  | [k, feed, hi, lo] => if k.toNat = 2 then some (.pack (packIdOf feed hi lo)) else none
  | _ => none

/-- An order kind from its code (R175). -/
def readOrder (b : Byte) : Option OrderKind :=
  match b.toNat with
  | 1 => some .standby
  | 2 => some .resume
  | 3 => some .selfTest
  | 4 => some .clearCounters
  | 5 => some .reboot
  | _ => none

/-! ### The frames this station sends (R164) -/

def TxFrame.kind : TxFrame → FrameKind
  | .delivered .. => .delivered
  | .aside .. => .aside
  | .halt _ => .halt
  | .bid .. => .bid
  | .hold _ => .hold
  | .join .. => .join
  | .report .. => .report
  | .answer .. => .answer

def TxFrame.precedence (f : TxFrame) : Nat := f.kind.precedence

/-- A pack id's bytes (R164). -/
def PackId.bytes (id : PackId) : List Byte :=
  packIdBytes { feed := BitVec.ofNat 8 id.feed, serial := BitVec.ofNat 16 id.serial }

/-- The body bytes of a frame this station sends (R164). Of a REPORT only the first byte, the ask kind, has a layout
(00_scope.md, Layouts); its content stays in named fields (log 22). -/
def TxFrame.bytes : TxFrame → List Byte
  | .delivered id bin flags => id.bytes ++ [BitVec.ofNat 8 bin, BitVec.ofNat 8 flags.code]
  | .aside id reason => id.bytes ++ [BitVec.ofNat 8 reason.code]
  | .halt cause => [BitVec.ofNat 8 cause.code]
  | .bid id fit load => id.bytes ++ [BitVec.ofNat 8 fit, BitVec.ofNat 8 load]
  | .hold time => [BitVec.ofNat 8 time]
  | .join cause stapler edge outcome capacity =>
    [BitVec.ofNat 8 cause.code, BitVec.ofNat 8 (stapler.toNat + 2 * edge.toNat), BitVec.ofNat 8 outcome.code,
      BitVec.ofNat 8 capacity]
  | .report ask _ => [BitVec.ofNat 8 ask.code]
  | .answer order code => [BitVec.ofNat 8 order.code, BitVec.ofNat 8 code.code]

/-- The target of a frame this station sends (R164). -/
def TxFrame.target (f : TxFrame) : LinkAddress :=
  match f.kind with
  | .report => 30
  | .answer => 30
  | _ => 31

/-- The frame on the link (R163, R164), of a REPORT up to its ask kind byte. -/
def TxFrame.onLink (own : Nat) (f : TxFrame) : Frame := frameOf f.kind (BitVec.ofNat 5 own) f.target f.bytes

/-! ### Arbitration (R165) -/

/-- The arbitration field: 32 times the precedence plus the sender (R163). -/
def arbitrationField (precedence sender : Nat) : Arbitration := BitVec.ofNat 9 (32 * precedence + sender)

/-- The level on the link at one place: dominant (0) when any contender still in sends a 0 (R165). -/
def linkPlace (place : Nat) (fields : List Arbitration) : Bool := fields.all fun f => f.getLsbD place

/-- The contenders that read the place they sent. -/
def stillIn (place : Nat) (level : Bool) (fields : List Arbitration) : List Arbitration :=
  fields.filter fun f => f.getLsbD place == level

/-- The contention through the lowest `n` places of the arbitration field, most significant first: whether the station,
sending `own` against `others`, reads every place it sent (R165). -/
def carried (own : Arbitration) : Nat → List Arbitration → Bool
  | 0, _ => true
  | n + 1, others =>
    let level := linkPlace n (own :: others)
    if own.getLsbD n = level then carried own n (stillIn n level others) else false

/-- The station's frame is carried through its whole arbitration field. -/
def winsArbitration (own : Arbitration) (others : List Arbitration) : Bool := carried own 9 others

/-! ### The printed mark (R58, R59) -/

/-- A decoded mark (R58). -/
structure Mark where
  id : PackId
  index : Nat
  last : Bool
  deriving DecidableEq, Repr

/-- The decoded mark, or none for UNREADABLE (R59). -/
def decodeMark : Option SheetMark → Option Mark
  | none => none
  | some m =>
    if m.groupSum % 16 = 0 ∧ m.zeroPlaces = true ∧ m.serial ≠ 0 ∧ m.sheetIndex ≠ 0 ∧ m.sheetIndex ≤ 120 then
      some { id := { feed := 16 + m.b0.toNat / 64, serial := m.serial }, index := m.sheetIndex,
             last := m.b1.getLsbD 1 }
    else none

end Sys2Proof.Machine
end

