-- ==== Sys2Proof/Machine/Reports.lean ====
section
/-!
DEFINITION. The contents of the REPORT kinds (R20, R82, R106, R112, R115, R138, R161, R176 to R178), gathered from State
as it stands. Building a content changes nothing.
-/
namespace Sys2Proof.Machine

open Sys2Proof.Config

/-- Half seconds as whole seconds, rounded up (R82, R161). -/
def wholeSeconds (halves : Nat) : Nat := (halves + 1) / 2

/-- The number of pockets whose state satisfies `p`. -/
def State.pocketsWith (s : State) (p : PocketState → Bool) : Nat :=
  PocketId.all.countP fun q => p (s.pockets.get q).state

/-- The number of pockets in each state (R82). -/
def State.census (s : State) : PocketCensus :=
  { free := s.pocketsWith fun q => match q with | .free => true | _ => false,
    reserved := s.pocketsWith fun q => match q with | .reserved => true | _ => false,
    filling := s.pocketsWith fun q => match q with | .filling => true | _ => false,
    absorbing := s.pocketsWith fun q => match q with | .absorbing _ => true | _ => false,
    waiting := s.pocketsWith fun q => match q with | .waiting _ => true | _ => false,
    atHead := s.pocketsWith fun q => match q with | .atHead _ => true | _ => false,
    retiring := s.pocketsWith fun q => match q with | .retiring _ => true | _ => false,
    leftover := s.pocketsWith fun q => match q with | .leftover => true | _ => false }

/-- The head state as SUMMARY gives it (R106). -/
def HeadState.view : HeadState → HeadView
  | .idle => .idle
  | .busy op => .busy { pocket := op.pocket, job := op.job, phase := op.phase }
  | .testing _ _ => .testing
  | .stopped => .stopped

/-- A bin has no place left when its fill packs plus committed equal the pack capacity (R138). -/
def State.binsFull (s : State) : Nat :=
  s.rack.bins.countP fun b => decide (b.fillPacks + b.committed = s.cfg.binPackCapacity)

/-- The SUMMARY content (R177). -/
def State.summary (s : State) : SummaryContent :=
  { station := s.ctl.station, resetCause := s.ctl.resetCause, storeResult := s.ctl.storeResult,
    haltCause := s.ctl.haltCause, testing := s.testing, holdActive := s.ctl.hold.active,
    holdQueued := s.ctl.hold.queued, renewalSeconds := s.ctl.hold.timer.map wholeSeconds,
    holdCondition := s.holdCondition, trayFull := s.trayFull, entries := s.packs.entries.length,
    bidding := s.packs.entries.countP Entry.isBidding,
    ownPlaced := s.packs.entries.countP fun e => e.ownedBy s.address, pockets := s.census,
    head := s.head.state.view, queueLength := s.head.queue.length,
    queueBlocked := s.head.queue.countP fun e => !e.ready, remaining := s.head.staples.remaining,
    committed := s.head.staples.committed, stapleState := s.head.staples.state, outcome := s.head.readings.outcome,
    rackSize := s.cfg.rackSize, binsFull := s.binsFull, tray := s.rack.tray, trayCapacity := s.cfg.trayCapacity }

/-- A pocket timer as reported (R82). -/
def PocketTimer.view : PocketTimer → TimerView
  | .firstSheet n => .firstSheet (wholeSeconds n)
  | .gap n => .gap (wholeSeconds n)

/-- The finish queue entry of a WAITING pocket (R106). -/
def State.queueView (s : State) (p : PocketId) : Option QueueView :=
  match (s.pockets.get p).state with
  | .waiting _ =>
    (s.head.queue.find? fun e => decide (e.pocket = p)).map fun e =>
      { lane := e.lane, stamp := e.stamp, passOvers := e.passOvers, blocked := e.blocked,
        strokes := e.strokes.map fun k =>
          { done := (s.pockets.get p).driven, openStaple := k.openStaple, retried := k.retried } }
  | _ => none

/-- The head phase of an AT_HEAD pocket (R106). -/
def State.phaseView (s : State) (p : PocketId) : Option Phase :=
  match (s.pockets.get p).state with
  | .atHead _ =>
    match s.head.state with
    | .busy op => if op.pocket = p then some op.phase else none
    | _ => none
  | _ => none

/-- The POCKET content (R82, R106). -/
def State.pocketContent (s : State) (p : PocketId) : PocketContent :=
  let q := s.pockets.get p
  { state := q.state, pack := q.bound.map Binding.pack, sheets := q.sheets, next := q.bound.map Binding.next,
    reason := q.reason, job := q.job, timer := q.timer.map PocketTimer.view, extraSeen := q.extraSeen,
    queue := s.queueView p, phase := s.phaseView p }

/-- Where the next BIN report of a bin starts, from position 1 (R178). -/
def State.sectionStart (s : State) (n : Nat) : Nat :=
  match s.ctl.rosterCursor with
  | none => 1
  | some (b, position) => if b = n then position else 1

/-- The BIN content (R138) with its section of the roster (R178). -/
def State.binContent (s : State) (n : Nat) (b : Bin) : BinContent :=
  { fillPacks := b.fillPacks, fillSheets := b.fillSheets, committed := b.committed, tentative := s.tentative n,
    sheetRoom := s.cfg.binSheetCapacity - b.fillSheets, hasPlace := s.hasPlace n,
    records := (b.roster.drop (s.sectionStart n - 1)).take rosterSection, first := s.sectionStart n,
    length := b.roster.length }

def HeadReading.view (r : HeadReading) : ReadingView := { value := r.value, updated := r.updated }

/-- The HEAD content (R112, R115). -/
def State.headContent (s : State) : HeadContent :=
  { position1 := s.head.readings.position1.view, position2 := s.head.readings.position2.view,
    light := s.head.readings.light.view, medium := s.head.readings.medium.view, firm := s.head.readings.firm.view,
    outcome := s.head.readings.outcome, remaining := s.head.staples.remaining, committed := s.head.staples.committed,
    stapleState := s.head.staples.state, cartridgeSize := s.cfg.cartridgeSize }

/-- The pocket a POCKET selector names (R176). -/
def pocketSelected (b : Byte) : Option PocketId :=
  match b.toNat with
  | 1 => some .p1
  | 2 => some .p2
  | 3 => some .p3
  | 4 => some .p4
  | _ => none

/-- The content of the REPORT for an ask, from the state as it stands (R176 to R178); in CONFIG_FAULT a SUMMARY carries
only the station state, the reset cause and the configuration fault (R177). -/
def State.reportContent (s : State) : Ask → ReportContent
  | .summary =>
    match s.ctl.station with
    | .configFault => .faulted s.ctl.station s.ctl.resetCause s.ctl.configFault
    | _ => .summary s.summary
  | .pack w =>
    match readPackId w with
    | none => .nothing
    | some id =>
      match s.entry id with
      | none => .nothing
      | some e => .pack e
  | .pocket b =>
    match pocketSelected b with
    | none => .nothing
    | some p => .pocket (s.pocketContent p)
  | .bin b =>
    match s.bin b.toNat with
    | none => .nothing
    | some r => .bin (s.binContent b.toNat r)
  | .head => .head s.headContent
  | .counters => .counters s.ctl.counters

end Sys2Proof.Machine
end

