-- ==== Sys2Proof/Machine/Ops.lean ====
section
/-!
DEFINITION. The named operations over State that the meanings share: block updates, counters, pockets and bins, the
retained store, the transmit queue and its requests (R168, R169), pending bids and the drain (R34, R35, R190), the hold
(R157), and the commitments (R37, R75).
-/
namespace Sys2Proof.Machine

open Sys2Proof.Config

/-! ### Block updates -/

def State.onPart (f : Part → Part) (s : State) : State := { s with part := f s.part }
def State.onCtl (f : Controller → Controller) (s : State) : State := { s with ctl := f s.ctl }
def State.onLink (f : BayLink → BayLink) (s : State) : State := { s with link := f s.link }
def State.onPacks (f : PackTable → PackTable) (s : State) : State := { s with packs := f s.packs }
def State.onPockets (f : Pockets → Pockets) (s : State) : State := { s with pockets := f s.pockets }
def State.onHead (f : FinishingHead → FinishingHead) (s : State) : State := { s with head := f s.head }
def State.onRack (f : Rack → Rack) (s : State) : State := { s with rack := f s.rack }
def State.withStore (r : RetainedStore) (s : State) : State := { s with store := r }
def State.withConfig (c : Option StationConfig) (s : State) : State := { s with config := c }

/-! ### Station Controller -/

/-- Raise a counter by 1 (R181). -/
def State.count (c : CounterName) (s : State) : State :=
  s.onCtl fun k => { k with counters := k.counters.bump c }

/-- Set the station state (R183). -/
def State.enter (st : StationState) (s : State) : State := s.onCtl fun k => { k with station := st }

/-! ### Pockets, bins, staples -/

/-- Change one pocket's record. -/
def State.onPocket (p : PocketId) (f : Pocket → Pocket) (s : State) : State :=
  s.onPockets fun ps => ps.set (f (ps.get p)) p

/-- Set one pocket's state, keeping the rest of its record. -/
def State.pocketTo (p : PocketId) (st : PocketState) (s : State) : State :=
  s.onPocket p fun q => { q with state := st }

/-- Set one pocket's state and end its timer (R71, R72). -/
def State.pocketStops (p : PocketId) (st : PocketState) (s : State) : State :=
  s.onPocket p fun q => { q with state := st, timer := none }

/-- Change the record of bin `n`, numbered from 1. -/
def State.onBin (n : Nat) (f : Bin → Bin) (s : State) : State :=
  if n = 0 then s else s.onRack fun r => { r with bins := r.bins.modify (n - 1) f }

/-- Change the staple budget. -/
def State.onStaples (f : StapleBudget → StapleBudget) (s : State) : State :=
  s.onHead fun h => { h with staples := f h.staples }

/-- Set the head state. -/
def State.headTo (st : HeadState) (s : State) : State := s.onHead fun h => { h with state := st }

/-- The retained content of a bin record (R136). -/
def Bin.retained (b : Bin) : RetainedBin := { fillPacks := b.fillPacks, fillSheets := b.fillSheets, roster := b.roster }

/-- Write the retained values with a fresh store check (R188). Before the retained store check, and in CONFIG_FAULT,
nothing is written (R107, R128). -/
def State.writeStore (s : State) : State :=
  match s.config with
  | none => s
  | some c =>
    s.withStore
      { rackSize := c.rackSize, binPackCapacity := c.binPackCapacity, binSheetCapacity := c.binSheetCapacity,
        trayCapacity := c.trayCapacity, bins := s.rack.bins.map Bin.retained, tray := s.rack.tray,
        remaining := s.head.staples.remaining, checkMatches := true }

/-- The offer fields of a pocket's bound pack (R62). -/
def State.offerOf (s : State) (p : PocketId) : Option Offer :=
  match (s.pockets.get p).bound with
  | none => none
  | some b => (s.entry b.pack).map Entry.offer

/-! ### Transmit queue (R168, R169) -/

/-- A frame enters behind every frame of its own or a lower precedence and ahead of every frame of a higher one (R168). -/
def insertFrame (e : TxEntry) : List TxEntry → List TxEntry
  | [] => [e]
  | x :: xs => if x.frame.precedence ≤ e.frame.precedence then x :: insertFrame e xs else e :: x :: xs

/-- Append a frame; in SAFE every append is refused (R172). -/
def State.append (f : TxFrame) (s : State) : State :=
  if s.ctl.station = .safe then s
  else
    s.onLink fun l =>
      { l with
        queue := insertFrame { number := l.nextNumber, frame := f, attempting := false, mark := .none } l.queue
        nextNumber := l.nextNumber + 1 }

/-- Take the frame with an append number out of the queue. -/
def State.dropFrame (n : Nat) (s : State) : State :=
  s.onLink fun l => { l with queue := l.queue.filter fun e => decide (e.number ≠ n) }

/-- Mark the frame with an append number (R169). -/
def State.markFrame (n : Nat) (m : TxMark) (s : State) : State :=
  s.onLink fun l => { l with queue := l.queue.map fun e => if e.number = n then { e with mark := m } else e }

/-- The frame whose attempt is in progress (R165). -/
def State.attempt (s : State) : Option TxEntry := s.link.queue.find? TxEntry.attempting

/-- Build a REPORT from the state as it stands and append it (R169, R176); a HEAD report starts a fresh watch on the
readings it carries (R115). -/
def State.appendReport (a : Ask) (s : State) : State :=
  let t := s.append (.report a (s.reportContent a))
  match a with
  | .head =>
    t.onHead fun h =>
      { h with
        readings :=
          { h.readings with
            position1 := { h.readings.position1 with rewritten := false }
            position2 := { h.readings.position2 with rewritten := false }
            light := { h.readings.light with rewritten := false }
            medium := { h.readings.medium with rewritten := false }
            firm := { h.readings.firm with rewritten := false } } }
  | _ => t

/-- Whether a frame is a REPORT. -/
def TxFrame.isReport : TxFrame → Bool
  | .report _ _ => true
  | _ => false

/-- Whether a frame is the BID for a pack. -/
def TxFrame.isBidFor (id : PackId) : TxFrame → Bool
  | .bid i _ _ => decide (i = id)
  | _ => false

/-- Whether a frame is an end message for a pack that satisfies `p`. -/
def TxFrame.endsPack (p : PackId → Bool) : TxFrame → Bool
  | .delivered i _ _ => p i
  | .aside i _ => p i
  | _ => false

/-- Replace the queued REPORT (R169, R176): marked while an attempt of it is in progress, else taken out for a new one. -/
def State.replaceReport (a : Ask) (s : State) : State :=
  match s.link.queue.find? fun e => e.frame.isReport with
  | none => s.appendReport a
  | some e => if e.attempting then s.markFrame e.number .replace else (s.dropFrame e.number).appendReport a

/-- Take an ASK (R176). -/
def State.takeAsk (a : Ask) (s : State) : State :=
  let t := s.onCtl fun k => { k with reportSlot := some a }
  match s.ctl.reportSlot with
  | none => t.appendReport a
  | some _ => t.replaceReport a

/-! ### Pending bids and the drain (R34, R35, R190) -/

/-- The drain is complete when no pocket is bound and no pending bid remains (R190). -/
def State.drained (s : State) : Bool :=
  (PocketId.all.all fun p => !(s.pockets.get p).isBound) && s.packs.bids.isEmpty

/-- Judge completion of a drain; the station enters STANDBY when it is complete (R190). -/
def State.judgeDrain (s : State) : State :=
  if s.ctl.station = .drain ∧ s.drained = true then s.enter .standby else s

/-- Take a pending bid out of the list, ending its claims (R35). -/
def State.dropBid (id : PackId) (s : State) : State :=
  s.onPacks fun t => { t with bids := t.bids.filter fun b => decide (b.id ≠ id) }

/-- Release a pending bid (R35), a moment at which a drain is judged (R190). -/
def State.releaseBid (id : PackId) (s : State) : State := (s.dropBid id).judgeDrain

/-- Request the removal of the BID for a pack (R34). -/
def State.removeBid (id : PackId) (s : State) : State :=
  match s.link.queue.find? fun e => e.frame.isBidFor id with
  | none => s.releaseBid id
  | some e => if e.attempting then s.markFrame e.number .remove else (s.dropFrame e.number).releaseBid id

/-- Request the removal of the BID of every QUEUED pending bid (R41, R42). -/
def State.withdrawUnsent (s : State) : State :=
  (s.packs.bids.filter fun b => decide (b.stage = .queued)).foldl (fun t b => t.removeBid b.id) s

/-- The removal of a marked frame is reported; a BID's pending bid is released (R34, R169). -/
def State.reportRemoval (f : TxFrame) (s : State) : State :=
  match f with
  | .bid id _ _ => s.releaseBid id
  | _ => s

/-- The attempt in progress ends lost or spoiled: the frame stays in the queue, or a request that waited is settled
(R165, R169). -/
def State.endAttempt (s : State) : State :=
  match s.attempt with
  | none => s
  | some e =>
    let t :=
      s.onLink fun l =>
        { l with
          queue := l.queue.map fun x => if x.number = e.number then { x with attempting := false, mark := .none } else x
          lastEnded := some e.number }
    match e.mark with
    | .none => t
    | .remove => (t.dropFrame e.number).reportRemoval e.frame
    | .replace =>
      match t.ctl.reportSlot with
      | none => t.dropFrame e.number
      | some a => (t.dropFrame e.number).appendReport a

/-! ### The hold (R156, R157) -/

/-- Raise a hold: in a hold state with the hold INACTIVE it becomes ACTIVE, and a HOLD is queued unless one is (R157). -/
def State.raiseHold (s : State) : State :=
  if s.ctl.station.holds = true ∧ s.ctl.hold.active = false then
    if s.ctl.hold.queued then s.onCtl fun k => { k with hold := { k.hold with active := true } }
    else
      (s.append (.hold s.cfg.holdTime)).onCtl fun k => { k with hold := { k.hold with active := true, queued := true } }
  else s

/-- Act on a change of the hold condition: `before` is the condition before it (R157). -/
def State.noteHold (before : Bool) (s : State) : State :=
  if before = false ∧ s.holdCondition = true then s.raiseHold else s

/-- Judge the condition at entry to a hold state from outside (R157). -/
def State.judgeHold (s : State) : State := if s.holdCondition then s.raiseHold else s

/-- The hold becomes INACTIVE and its renewal timer stops (R160). -/
def State.endHold (s : State) : State := s.onCtl fun k => { k with hold := { k.hold with active := false, timer := none } }

/-! ### End messages and commitments (R13, R37, R75) -/

/-- Change the entry of a pack id. -/
def State.onEntry (id : PackId) (f : Entry → Entry) (s : State) : State :=
  s.onPacks fun t => { t with entries := t.entries.map fun e => if e.offer.id = id then f e else e }

/-- Retire the entry of a pack id (R18). -/
def State.retire (id : PackId) (s : State) : State :=
  s.onPacks fun t => { t with entries := t.entries.filter fun e => decide (e.offer.id ≠ id) }

/-- The annex stage becomes ENDING (R4). -/
def Entry.ending (e : Entry) : Entry :=
  match e.state with
  | .placed o (some a) => { e with state := .placed o (some { a with stage := .ending }) }
  | .placed _ none => e
  | .bidding _ => e

/-- Whether an end message may be queued for an entry: PLACED, owned by this station, annex LIVE (R13). -/
def Entry.endable (e : Entry) (own : Nat) : Bool :=
  match e.state with
  | .placed o (some a) => decide (o = own) && decide (a.stage = .live)
  | .placed _ none => false
  | .bidding _ => false

/-- An end message is requested for a pack (R13): queued, with the stage set to ENDING, or discarded. -/
def State.requestEnd (id : PackId) (f : TxFrame) (s : State) : State :=
  match s.entry id with
  | none => s
  | some e => if e.endable s.address then (s.append f).onEntry id Entry.ending else s

/-- Release the commitments of a pocket's pack: its staple positions not yet driven and its bin place (R75, R145). -/
def State.releaseCommitments (p : PocketId) (s : State) : State :=
  let t := s.onStaples fun b => { b with committed := b.committed - s.undriven p }
  match s.targetBin p with
  | none => t
  | some n => t.onBin n fun b => { b with committed := b.committed - 1 }

/-- A set-aside reason is fixed for a pocket's pack: commitments released, the reason's counter raised (R75). -/
def State.accountAside (p : PocketId) (r : AsideReason) (s : State) : State :=
  (s.releaseCommitments p).count (.setAside r)

/-- A pocket goes to RETIRING with an ASIDE without having been to the head (R72, R79). -/
def State.retireUngathered (p : PocketId) (r : AsideReason) (s : State) : State :=
  let t := (s.accountAside p r).pocketStops p (.retiring (.setAside r))
  match (s.pockets.get p).bound with
  | none => t
  | some b => t.requestEnd b.pack (.aside b.pack r)

/-! ### Bidding (R21 to R32) -/

/-- Check 3 of R24: the sheet count (R26). -/
def lengthFits (c : StationConfig) (o : Offer) : Bool :=
  decide (o.count ≤ c.pocketCapacity) && (decide (o.count ≠ 0) || c.openPacks)

/-- Whether a self-test outcome lets stapled packs be bid for (R26). -/
def TestOutcome.trusted : TestOutcome → Bool
  | .pass => true
  | .marginal => true
  | .none => false
  | .fail => false

/-- Check 4 of R24: the finish kind (R26). -/
def finishFits (s : State) (o : Offer) : Bool :=
  match o.finish with
  | .loose => true
  | .corner => s.cfg.stapler && s.head.readings.outcome.trusted
  | .edge => s.cfg.stapler && s.cfg.edge && s.head.readings.outcome.trusted

/-- Check 5 of R24: the staples (R27). -/
def staplesFit (s : State) (o : Offer) : Bool :=
  decide (o.finish.need = 0) || decide ((o.finish.need : Int) ≤ s.unpromised)

/-- The outcome of considering an entry (R22): a failure on check 1 or 2 ends a re-scan, a later failure skips the
entry, a success gives the pending bid and its BID. -/
inductive Consideration where
  | stop
  | skip
  | bid (b : PendingBid) (load : Nat)
  deriving DecidableEq, Repr

/-- The seven eligibility checks in order (R24 to R29). -/
def State.consider (s : State) (o : Offer) : Consideration :=
  if s.ctl.station ≠ .run then .stop
  else
    match s.freePocket with
    | none => .stop
    | some p =>
      if (lengthFits s.cfg o && finishFits s o && staplesFit s o) = false then .skip
      else
        match chooseBin s o with
        | none => .skip
        | some n =>
          match intakeVerdict s.cfg o with
          | .refuse => .skip
          | .accept fit =>
            .bid { id := o.id, pocket := p, staples := o.finish.need, bin := n, fit := fit, stage := .queued } s.load

/-- Create a pending bid and queue its BID (R30, R32). -/
def State.placeBid (b : PendingBid) (load : Nat) (s : State) : State :=
  (s.onPacks fun t => { t with bids := t.bids ++ [b] }).append (.bid b.id b.fit load)

/-- An entry is open to this station: BIDDING, no record of this station, no pending bid for the pack (R21). -/
def State.openTo (s : State) (e : Entry) : Bool :=
  match e.state with
  | .placed _ _ => false
  | .bidding bids => (bids.all fun r => decide (r.station ≠ s.address)) && (s.pendingBid e.offer.id).isNone

/-- Consider one entry at its OFFER (R21). -/
def State.considerNew (s : State) (e : Entry) : State :=
  if s.openTo e then
    match s.consider e.offer with
    | .stop => s
    | .skip => s
    | .bid b load => s.placeBid b load
  else s

/-- The pass of a re-scan over entries, oldest first (R22). -/
def rescanOver : List Entry → State → State
  | [], s => s
  | e :: rest, s =>
    if s.openTo e then
      match s.consider e.offer with
      | .stop => s
      | .skip => rescanOver rest s
      | .bid b load => rescanOver rest (s.placeBid b load)
    else rescanOver rest s

/-- A re-scan (R22). -/
def State.rescan (s : State) : State := rescanOver s.packs.entries s

end Sys2Proof.Machine
end

