-- ==== Sys2Proof/Machine/FinishQueue.lean ====
section
/-!
DEFINITION. The finish queue and selection (R84 to R91), the start of head operations and of the self-test (R92, R98 to
R100, R116), put-back (R89, R96, R97), and the closing and conversion of pockets, which append to and change the queue
(R74, R76, R81, R88).
-/
namespace Sys2Proof.Machine

open Sys2Proof.Config

/-! ### Blocked reasons (R86, R87, R132) -/

/-- The target bin has no sheet room for the pocket's sheets (R86, R132). -/
def State.binBlocks (s : State) (p : PocketId) : Bool :=
  match s.targetBin p with
  | none => false
  | some n =>
    match s.bin n with
    | none => false
    | some b => decide (s.cfg.binSheetCapacity < b.fillSheets + (s.pockets.get p).sheets)

/-- The blocked reason of an entry by its job (R86). -/
def State.blockedReason (s : State) (p : PocketId) (j : Job) : Option BlockedReason :=
  match j with
  | .finish =>
    if s.head.staples.state = .empty ∧ 0 < s.undriven p then some .staples
    else if s.binBlocks p then some .bin
    else none
  | .setAside _ => if s.trayFull then some .tray else none
  | .clear => if s.trayFull then some .tray else none

/-- An entry with its blocked reason evaluated (R86). -/
def State.evaluated (s : State) (e : QueueEntry) : QueueEntry := { e with blocked := s.blockedReason e.pocket e.job }

/-- Evaluate the blocked reasons of every entry again (R87); frozen in HALTING (R87) and SAFE (R150). -/
def State.reevaluate (s : State) : State :=
  if s.ctl.station.freezes then s else s.onHead fun h => { h with queue := h.queue.map s.evaluated }

/-! ### Selection (R90, R91) -/

/-- The entry with the earliest arrival stamp (R91). -/
def earliest : List QueueEntry → Option QueueEntry
  | [] => none
  | e :: rest =>
    match earliest rest with
    | none => some e
    | some x => if e.stamp ≤ x.stamp then some e else some x

/-- The candidates among the entries: the ready entries of the first class if there are any, else all the ready entries
(R91 step 1). -/
def candidates (q : List QueueEntry) : List QueueEntry :=
  let ready := q.filter QueueEntry.ready
  let first := ready.filter QueueEntry.firstClass
  if first.isEmpty then ready else first

/-- The entry a selection chooses (R91 step 2). -/
def chosen (q : List QueueEntry) : Option QueueEntry := earliest (candidates q)

/-- A ready entry earlier than the chosen one gains a pass-over, up to the limit (R91 step 3). -/
def passOver (stamp : Nat) (e : QueueEntry) : QueueEntry :=
  if e.ready = true ∧ e.stamp < stamp then { e with passOvers := min agingLimit (e.passOvers + 1) } else e

/-- The limit timer of a phase, in half seconds (R83). -/
def phaseLimit (c : StationConfig) : Phase → Nat
  | .stroke _ _ => strokeLimit
  | .eject => ejectLimit
  | .drop => seconds c.dropLimit
  | .trayDrop => trayDropLimit

/-- The head goes on with an operation in a phase, with a fresh limit (R83, R104). -/
def State.startPhase (op : Operation) (ph : Phase) (s : State) : State :=
  s.headTo (.busy { op with phase := ph, limit := phaseLimit s.cfg ph })

/-- The phase in which a FINISH operation goes on: the first staple position not done, or the eject (R92, R94). `retry`
says that the stroke is that position's retry. -/
def State.finishPhase (s : State) (p : PocketId) (retry : Bool) : Phase :=
  if 0 < s.undriven p then .stroke ((s.pockets.get p).driven + 1) retry else .eject

/-- The first phase of a granted operation (R92, R100). -/
def State.firstPhase (s : State) (e : QueueEntry) : Phase :=
  match e.job with
  | .finish => s.finishPhase e.pocket ((e.strokes.map StrokesDone.openStaple).getD false)
  | .setAside _ => .trayDrop
  | .clear => .trayDrop

/-- The operation of a granted entry (R83, R89). -/
def State.operationOf (s : State) (e : QueueEntry) : Operation :=
  { pocket := e.pocket, job := e.job, phase := s.firstPhase e, limit := phaseLimit s.cfg (s.firstPhase e),
    lane := e.lane, stamp := e.stamp, passOvers := e.passOvers,
    retried := (e.strokes.map StrokesDone.retried).getD false }

/-- Grant the head to an entry (R89, R91): it leaves the queue, earlier ready entries gain a pass-over, its pocket passes
to AT_HEAD (R77) and the operation's first phase starts. -/
def State.grant (e : QueueEntry) (s : State) : State :=
  ((s.onHead fun h => { h with queue := (h.queue.erase e).map (passOver e.stamp) }).pocketTo e.pocket
    (.atHead e.job)).headTo (.busy (s.operationOf e))

/-- A selection, made when the head is IDLE in a state that selects (R90). -/
def State.select (s : State) : State :=
  if s.ctl.station.selects then
    match chosen s.head.queue with
    | none => s
    | some e => s.grant e
  else s

/-- A waiting self-test starts: the head passes to TESTING and takes the LIGHT level (R116, R117). -/
def State.startTest (s : State) : State :=
  s.onHead fun h => { h with state := .testing .light readingLimit, testWaiting := false }

/-- What an IDLE head does next: a waiting self-test goes ahead of selection (R90, R116). -/
def State.serve (s : State) : State :=
  match s.head.state with
  | .idle => if s.head.testWaiting then s.startTest else s.select
  | .busy _ => s
  | .testing _ _ => s
  | .stopped => s

/-- Blocked reasons are evaluated again, and an IDLE head with a ready entry is served (R87, R90). -/
def State.reevaluateAndServe (s : State) : State := s.reevaluate.serve

/-- The head becomes IDLE at the end of an operation or at a put-back; the blocks are re-evaluated (R87) and the head is
served (R90, R116). -/
def State.headIdle (s : State) : State := (s.headTo .idle).reevaluateAndServe

/-! ### Appends and put-backs (R85, R89) -/

/-- The entry of a pocket entering WAITING (R85). -/
def State.newEntry (s : State) (p : PocketId) (j : Job) (lane : Lane) : QueueEntry :=
  { pocket := p, job := j, lane := lane, stamp := s.head.arrivals + 1, passOvers := 0,
    blocked := s.blockedReason p j, strokes := none }

/-- Append an entry (R85) and make the queue length known for the hold condition (R157). -/
def State.enqueue (p : PocketId) (j : Job) (lane : Lane) (s : State) : State :=
  (s.onHead fun h =>
    { h with queue := h.queue ++ [s.newEntry p j lane], arrivals := h.arrivals + 1 }).noteHold s.holdCondition

/-- Put an entry among the others by its stamp: after every earlier one, before every later one (R89). -/
def insertByStamp (e : QueueEntry) : List QueueEntry → List QueueEntry
  | [] => [e]
  | x :: xs => if x.stamp < e.stamp then x :: insertByStamp e xs else e :: x :: xs

/-- Put the operation's entry back (R89, R96, R97): the pocket passes to WAITING with its job, the head becomes IDLE, the
hold condition sees the new length, and the blocks are re-evaluated. -/
def State.putBack (op : Operation) (j : Job) (lane : Lane) (strokes : Option StrokesDone) (s : State) : State :=
  let e : QueueEntry :=
    { pocket := op.pocket, job := j, lane := lane, stamp := op.stamp, passOvers := op.passOvers,
      blocked := s.blockedReason op.pocket j, strokes := strokes }
  let t := s.pocketTo op.pocket (.waiting j)
  ((t.onHead fun h => { h with queue := insertByStamp e h.queue }).noteHold s.holdCondition).headIdle

/-! ### Closing, conversion, checks (R74, R76, R81, R88) -/

/-- The lane of a closing pocket's entry: the pack's for FINISH, NORMAL for SET_ASIDE and CLEAR (R74, R85). -/
def State.laneFor (s : State) (p : PocketId) (j : Job) : Lane :=
  match j with
  | .finish =>
    match s.offerOf p with
    | none => .normal
    | some o => o.lane
  | .setAside _ => .normal
  | .clear => .normal

/-- A pocket closes (R74): its gap timer stops, it enters WAITING with its job, a set-aside is accounted for (R75), its
entry is appended (R85), and an IDLE head is served (R90). -/
def State.closePocket (p : PocketId) (j : Job) (s : State) : State :=
  let t :=
    match j with
    | .setAside r => s.accountAside p r
    | .finish => s
    | .clear => s
  ((t.pocketStops p (.waiting j)).enqueue p j (s.laneFor p j)).serve

/-- The queue entry of a pocket whose FINISH job is converted (R88). -/
def State.convertEntry (s : State) (p : PocketId) (r : AsideReason) (e : QueueEntry) : QueueEntry :=
  if e.pocket = p then
    { e with job := .setAside r, lane := .normal, blocked := s.blockedReason p (.setAside r) }
  else e

/-- A WAITING FINISH job becomes SET_ASIDE with a reason (R76, R88). -/
def State.convertWaiting (p : PocketId) (r : AsideReason) (s : State) : State :=
  let t := (s.accountAside p r).pocketTo p (.waiting (.setAside r))
  (t.onHead fun h => { h with queue := h.queue.map (t.convertEntry p r) }).serve

/-- Check a pocket by its occupancy sensor (R81): WAITING with a CLEAR job and an entry when it shows sheets, else FREE. -/
def State.checkPocket (p : PocketId) (occupied : Bool) (s : State) : State :=
  if occupied then
    (s.onPocket p fun _ => { Pocket.empty with state := .waiting .clear }).enqueue p .clear .normal
  else s.onPocket p fun _ => Pocket.empty

end Sys2Proof.Machine
end

