-- ==== Sys2Proof/Machine/Recovery.lean ====
section
/-!
DEFINITION. Stops and recovery, shared by the meanings: the stopped head (R102, R103), HALTING (R139 to R141), SAFE (R150),
the table change of HALT and JOIN (R15, R16), the halt consequences (R144, R145), and the resume (R148, R149).
-/
namespace Sys2Proof.Machine

open Sys2Proof.Config

/-! ### The stopped head (R103, R119) -/

/-- The head is stopped: an operation or a self-test in progress is abandoned where it stands, a waiting test is
discarded (R103, R119). -/
def State.stopHead (s : State) : State := s.onHead fun h => { h with state := .stopped, testWaiting := false }

/-! ### HALTING (R139 to R141) -/

/-- Entry to HALTING (R141). Pocket timers freeze and the queue freezes by the state itself (R73, R87). The divert selection of
the last sheet stands (log 32). -/
def State.enterHalting (c : HaltCause) (s : State) : State :=
  ((((s.onCtl fun k => { k with station := .halting, haltCause := some c }).stopHead).endHold).withdrawUnsent).append
    (.halt c)

/-- A fault is held in LOADING or JOINING; a second one is a further fault (R140). A pocket jam stops the head there; a head
fault has stopped it already. -/
def State.holdFault (c : HaltCause) (s : State) : State :=
  match s.ctl.heldCause with
  | some _ => s.count .furtherFaults
  | none => (s.onCtl fun k => { k with heldCause := some c }).stopHead

/-- The Station Controller takes a fault (R139). -/
def State.takeFault (c : HaltCause) (s : State) : State :=
  match s.ctl.station with
  | .run => s.enterHalting c
  | .drain => s.enterHalting c
  | .standby => s.enterHalting c
  | .loading => s.holdFault c
  | .joining => s.holdFault c
  | .halting => s.count .furtherFaults
  | .halted => s
  | .safe => s
  | .configFault => s

/-- A head fault: the head stops and reports the cause (R102). -/
def State.headFault (c : HaltCause) (s : State) : State := s.stopHead.takeFault c

/-! ### SAFE (R150, R172) -/

/-- Entry to SAFE (R150): head stopped, hold ended, transmit queue and console slots cleared, QUEUED bids released. The divert
selection of the last sheet stands (log 32). -/
def State.enterSafe (s : State) : State :=
  ((((s.enter .safe).stopHead).onCtl fun k =>
    { k with
      hold := { active := false, queued := false, timer := none }
      reportSlot := none, answerSlot := none, rosterCursor := none }).onLink fun l => { l with queue := [] }).onPacks
    fun t => { t with bids := t.bids.filter fun b => decide (b.stage = .sent) }

/-- The Station Controller takes a report of link loss (R150). -/
def State.linkLoss (s : State) : State :=
  match s.ctl.station with
  | .loading => s.onCtl fun k => { k with linkLossHeld := true }
  | .safe => s
  | .joining => s.enterSafe
  | .run => s.enterSafe
  | .drain => s.enterSafe
  | .standby => s.enterSafe
  | .halting => s.enterSafe
  | .halted => s.enterSafe
  | .configFault => s.enterSafe

/-! ### The table change of HALT and JOIN (R15, R16) -/

/-- One entry under a HALT or JOIN of a station: retired when owned by it, its bid record removed when BIDDING. -/
def Entry.without (station : Nat) (e : Entry) : Option Entry :=
  match e.state with
  | .placed o _ => if o = station then none else some e
  | .bidding bids => some { e with state := .bidding (bids.filter fun r => decide (r.station ≠ station)) }

/-- The table change of a HALT or JOIN from a station (R15, R16). -/
def State.forgetStation (station : Nat) (s : State) : State :=
  s.onPacks fun t => { t with entries := t.entries.filterMap (Entry.without station) }

/-- Whether this station owns the entry of a pack. -/
def State.owns (s : State) (id : PackId) : Bool :=
  match s.entry id with
  | none => false
  | some e => e.ownedBy s.address

/-- The table change at the echo of this station's own HALT or JOIN, and the removal of its end messages for the retired
entries (R15, R16, R17). -/
def State.forgetSelf (s : State) : State :=
  (s.forgetStation s.address).onLink fun l => { l with queue := l.queue.filter fun e => !e.frame.endsPack s.owns }

/-! ### The halt consequences (R144, R145) -/

/-- Whether a pocket's pack still holds its commitments at the HALT echo (R145). -/
def Pocket.holdsCommitments (q : Pocket) : Bool :=
  match q.state with
  | .reserved => true
  | .filling => true
  | .absorbing _ => true
  | .waiting .finish => true
  | .atHead .finish => true
  | _ => false

/-- Release what the pocket's retired pack held (R145). -/
def State.giveBack (p : PocketId) (s : State) : State :=
  if (s.pockets.get p).holdsCommitments then s.releaseCommitments p else s

/-- A pocket record after the HALT echo (R80, R144). -/
def Pocket.afterHalt (q : Pocket) : Pocket :=
  match q.state with
  | .free => q
  | .reserved => Pocket.empty
  | .retiring _ => Pocket.empty
  | .filling => { Pocket.empty with state := .leftover }
  | .absorbing _ => { Pocket.empty with state := .leftover }
  | .waiting _ => { Pocket.empty with state := .leftover }
  | .atHead _ => { Pocket.empty with state := .leftover }
  | .leftover => q

/-- The halt consequences at the echo of this station's own HALT (R144): commitments given back (R145), entries retired and
end messages removed (R15, R17), pending bids released, pockets LEFTOVER or FREE, the finish queue emptied, HALTED. The
re-scan that a freed pocket starts finds check 1 failing. -/
def State.haltEchoed (s : State) : State :=
  let t := (PocketId.all.foldl (fun u p => u.giveBack p) s).forgetSelf
  ((((t.onPacks fun k => { k with bids := [] }).onPockets fun ps =>
    { p1 := ps.p1.afterHalt, p2 := ps.p2.afterHalt, p3 := ps.p3.afterHalt, p4 := ps.p4.afterHalt }).onHead fun h =>
    { h with queue := [] }).enter .halted).rescan

/-! ### RUN, DRAIN and resume (R148, R149, R190) -/

/-- RUN to DRAIN (R41, R190). -/
def State.enterDrain (s : State) : State := ((s.enter .drain).withdrawUnsent).judgeDrain

/-- DRAIN or STANDBY to RUN, with its re-scan (R22, R190). -/
def State.enterRun (s : State) : State := (s.enter .run).rescan

/-- Any jam sensor shows a jam at the moment of a resume request (R148). -/
def State.jamPresent (r : ResumeReadings) (s : State) : Bool := s.part.jamLines.any || r.headJam || r.carriageJam

/-- Check one pocket at a resume if it is LEFTOVER (R149 step 4). -/
def State.resumePocket (occupied : PocketLevels) (s : State) (p : PocketId) : State :=
  if (s.pockets.get p).state = .leftover then s.checkPocket p (occupied.get p) else s

/-- A resume (R149): cause absent, RUN, head IDLE, LEFTOVER pockets checked, the hold judged (R157), one re-scan, one
selection. -/
def State.resume (occupied : PocketLevels) (s : State) : State :=
  let t := (s.onCtl fun k => { k with haltCause := none, station := .run }).headTo .idle
  ((PocketId.all.foldl (State.resumePocket occupied) t).judgeHold).rescan.serve

/-- The part reads the sensors of a resume request (R148, R149). -/
def State.readSensors (r : ResumeReadings) (s : State) : State :=
  s.onPart fun p =>
    { p with headJamSense := r.headJam, carriageJamSense := r.carriageJam, occupied := r.occupied }

end Sys2Proof.Machine
end

