-- ==== Sys2Proof/Machine/Link.lean ====
section
/-!
DEFINITION. How a delivered frame reaches the blocks (R167, R171, R173, R174): frames of other members, echoes of this
station's own frames, and the outcome type of the meanings.
-/
namespace Sys2Proof.Machine

/-- A command's effect on a part that takes events; a part without power or held in reset takes none (R183). -/
def event (f : State → State) (s : State) : Host.Outcome State Fault Refusal := .next (if s.running then f s else s)

/-- The station has received a frame of another member undamaged: the receive spoil run becomes 0 (R171). An attempt of its own
stays in progress until one of the three ends of R165 is commanded (log 7), so a CLOSE or an ASK that reaches the unit after
the attempt has started finds the frame under attempt (R34, R40, R169, R176). -/
def State.received (s : State) : State := s.onLink fun l => { l with recvRun := 0 }

/-- A frame delivered from another member (R167): discarded and counted when malformed (R173), else handed on (R174). -/
def State.fromMember (f : Frame) (handOn : State → State) (s : State) : State :=
  if s.unitActive then
    if frameWellFormed s.address f then handOn s.received else s.received.count .malformed
  else s

/-- A frame of another member that names one target is handed on only at that target (R174). -/
def State.forThisStation (target : LinkAddress) (handOn : State → State) (s : State) : State :=
  if target.toNat = s.address then handOn s else s

/-- The frame that the station's own attempt delivers: the frame under attempt, or the head of the queue where the
contention was not commanded apart (log 6). -/
def State.sending (s : State) : Option TxEntry :=
  match s.attempt with
  | some e => some e
  | none => s.link.queue.head?

/-- Whether a frame this station sends is of a kind. -/
def TxFrame.isKind (k : FrameKind) (f : TxFrame) : Bool := decide (f.kind = k)

/-- An own frame has been delivered: it leaves the queue and the send spoil run becomes 0 (R167). -/
def State.echoed (e : TxEntry) (s : State) : State := (s.dropFrame e.number).onLink fun l => { l with sendRun := 0 }

/-- The echo of a frame that `isKind` recognises (R167), handed on with the frame's element. A frame with this station's
address that its queue did not send is malformed (R173, last check). -/
def State.echo (isKind : TxFrame → Bool) (handOn : TxEntry → State → State) (s : State) : State :=
  if s.unitActive then
    match s.sending with
    | none => s.received.count .malformed
    | some e => if isKind e.frame then handOn e (s.echoed e) else s.received.count .malformed
  else s

end Sys2Proof.Machine
end

