-- ==== Sys2Proof/Machine/Clock.lean ====
section
/-!
DEFINITION. The passing of half a second (log 3): every timer that runs loses one half second and stands at 0 until its expiry
arrives as a command of the table. Pocket timers run in RUN, DRAIN and STANDBY alone (R73).
-/
namespace Sys2Proof.Machine

/-- A pocket timer half a second later. -/
def PocketTimer.tick : PocketTimer → PocketTimer
  | .firstSheet n => .firstSheet (n - 1)
  | .gap n => .gap (n - 1)

/-- A pocket record half a second later. -/
def Pocket.tick (q : Pocket) : Pocket := { q with timer := q.timer.map PocketTimer.tick }

/-- The head state half a second later (R83, R117). -/
def HeadState.tick : HeadState → HeadState
  | .idle => .idle
  | .busy op => .busy { op with limit := op.limit - 1 }
  | .testing level limit => .testing level (limit - 1)
  | .stopped => .stopped

/-- Pocket timers that run, half a second later. -/
def State.tickPockets (s : State) : State :=
  if s.ctl.station.gates then
    s.onPockets fun ps => { p1 := ps.p1.tick, p2 := ps.p2.tick, p3 := ps.p3.tick, p4 := ps.p4.tick }
  else s

/-- Half a second passes with no command waiting. A part in reset or without power runs no timer (R183). -/
def State.tick (s : State) : State :=
  if s.running then
    ((s.tickPockets.onHead fun h => { h with state := h.state.tick }).onCtl fun k =>
      { k with hold := { k.hold with timer := k.hold.timer.map fun n => n - 1 } })
  else s

end Sys2Proof.Machine
end

