-- ==== Sys2Proof/Machine/Image.lean ====
section
/-!
DEFINITION. The configuration image (R185): its layout, its validation (R186), and the values it distributes.
-/
namespace Sys2Proof.Machine

open Sys2Proof.Config

/-- The byte at an offset, as a number. -/
def byteAt (image : List Byte) (offset : Nat) : Nat := (image.getD offset 0).toNat

/-- A two-byte value, the more significant byte first (R185). -/
def wordAt (image : List Byte) (offset : Nat) : Nat := 256 * byteAt image offset + byteAt image (offset + 1)

/-- The image check: the remainder over offsets 0 to 172, held at 173 and 174 (R185). -/
def imageCheckMatches (image : List Byte) : Bool :=
  decide ((crcPlaces (bytePlaces (image.take 173))).toNat = wordAt image 173)

/-! ### Ranges (R186 code 4) -/

/-- The verdict encoding of offset 19 and of a chain's last entry: ACCEPT with a fit of 1 to 15, or REFUSE with no fit
place set; places 6 to 4 are zero (R185, R186). -/
def verdictByteFits (b : Nat) : Bool :=
  decide ((b / 16) % 8 = 0) && (if 128 ≤ b then decide (b % 16 ≠ 0) else decide (b % 16 = 0))

def within (low high n : Nat) : Bool := decide (low ≤ n ∧ n ≤ high)

/-- The offset of the first byte among offsets 0 to 20 whose value lies outside the layout table. A two-byte value out of
range is named by its first byte (log 16). -/
def headerFault (i : List Byte) : Option Nat :=
  if 8 ≤ byteAt i 0 then some 0
  else if !within 10 120 (byteAt i 1) then some 1
  else if !within 8 48 (byteAt i 2) then some 2
  else if !within 4 24 (byteAt i 3) then some 3
  else if !within 40 400 (wordAt i 4) then some 4
  else if !within 10 60 (byteAt i 6) then some 6
  else if !within 100 5000 (wordAt i 7) then some 7
  else if !within 100 700 (wordAt i 9) then some 9
  else if !within 700 1023 (wordAt i 11) then some 11
  else if !within 1 60 (byteAt i 13) then some 13
  else if !within 10 600 (wordAt i 14) then some 14
  else if !within 2 15 (byteAt i 16) then some 16
  else if !within 1 30 (byteAt i 17) then some 17
  else if !within 2 4 (byteAt i 18) then some 18
  else if !verdictByteFits (byteAt i 19) then some 19
  else if 16 < byteAt i 20 then some 20
  else none

/-- The kind code of an intake rule entry's first byte (R185). -/
def ruleKindCode (b : Nat) : Nat := b / 64

/-- The first failing byte among the intake rule entries from `offset` on, `n` of them left; examination ends at the first
EMPTY (R186). A SET_MASK uses no field and no relation; the verdict is examined where the join flag is clear. -/
def rulesFault (i : List Byte) (offset : Nat) : Nat → Option Nat
  | 0 => none
  | n + 1 =>
    let b0 := byteAt i offset
    if ruleKindCode b0 = 0 then none
    else if ruleKindCode b0 = 3 then some offset
    else if ruleKindCode b0 = 1 ∧ 6 ≤ (b0 / 8) % 8 then some offset
    else if b0 % 2 = 0 ∧ verdictByteFits (byteAt i (offset + 2)) = false then some (offset + 2)
    else rulesFault i (offset + 3) n

/-- The first failing byte among the map entries from `offset` on, `n` of them left. An OFF entry is examined for its mode
alone; bins above the rack size are left to code 6 (R186). -/
def mapFault (i : List Byte) (offset : Nat) : Nat → Option Nat
  | 0 => none
  | n + 1 =>
    let b0 := byteAt i offset
    if b0 / 64 = 0 then mapFault i (offset + 5) n
    else if (b0 / 8) % 8 ≠ 0 then some offset
    else if b0 / 64 = 3 ∧ within 1 5 (b0 % 8) = false then some offset
    else if !within 1 250 (byteAt i (offset + 1)) then some (offset + 1)
    else if !within 1 60 (byteAt i (offset + 2)) then some (offset + 2)
    else if byteAt i (offset + 3) = 0 then some (offset + 3)
    else mapFault i (offset + 5) n

/-- The byte named by code 4, in offset order (R186). -/
def rangeFault (i : List Byte) : Option Nat :=
  match headerFault i with
  | some o => some o
  | none =>
    match rulesFault i 21 24 with
    | some o => some o
    | none => mapFault i 93 (byteAt i 20)

/-! ### The values (R185) -/

/-- A verdict byte (R185). -/
def readVerdict (b : Nat) : Verdict := if 128 ≤ b then .accept (b % 16) else .refuse

def readRuleField : Nat → RuleField
  | 0 => .classCode
  | 1 => .roll
  | 2 => .count
  | 3 => .finish
  | 4 => .lane
  | _ => .feed

def readRelation : Nat → Relation
  | 0 => .eq
  | 1 => .ne
  | 2 => .ge
  | _ => .lt

/-- The active intake rule entries from `offset` on (R47, R185). -/
def readRules (i : List Byte) (offset : Nat) : Nat → List Rule
  | 0 => []
  | n + 1 =>
    let b0 := byteAt i offset
    let value := i.getD (offset + 1) 0
    let join := decide (b0 % 2 = 1)
    let verdict := readVerdict (byteAt i (offset + 2))
    if ruleKindCode b0 = 0 then []
    else if ruleKindCode b0 = 1 then
      .compare (readRuleField ((b0 / 8) % 8)) (readRelation ((b0 / 2) % 4)) value join verdict :: readRules i (offset + 3) n
    else .setMask value join verdict :: readRules i (offset + 3) n

def readMode : Nat → MapMode
  | 0 => .off
  | 1 => .single
  | 2 => .upto
  | _ => .block

/-- One delivery map entry (R185); an overflow byte of 0 is absent. -/
def readMapEntry (i : List Byte) (offset : Nat) : MapEntry :=
  { mode := readMode (byteAt i offset / 64), classCode := byteAt i (offset + 1), rollBound := byteAt i (offset + 2),
    exponent := byteAt i offset % 8, primary := byteAt i (offset + 3),
    overflow := if byteAt i (offset + 4) = 0 then none else some (byteAt i (offset + 4)) }

/-- The delivery map entries up to the entry count (R185). -/
def readMap (i : List Byte) : List MapEntry := (List.range (byteAt i 20)).map fun k => readMapEntry i (93 + 5 * k)

/-- The configuration values of an image (R185). -/
def readConfig (i : List Byte) : StationConfig :=
  { stapler := (byteAt i 0).testBit 0, edge := (byteAt i 0).testBit 1, openPacks := (byteAt i 0).testBit 2,
    pocketCapacity := byteAt i 1, rackSize := byteAt i 2, binPackCapacity := byteAt i 3,
    binSheetCapacity := wordAt i 4, trayCapacity := byteAt i 6, cartridgeSize := wordAt i 7,
    lowThreshold := wordAt i 9, overdriveThreshold := wordAt i 11, gapLimit := byteAt i 13,
    firstSheetLimit := wordAt i 14, dropLimit := byteAt i 16, holdTime := byteAt i 17, holdThreshold := byteAt i 18,
    defaultVerdict := readVerdict (byteAt i 19), rules := readRules i 21 24, map := readMap i }

/-! ### Codes 5 to 9 and the order of the checks (R186) -/

/-- The number, from 1, of the first element that satisfies `p`. -/
def firstNumber {α : Type} (p : α → Bool) : Nat → List α → Option Nat
  | _, [] => none
  | n, x :: rest => if p x then some n else firstNumber p (n + 1) rest

/-- A map entry names a bin above the rack size (code 6). -/
def binOutsideRack (rackSize : Nat) (e : MapEntry) : Bool :=
  decide (e.mode ≠ .off) && (decide (rackSize < e.primary) || decide (rackSize < e.overflow.getD 0))

/-- A map entry's overflow bin equals its primary bin (code 7). -/
def sameBin (e : MapEntry) : Bool := decide (e.mode ≠ .off) && decide (e.overflow = some e.primary)

/-- The number of the last active entry when its join flag is set (code 8). -/
def openChain (rules : List Rule) : Option Nat :=
  match rules.getLast? with
  | none => none
  | some r => if r.join then some rules.length else none

/-- An entry that ends a chain and is a SET_MASK (code 9). -/
def maskEnd (r : Rule) : Bool := !r.join && r.isMask

/-- The checks of R186 on the sampled address and the bytes read, in the order of its table. -/
def validate (address : Nat) (bytes : List Byte) : Except ConfigFault StationConfig :=
  if ¬ (1 ≤ address ∧ address ≤ 8) then .error { code := .badAddress, item := some address }
  else if bytes.length < imageLength then .error { code := .readFailed, item := some bytes.length }
  else if !imageCheckMatches bytes then .error { code := .badCheck, item := none }
  else
    match rangeFault bytes with
    | some o => .error { code := .outOfRange, item := some o }
    | none =>
      let c := readConfig bytes
      if c.binSheetCapacity < c.pocketCapacity then .error { code := .sheetCapacity, item := none }
      else
        match firstNumber (binOutsideRack c.rackSize) 1 c.map with
        | some n => .error { code := .mapBin, item := some n }
        | none =>
          match firstNumber sameBin 1 c.map with
          | some n => .error { code := .mapSameBin, item := some n }
          | none =>
            match openChain c.rules with
            | some n => .error { code := .chainOpen, item := some n }
            | none =>
              match firstNumber maskEnd 1 c.rules with
              | some n => .error { code := .chainMaskEnd, item := some n }
              | none => .ok c

end Sys2Proof.Machine
end

