-- ==== Sys2Proof/Machine/Rack.lean ====
section
/-!
DEFINITION. The refill and emptying senses: the staple budget at a new cartridge (R110), an emptied bin (R133), the emptied
exception tray (R135), and the meanings of CARTRIDGE_INSERTED, BIN_EMPTIED and TRAY_EMPTIED.
-/
namespace Sys2Proof.Machine

open Sys2Proof.Config

/-- A rack or cartridge sense raises its event: taken from the retained store check onward, held before it in LOADING, not
acted on without a configuration (R133, R135, R151, R184, R187). -/
def State.senseRaised (hold : HeldEvents → HeldEvents) (take : StationConfig → State → State) (s : State) : State :=
  match s.config with
  | some c => take c s
  | none =>
    match s.ctl.station with
    | .loading => s.onPart fun k => { k with held := hold k.held }
    | _ => s

/-- A new cartridge (R110): remaining full in the budget and the retained store, READY, the blocks re-evaluated, a re-scan. -/
def State.refill (c : StationConfig) (s : State) : State :=
  (((s.onStaples fun b => { b with remaining := c.cartridgeSize, state := .ready }).writeStore).reevaluateAndServe).rescan

/-- A roster cursor that names an emptied bin becomes absent (R178). -/
def State.forgetCursor (n : Nat) (s : State) : State :=
  s.onCtl fun k =>
    { k with
      rosterCursor :=
        match k.rosterCursor with
        | none => none
        | some (b, position) => if b = n then none else some (b, position) }

/-- An emptied bin (R133): fills 0 and an empty roster, committed kept, in the retained store too, the blocks re-evaluated, a
re-scan. A sense beyond the rack raises no event. -/
def State.emptyBin (n : Nat) (s : State) : State :=
  match s.bin n with
  | none => s
  | some _ =>
    ((((s.onBin n fun b => { b with fillPacks := 0, fillSheets := 0, roster := [] }).writeStore).forgetCursor
      n).reevaluateAndServe).rescan

/-- The emptied exception tray (R135): count 0 in the retained store too, the blocks re-evaluated. A condition that becomes
false raises no hold (R157). -/
def State.emptyTray (s : State) : State :=
  ((s.onRack fun r => { r with tray := 0 }).writeStore).reevaluateAndServe

/-- The cartridge-present sense goes from showing no cartridge to showing one (R110). -/
def State.cartridgeShows (s : State) : State := s.onPart fun k => { k with cartridgeSense := true }

/-- CARTRIDGE_INSERTED. -/
def execCartridgeInserted (s : State) : Host.Outcome State Fault Refusal :=
  event (fun t => t.cartridgeShows.senseRaised (fun h => { h with cartridge := true }) State.refill) s

/-- BIN_EMPTIED. -/
def execBinEmptied (bin : Nat) (s : State) : Host.Outcome State Fault Refusal :=
  event (State.senseRaised (fun h => { h with bins := h.bins ++ [bin] }) fun _ => State.emptyBin bin) s

/-- TRAY_EMPTIED. -/
def execTrayEmptied (s : State) : Host.Outcome State Fault Refusal :=
  event (State.senseRaised (fun h => { h with tray := true }) fun _ => State.emptyTray) s

end Sys2Proof.Machine
end

