-- ==== Sys2Proof/Machine/StartUp.lean ====
section
/-!
DEFINITION. Resets (R183), the start sequence (R184, R186, R187), the retained store check (R107, R136, R137, R188), and the
meanings of POWER_RESET, RESET_PIN_ACTIVE, RESET_PIN_RELEASED, IMAGE_READ_COMPLETE, IMAGE_READ_TIMEOUT and LOSS_OF_POWER.
-/
namespace Sys2Proof.Machine

open Sys2Proof.Config

/-! ### Resets (R183) -/

/-- Every block takes its reset values, with the reset cause (R183). What is not a block's own is kept: the waiting commands,
the levels of the pins, the events the senses hold (log 14), and the retained store. -/
def State.resetTo (cause : ResetCause) (s : State) : State :=
  { State.reset with
    pending := s.pending
    part := { s.part with divert := none }
    ctl := { State.reset.ctl with resetCause := cause }
    store := s.store }

/-- A write of the retained store is cut off, or not (R188). -/
def State.cutStore (cut : Bool) (s : State) : State :=
  if cut then s.withStore { s.store with checkMatches := false } else s

/-- The straps are sampled at entry to LOADING, or stand unsampled while the part is held in reset (R162, R184 step 1). -/
def State.strapsTo (st : Option Straps) (s : State) : State := s.onPart fun k => { k with straps := st }

/-- Power is applied (R183, R188): a POWER reset, with an unpreserved store and nothing held by a sense (log 14); LOADING
starts at once unless the reset pin is active. -/
def State.powerApplied (straps : Straps) (s : State) : State :=
  (((s.resetTo .power).withStore RetainedStore.lost).onPart fun k =>
    { k with supplied := true, held := { bins := [], tray := false, cartridge := false } }).strapsTo
    (if s.part.resetPin then none else some straps)

/-- The reset pin is driven active (R183): a LINE reset of a part with power, and the part stays in reset. -/
def State.pinActive (cut : Bool) (s : State) : State :=
  if s.part.resetPin then s
  else if s.part.supplied then
    (((s.resetTo .line).cutStore cut).onPart fun k => { k with resetPin := true }).strapsTo none
  else s.onPart fun k => { k with resetPin := true }

/-- The reset pin is released (R183): LOADING starts in a part with power. -/
def State.pinReleased (straps : Straps) (s : State) : State :=
  if s.part.resetPin then
    let t := s.onPart fun k => { k with resetPin := false }
    if s.part.supplied then t.strapsTo (some straps) else t
  else s

/-- Power is removed (R188): the part stops; its registers stand until power is applied again (log 25). -/
def State.powerLost (cut : Bool) (s : State) : State :=
  (s.cutStore (cut && s.part.supplied)).onPart fun k => { k with supplied := false, divert := none }

/-! ### Failed validation (R184 step 3, R187) -/

/-- The senses hold nothing any more. -/
def State.clearHeld (s : State) : State :=
  s.onPart fun k => { k with held := { bins := [], tray := false, cartridge := false } }

/-- The staple budget of a station without a configuration (R107). -/
def State.budgetUnset (s : State) : State := s.onStaples fun _ => { remaining := 0, committed := 0, state := .ready }

/-- Validation has failed: CONFIG_FAULT with the code, or SAFE where link loss is held (R150, R184, R187). The held cause is
discarded on the way to CONFIG_FAULT (R140). -/
def State.failLoading (f : ConfigFault) (s : State) : State :=
  let t := s.clearHeld.budgetUnset
  if s.ctl.linkLossHeld then (t.enterSafe).onCtl fun k => { k with linkLossHeld := false }
  else (t.stopHead).onCtl fun k => { k with station := .configFault, configFault := some f, heldCause := none }

/-! ### The retained store check (R107, R136, R137, R188) -/

/-- The recorded result of the check (R188). -/
def State.storeCheck (s : State) : StoreResult :=
  match s.ctl.resetCause with
  | .power => .notMade
  | .line => if s.store.checkMatches then .good else .bad
  | .reboot => if s.store.checkMatches then .good else .bad

/-- The stored bins were written under the geometry of the new image (R137). -/
def RetainedStore.sameGeometry (r : RetainedStore) (c : StationConfig) : Bool :=
  decide (r.rackSize = c.rackSize ∧ r.binPackCapacity = c.binPackCapacity ∧ r.binSheetCapacity = c.binSheetCapacity)

/-- A bin record from its retained content; committed is 0 after every reset (R136). -/
def RetainedBin.restored (b : RetainedBin) : Bin :=
  { fillPacks := b.fillPacks, fillSheets := b.fillSheets, committed := 0, roster := b.roster }

/-- The start values of the bin table and the exception tray count (R136, R137). -/
def startRack (r : RetainedStore) (c : StationConfig) (result : StoreResult) : Rack :=
  match result with
  | .good =>
    { bins :=
        if r.sameGeometry c then r.bins.map RetainedBin.restored else List.replicate c.rackSize Bin.empty,
      tray := min r.tray c.trayCapacity }
  | .notMade => { bins := List.replicate c.rackSize Bin.empty, tray := 0 }
  | .bad => { bins := List.replicate c.rackSize Bin.empty, tray := 0 }

/-- The start value of the staple budget (R107). After a GOOD check the state stands as it is (log 15). -/
def startStaples (r : RetainedStore) (c : StationConfig) (result : StoreResult) (cartridge : Bool) (b : StapleBudget) :
    StapleBudget :=
  match result with
  | .good => { b with remaining := min r.remaining c.cartridgeSize, committed := 0 }
  | .notMade => { remaining := if cartridge then c.cartridgeSize else 0, committed := 0, state := .ready }
  | .bad => { remaining := if cartridge then c.cartridgeSize else 0, committed := 0, state := .ready }

/-- Step 5 of R184 up to the held events: the result recorded, the start values set and written back (R188). -/
def State.checkStore (c : StationConfig) (cartridge : Bool) (s : State) : State :=
  (((((s.onPart fun k => { k with cartridgeSense := cartridge }).onCtl fun k =>
    { k with storeResult := s.storeCheck }).onRack fun _ => startRack s.store c s.storeCheck).onStaples
    (startStaples s.store c s.storeCheck cartridge))).writeStore

/-- The events the senses held are taken at the end of the check (R133, R135, R136, R184). -/
def State.takeHeld (c : StationConfig) (s : State) : State :=
  let t := (s.part.held.bins.foldl (fun u n => u.emptyBin n) s)
  let u := if s.part.held.tray then t.emptyTray else t
  (if s.part.held.cartridge then u.refill c else u).clearHeld

/-! ### The rest of the start sequence (R184 steps 6 to 8) -/

/-- A self-test is requested; it starts at once at an IDLE head (R116). -/
def State.requestTest (s : State) : State := (s.onHead fun h => { h with testWaiting := true }).serve

/-- The start self-test, with a stapler fitted and no held cause (R184 step 6). -/
def State.startTestIfFitted (c : StationConfig) (s : State) : State :=
  if c.stapler = true ∧ s.ctl.heldCause = none then s.requestTest else s

/-- The pocket checks, each append served where the head may take it (R184 step 7, R90). -/
def State.checkPockets (occupied : PocketLevels) (s : State) : State :=
  PocketId.all.foldl (fun t p => (t.checkPocket p (occupied.get p)).serve) (s.onPart fun k => { k with occupied := occupied })

/-- The exit of the start sequence (R184 step 8): SAFE with link loss held, else a queued JOIN, JOINING, and the hold condition
judged. -/
def State.leaveLoading (c : StationConfig) (s : State) : State :=
  if s.ctl.linkLossHeld then (s.enterSafe).onCtl fun k => { k with linkLossHeld := false }
  else
    ((s.append (.join s.ctl.resetCause c.stapler c.edge s.head.readings.outcome c.pocketCapacity)).enter
      .joining).judgeHold

/-- Distribution and the steps after it (R184 steps 4 to 8). -/
def State.startWith (c : StationConfig) (occupied : PocketLevels) (cartridge : Bool) (s : State) : State :=
  ((((((s.withConfig (some c)).checkStore c cartridge).takeHeld c).startTestIfFitted c).checkPockets occupied).leaveLoading c)

/-- The image read ends in LOADING with the bytes it returned (R184 steps 3 to 8). -/
def State.imageRead (bytes : List Byte) (occupied : PocketLevels) (cartridge : Bool) (s : State) : State :=
  match s.ctl.station with
  | .loading =>
    match validate s.address bytes with
    | .error f => s.failLoading f
    | .ok c => s.startWith c occupied cartridge
  | _ => s

/-! ### The meanings -/

/-- POWER_RESET. -/
def execPowerReset (straps : Straps) (s : State) : Host.Outcome State Fault Refusal := .next (s.powerApplied straps)

/-- RESET_PIN_ACTIVE. -/
def execResetPinActive (cutsWrite : Bool) (s : State) : Host.Outcome State Fault Refusal := .next (s.pinActive cutsWrite)

/-- RESET_PIN_RELEASED. -/
def execResetPinReleased (straps : Straps) (s : State) : Host.Outcome State Fault Refusal := .next (s.pinReleased straps)

/-- IMAGE_READ_COMPLETE. -/
def execImageReadComplete (bytes : List Byte) (occupied : PocketLevels) (cartridge : Bool) (s : State) :
    Host.Outcome State Fault Refusal :=
  event (State.imageRead bytes occupied cartridge) s

/-- IMAGE_READ_TIMEOUT: the read fails with no byte read (R184 step 2, R186 code 2). -/
def execImageReadTimeout (s : State) : Host.Outcome State Fault Refusal := event (State.imageRead [] noLevels false) s

/-- LOSS_OF_POWER. -/
def execLossOfPower (cutsWrite : Bool) (s : State) : Host.Outcome State Fault Refusal := .next (s.powerLost cutsWrite)

end Sys2Proof.Machine
end

