-- ==== Sys2Proof/Machine/Console.lean ====
section
/-!
DEFINITION. The console slots, asks and orders (R175 to R181), the service button (R182), and the meanings of the ASK kinds,
REPORT_ECHO, ANSWER_ECHO, the ORDER kinds and SERVICE_BUTTON.
-/
namespace Sys2Proof.Machine

open Sys2Proof.Config

/-! ### Asks (R175, R176) -/

/-- Whether an ASK of a kind is taken in a station state (R175). -/
def StationState.takesAsk (st : StationState) (a : Ask) : Bool :=
  st.answers || (decide (st = .configFault) && decide (a = .summary))

/-- An ASK handed to the Station Controller (R175, R176). -/
def State.asked (a : Ask) (s : State) : State := if s.ctl.station.takesAsk a then s.takeAsk a else s

/-- An ASK delivered from the console (R173, R174). -/
def State.askDelivered (h : ConsoleHeader) (a : Ask) (s : State) : State :=
  s.fromMember (askFrame h a) (State.forThisStation h.target (State.asked a))

/-! ### Echoes of REPORT and ANSWER (R115, R175, R178) -/

/-- One updated flag at the echo of a HEAD report that carried the view (R115). -/
def HeadReading.reported (carried : ReadingView) (r : HeadReading) : HeadReading :=
  if carried.updated = true ∧ r.rewritten = false then { r with updated := false } else r

/-- The flags at the echo of a HEAD report (R115). -/
def State.headReported (c : HeadContent) (s : State) : State :=
  s.onHead fun h =>
    { h with
      readings :=
        { position1 := h.readings.position1.reported c.position1
          position2 := h.readings.position2.reported c.position2
          light := h.readings.light.reported c.light
          medium := h.readings.medium.reported c.medium
          firm := h.readings.firm.reported c.firm
          outcome := h.readings.outcome } }

/-- The roster length of a bin as it stands. -/
def State.rosterLength (s : State) (n : Nat) : Nat :=
  match s.bin n with
  | none => 0
  | some b => b.roster.length

/-- The roster cursor at the echo of a BIN report (R178): records remain when the roster, as it stands, reaches past the last
one carried (log 29). -/
def State.binReported (n : Nat) (c : BinContent) (s : State) : State :=
  s.onCtl fun k =>
    { k with
      rosterCursor :=
        if c.first + c.records.length ≤ s.rosterLength n then some (n, c.first + c.records.length) else none }

/-- What the echo of a REPORT changes outside its slot (R115, R178). -/
def State.contentReported (a : Ask) (c : ReportContent) (s : State) : State :=
  match c with
  | .head h => s.headReported h
  | .bin b =>
    match a with
    | .bin n => s.binReported n.toNat b
    | _ => s
  | _ => s

/-- The report slot at the echo (R169, R175, R176): empty, or still full with the new REPORT appended where a replace is
pending. -/
def State.freeReportSlot (m : TxMark) (s : State) : State :=
  match m with
  | .replace =>
    match s.ctl.reportSlot with
    | none => s
    | some a => s.appendReport a
  | .none => s.onCtl fun k => { k with reportSlot := none }
  | .remove => s.onCtl fun k => { k with reportSlot := none }

/-- The echo of this station's REPORT. -/
def State.reportEchoed (e : TxEntry) (s : State) : State :=
  match e.frame with
  | .report a c => (s.contentReported a c).freeReportSlot e.mark
  | _ => s

/-- The echo of this station's ANSWER (R175). -/
def State.answerEchoed (s : State) : State := s.onCtl fun k => { k with answerSlot := none }

/-! ### Orders (R175, R179, R180) -/

/-- The effect and the answer code of an order. -/
structure Obeyed where
  state : State
  code : AnswerCode

/-- An ORDER other than REBOOT handed to the Station Controller (R175, R179). -/
def State.takeOrder (o : OrderKind) (obey : State → Obeyed) (s : State) : State :=
  if s.ctl.station.answers then
    match s.ctl.answerSlot with
    | some _ => s.count .ordersIgnored
    | none =>
      ((obey s).state.append (.answer o (obey s).code)).onCtl fun k => { k with answerSlot := some (o, (obey s).code) }
  else s

/-- STANDBY (R180). -/
def State.obeyStandby (s : State) : Obeyed :=
  match s.ctl.station with
  | .run => { state := s.enterDrain, code := .accepted }
  | .drain => { state := s, code := .accepted }
  | .standby => { state := s, code := .accepted }
  | _ => { state := s, code := .wrongState }

/-- RESUME (R148, R149, R180). -/
def State.obeyResume (r : ResumeReadings) (s : State) : Obeyed :=
  match s.ctl.station with
  | .run => { state := s, code := .accepted }
  | .drain => { state := s.enterRun, code := .accepted }
  | .standby => if s.testing then { state := s, code := .busy } else { state := s.enterRun, code := .accepted }
  | .halted =>
    if s.jamPresent r then { state := s.readSensors r, code := .jamPresent }
    else { state := (s.readSensors r).resume r.occupied, code := .accepted }
  | _ => { state := s, code := .wrongState }

/-- SELF_TEST (R116, R180). -/
def State.obeySelfTest (s : State) : Obeyed :=
  match s.ctl.station with
  | .standby => if s.testing then { state := s, code := .busy } else { state := s.requestTest, code := .accepted }
  | _ => { state := s, code := .wrongState }

/-- CLEAR_COUNTERS (R180, R181). -/
def State.obeyClear (s : State) : Obeyed :=
  { state := s.onCtl fun k => { k with counters := Counters.zero }, code := .accepted }

/-- REBOOT (R179, R183): a reset that samples the straps afresh. -/
def State.reboot (straps : Straps) (cut : Bool) (s : State) : State :=
  ((s.resetTo .reboot).cutStore cut).strapsTo (some straps)

/-- An ORDER delivered from the console (R173, R174). -/
def State.orderDelivered (h : ConsoleHeader) (o : OrderKind) (take : State → State) (s : State) : State :=
  s.fromMember (orderFrame h o) (State.forThisStation h.target take)

/-! ### The service button (R182) -/

/-- A press of the service button. -/
def State.buttonPressed (r : ResumeReadings) (s : State) : State :=
  if s.testing then s
  else
    match s.ctl.station with
    | .halted => if s.jamPresent r then s.readSensors r else (s.readSensors r).resume r.occupied
    | .run => s.enterDrain
    | .drain => s.enterRun
    | .standby => s.enterRun
    | _ => s

/-! ### The meanings -/

/-- ASK_SUMMARY. -/
def execAskSummary (h : ConsoleHeader) (s : State) : Host.Outcome State Fault Refusal :=
  event (State.askDelivered h .summary) s

/-- ASK_PACK. -/
def execAskPack (h : ConsoleHeader) (id : WirePackId) (s : State) : Host.Outcome State Fault Refusal :=
  event (State.askDelivered h (.pack id)) s

/-- ASK_POCKET. -/
def execAskPocket (h : ConsoleHeader) (selector : Byte) (s : State) : Host.Outcome State Fault Refusal :=
  event (State.askDelivered h (.pocket selector)) s

/-- ASK_BIN. -/
def execAskBin (h : ConsoleHeader) (selector : Byte) (s : State) : Host.Outcome State Fault Refusal :=
  event (State.askDelivered h (.bin selector)) s

/-- ASK_HEAD. -/
def execAskHead (h : ConsoleHeader) (s : State) : Host.Outcome State Fault Refusal :=
  event (State.askDelivered h .head) s

/-- ASK_COUNTERS. -/
def execAskCounters (h : ConsoleHeader) (s : State) : Host.Outcome State Fault Refusal :=
  event (State.askDelivered h .counters) s

/-- REPORT_ECHO. -/
def execReportEcho (s : State) : Host.Outcome State Fault Refusal :=
  event (State.echo (TxFrame.isKind .report) State.reportEchoed) s

/-- ANSWER_ECHO. -/
def execAnswerEcho (s : State) : Host.Outcome State Fault Refusal :=
  event (State.echo (TxFrame.isKind .answer) fun _ => State.answerEchoed) s

/-- ORDER_STANDBY. -/
def execOrderStandby (h : ConsoleHeader) (s : State) : Host.Outcome State Fault Refusal :=
  event (State.orderDelivered h .standby (State.takeOrder .standby State.obeyStandby)) s

/-- ORDER_RESUME. -/
def execOrderResume (h : ConsoleHeader) (r : ResumeReadings) (s : State) : Host.Outcome State Fault Refusal :=
  event (State.orderDelivered h .resume (State.takeOrder .resume (State.obeyResume r))) s

/-- ORDER_SELF_TEST. -/
def execOrderSelfTest (h : ConsoleHeader) (s : State) : Host.Outcome State Fault Refusal :=
  event (State.orderDelivered h .selfTest (State.takeOrder .selfTest State.obeySelfTest)) s

/-- ORDER_CLEAR_COUNTERS. -/
def execOrderClearCounters (h : ConsoleHeader) (s : State) : Host.Outcome State Fault Refusal :=
  event (State.orderDelivered h .clearCounters (State.takeOrder .clearCounters State.obeyClear)) s

/-- ORDER_REBOOT: taken in every station state, whatever the answer slot holds (R175, R179). -/
def execOrderReboot (h : ConsoleHeader) (straps : Straps) (cutsWrite : Bool) (s : State) :
    Host.Outcome State Fault Refusal :=
  event (State.orderDelivered h .reboot (State.reboot straps cutsWrite)) s

/-- SERVICE_BUTTON. -/
def execServiceButton (readings : ResumeReadings) (s : State) : Host.Outcome State Fault Refusal :=
  event (State.buttonPressed readings) s

end Sys2Proof.Machine
end

