-- ==== Sys2Proof/Machine/PackFrames.lean ====
section
/-!
DEFINITION. What the Pack Table does with the frames it takes (R1 to R18, R33 to R44) and with a withdrawal at the owner
(R79), and the meanings of OFFER, BID, CLOSE, WITHDRAW, DELIVERED, ASIDE, HALT, HALT_ECHO, JOIN and JOIN_ECHO.
-/
namespace Sys2Proof.Machine

open Sys2Proof.Config

/-- The Pack Table takes a frame with a pack id: discarded in LOADING and CONFIG_FAULT (R5), malformed when the id fails
R1, else taken. -/
def State.withPack (w : WirePackId) (take : PackId → State → State) (s : State) : State :=
  if s.ctl.station.applies then
    match readPackId w with
    | none => s.count .malformed
    | some id => take id s
  else s

/-! ### OFFER (R2, R8) -/

/-- Append a new BIDDING entry and consider it (R8, R21). -/
def State.enterOffer (o : Offer) (s : State) : State :=
  let e : Entry := { offer := o, state := .bidding [] }
  (s.onPacks fun t => { t with entries := t.entries ++ [e] }).considerNew e

/-- An OFFER delivered with a pack id that passes R1 (R2, R8). -/
def State.takeOffer (sender : Nat) (b : OfferBody) (s : State) : State :=
  match readOffer b with
  | none => s.count .malformed
  | some o =>
    if o.id.feed ≠ sender then s.count .malformed
    else
      match s.entry o.id with
      | some _ => s.count .outOfSequence
      | none => if s.packs.entries.length < tableCapacity then s.enterOffer o else s.count .offersRefused

/-! ### BID (R9, R33, R40) -/

/-- The pending bid's stage becomes SENT (R33). -/
def State.bidSent (id : PackId) (s : State) : State :=
  s.onPacks fun t => { t with bids := t.bids.map fun b => if b.id = id then { b with stage := .sent } else b }

/-- A bid record is appended at the end of an entry's list (R9). -/
def State.recordBid (id : PackId) (r : BidRecord) (s : State) : State :=
  s.onEntry id fun e =>
    match e.state with
    | .bidding bids => { e with state := .bidding (bids ++ [r]) }
    | .placed _ _ => e

/-- A BID from `sender` with fit and load in range; `mine` says that it is this station's echo (R9). -/
def State.takeBid (sender : Nat) (mine : Bool) (fit load : Nat) (id : PackId) (s : State) : State :=
  match s.entry id with
  | none =>
    let t := s.count .outOfSequence
    if mine then t.releaseBid id else t
  | some e =>
    match e.state with
    | .placed _ _ =>
      let t := s.count .lateBids
      if mine then t.releaseBid id else t
    | .bidding bids =>
      if bids.any fun r => decide (r.station = sender) then s.count .outOfSequence
      else
        let t := s.recordBid id { station := sender, fit := fit, load := load }
        if mine then t.bidSent id else t

/-- A BID of another station (R9). -/
def State.takeBidFrom (sender : Nat) (b : BidBody) (id : PackId) (s : State) : State :=
  if bidInRange b then s.takeBid sender false b.fit.toNat b.load.toNat id else s.count .malformed

/-- The echo of this station's BID (R9, R33). -/
def State.takeBidEcho (e : TxEntry) (s : State) : State :=
  match e.frame with
  | .bid id fit load => if s.ctl.station.applies then s.takeBid s.address true fit load id else s
  | _ => s

/-! ### CLOSE (R10, R11, R36, R37) -/

/-- Whether record `a` is chosen over record `b`: higher fit, then lower load, then lower address (R10). -/
def BidRecord.beats (a b : BidRecord) : Bool :=
  decide (b.fit < a.fit) ||
    (decide (a.fit = b.fit) &&
      (decide (a.load < b.load) || (decide (a.load = b.load) && decide (a.station < b.station))))

/-- The winning record of a bid list, none when it is empty (R10). -/
def winner : List BidRecord → Option BidRecord
  | [] => none
  | r :: rest =>
    match winner rest with
    | none => some r
    | some w => if w.beats r then some w else some r

/-- The claims of a winning pending bid are committed (R37, R64): the pocket RESERVED with its first-sheet timer, staples
and bin place committed, the pending bid gone. -/
def State.commitClaims (b : PendingBid) (s : State) : State :=
  ((((s.dropBid b.id).onPocket b.pocket fun _ =>
    { state := .reserved, bound := some { pack := b.id, next := 1 }, sheets := 0, driven := 0,
      timer := some (.firstSheet (seconds s.cfg.firstSheetLimit)), extraSeen := false }).onStaples fun k =>
    { k with committed := k.committed + b.staples })).onBin b.bin fun n => { n with committed := n.committed + 1 }

/-- An entry becomes PLACED with an owner; the annex is present at the owner (R4, R10). -/
def State.placeEntry (id : PackId) (owner : Nat) (annex : Option Annex) (s : State) : State :=
  s.onEntry id fun e => { e with state := .placed owner annex }

/-- This station's pending bid after a CLOSE that placed the pack with `owner` (R36). -/
def State.resolvePlaced (id : PackId) (owner : Nat) (s : State) : State :=
  match s.pendingBid id with
  | none => s.placeEntry id owner none
  | some b =>
    match b.stage with
    | .queued => (s.placeEntry id owner none).removeBid id
    | .sent =>
      if owner = s.address then
        (s.placeEntry id owner (some { pocket := b.pocket, bin := b.bin, stage := .live })).commitClaims b
      else (s.placeEntry id owner none).releaseBid id

/-- This station's pending bid after its entry has been retired UNPLACED or WITHDRAWN (R36, R39). -/
def State.resolveRetired (id : PackId) (s : State) : State :=
  match s.pendingBid id with
  | none => s
  | some b =>
    match b.stage with
    | .queued => s.removeBid id
    | .sent => s.releaseBid id

/-- A CLOSE from `sender` (R10). -/
def State.takeClose (sender : Nat) (id : PackId) (s : State) : State :=
  match s.entry id with
  | none => s.count .outOfSequence
  | some e =>
    if e.offer.id.feed ≠ sender then s.count .outOfSequence
    else
      match e.state with
      | .placed _ _ => s.count .outOfSequence
      | .bidding bids =>
        match winner bids with
        | none => (s.retire id).resolveRetired id
        | some w => s.resolvePlaced id w.station

/-! ### WITHDRAW (R12, R39, R79) -/

/-- A withdrawal handed to the bound pocket of an owned pack (R79); acted on in RUN, DRAIN and STANDBY alone. A FILLING pocket
already at capacity stays ABSORBING with its gap timer until a sheet or the expiry (log 31). -/
def State.withdrawAtOwner (p : PocketId) (s : State) : State :=
  if s.ctl.station.gates then
    match (s.pockets.get p).state with
    | .reserved => s.retireUngathered p .withdrawn
    | .filling => s.pocketTo p (.absorbing .withdrawn)
    | .absorbing _ => s
    | .waiting .finish => s.convertWaiting p .withdrawn
    | .waiting (.setAside _) => s
    | .waiting .clear => s
    | .atHead _ => s.count .tooLate
    | .retiring _ => s
    | .free => s
    | .leftover => s
  else s

/-- A WITHDRAW from `sender`, a feed node or the console (R12). -/
def State.takeWithdraw (sender : Nat) (id : PackId) (s : State) : State :=
  if sender ≠ 30 ∧ sender ≠ id.feed then s.count .outOfSequence
  else
    match s.entry id with
    | none => s.count .outOfSequence
    | some e =>
      match e.state with
      | .bidding _ => (s.retire id).resolveRetired id
      | .placed o a =>
        if o = s.address then
          match a with
          | some a => s.withdrawAtOwner a.pocket
          | none => s
        else s

/-! ### End messages (R14, R78) -/

/-- The pocket of an own end message's echo passes from RETIRING to FREE, and a re-scan runs (R14, R78). -/
def State.freeRetired (p : PocketId) (s : State) : State :=
  match (s.pockets.get p).state with
  | .retiring _ => ((s.onPocket p fun _ => Pocket.empty).rescan).judgeDrain
  | _ => s

/-- A DELIVERED or ASIDE from `sender` (R14). -/
def State.takeEnd (sender : Nat) (id : PackId) (s : State) : State :=
  match s.entry id with
  | none => s.count .outOfSequence
  | some e =>
    match e.state with
    | .bidding _ => s.count .outOfSequence
    | .placed o a =>
      if o = sender then
        match a with
        | none => s.retire id
        | some a => if o = s.address then (s.retire id).freeRetired a.pocket else s.retire id
      else s.count .outOfSequence

/-- The echo of this station's DELIVERED or ASIDE (R14). -/
def State.takeEndEcho (e : TxEntry) (s : State) : State :=
  if s.ctl.station.applies then
    match e.frame with
    | .delivered id _ _ => s.takeEnd s.address id
    | .aside id _ => s.takeEnd s.address id
    | _ => s
  else s

/-! ### HALT and JOIN (R15, R16, R189) -/

/-- A HALT or JOIN of another station (R15, R16, R147, R154). -/
def State.takeForget (sender : Nat) (s : State) : State :=
  if s.ctl.station.applies then s.forgetStation sender else s

/-- A held cause takes a station that has just joined into HALTING, ahead of its re-scan (R140). -/
def State.haltOnHeld (s : State) : State :=
  match s.ctl.heldCause with
  | none => s
  | some c => (s.onCtl fun k => { k with heldCause := none }).enterHalting c

/-- The echo of this station's JOIN (R16, R189): JOINING to RUN, HALTING if a cause is held, a re-scan. -/
def State.joinEchoed (s : State) : State :=
  match s.ctl.station with
  | .joining => ((s.forgetSelf.enter .run).haltOnHeld).rescan
  | _ => s.forgetSelf

/-! ### The meanings -/

/-- OFFER. -/
def execOffer (sender : LinkAddress) (b : OfferBody) (s : State) : Host.Outcome State Fault Refusal :=
  event (State.fromMember (offerFrame sender b) (State.withPack b.id fun _ => State.takeOffer sender.toNat b)) s

/-- BID. -/
def execBid (a : Arrival BidBody) (s : State) : Host.Outcome State Fault Refusal :=
  event
    (match a with
    | .echo => State.echo (TxFrame.isKind .bid) State.takeBidEcho
    | .other sender b => State.fromMember (bidFrame sender b) (State.withPack b.id (State.takeBidFrom sender.toNat b)))
    s

/-- CLOSE. -/
def execClose (sender : LinkAddress) (w : WirePackId) (s : State) : Host.Outcome State Fault Refusal :=
  event (State.fromMember (closeFrame sender w) (State.withPack w (State.takeClose sender.toNat))) s

/-- WITHDRAW. -/
def execWithdraw (sender : LinkAddress) (w : WirePackId) (s : State) : Host.Outcome State Fault Refusal :=
  event (State.fromMember (withdrawFrame sender w) (State.withPack w (State.takeWithdraw sender.toNat))) s

/-- DELIVERED. -/
def execDelivered (a : Arrival DeliveredBody) (s : State) : Host.Outcome State Fault Refusal :=
  event
    (match a with
    | .echo => State.echo (TxFrame.isKind .delivered) State.takeEndEcho
    | .other sender b => State.fromMember (deliveredFrame sender b) (State.withPack b.id (State.takeEnd sender.toNat)))
    s

/-- ASIDE. -/
def execAside (a : Arrival AsideBody) (s : State) : Host.Outcome State Fault Refusal :=
  event
    (match a with
    | .echo => State.echo (TxFrame.isKind .aside) State.takeEndEcho
    | .other sender b => State.fromMember (asideFrame sender b) (State.withPack b.id (State.takeEnd sender.toNat)))
    s

/-- HALT of another station. -/
def execHalt (sender : LinkAddress) (cause : Byte) (s : State) : Host.Outcome State Fault Refusal :=
  event (State.fromMember (haltFrame sender cause) (State.takeForget sender.toNat)) s

/-- HALT_ECHO. -/
def execHaltEcho (s : State) : Host.Outcome State Fault Refusal :=
  event (State.echo (TxFrame.isKind .halt) fun _ => State.haltEchoed) s

/-- JOIN of another station. -/
def execJoin (sender : LinkAddress) (b : JoinBody) (s : State) : Host.Outcome State Fault Refusal :=
  event (State.fromMember (joinFrame sender b) (State.takeForget sender.toNat)) s

/-- JOIN_ECHO. -/
def execJoinEcho (s : State) : Host.Outcome State Fault Refusal :=
  event (State.echo (TxFrame.isKind .join) fun _ => State.joinEchoed) s

end Sys2Proof.Machine
end

