-- ==== Sys2Proof/Machine/Holds.lean ====
section
/-!
DEFINITION. Feed holds (R155 to R161): the meanings of HOLD, HOLD_ECHO and RENEWAL_TIMER_EXPIRY.
-/
namespace Sys2Proof.Machine

open Sys2Proof.Config

/-- The renewal period, half the hold time (R155): as many half seconds as the hold time has seconds. -/
def renewalPeriod (c : StationConfig) : Nat := c.holdTime

/-- The echo of this station's HOLD (R158). -/
def State.holdEchoed (s : State) : State :=
  s.onCtl fun k =>
    { k with
      hold := { k.hold with
        queued := false
        timer := if k.hold.active then some (renewalPeriod s.cfg) else k.hold.timer } }

/-- The renewal timer expires in a hold state with the hold ACTIVE (R159): renewed when the condition is true, lapsed when it
is false. -/
def State.renewHold (s : State) : State :=
  if s.ctl.station.holds = true ∧ s.ctl.hold.active = true ∧ s.ctl.hold.timer.isSome = true then
    if s.holdCondition then
      (s.append (.hold s.cfg.holdTime)).onCtl fun k => { k with hold := { k.hold with queued := true, timer := none } }
    else s.endHold
  else s

/-- HOLD of another station: changes nothing here (R161). -/
def execHold (sender : LinkAddress) (time : Byte) (s : State) : Host.Outcome State Fault Refusal :=
  event (State.fromMember (holdFrame sender time) id) s

/-- HOLD_ECHO. -/
def execHoldEcho (s : State) : Host.Outcome State Fault Refusal :=
  event (State.echo (TxFrame.isKind .hold) fun _ => State.holdEchoed) s

/-- RENEWAL_TIMER_EXPIRY. -/
def execRenewalTimerExpiry (s : State) : Host.Outcome State Fault Refusal := event State.renewHold s

end Sys2Proof.Machine
end

