-- ==== Sys2Proof/Machine/BayLink.lean ====
section
/-!
DEFINITION. The Bay Link Unit on its own: contention (R165), spoiled frames and the spoil runs (R166, R170, R171), raw delivered
frames (R173, R174), and the meanings of CONTENTION, SPOILED_FRAME, MALFORMED_FRAME and FRAME_FOR_ANOTHER_MEMBER.
-/
namespace Sys2Proof.Machine

open Sys2Proof.Config

/-! ### Contention (R165) -/

/-- The head of the transmit queue takes part in a contention: its attempt is in progress. -/
def State.startAttempt (s : State) : State :=
  match s.attempt with
  | some _ => s
  | none =>
    s.onLink fun l =>
      { l with
        queue :=
          match l.queue with
          | [] => []
          | e :: rest => { e with attempting := true } :: rest }

/-- The attempt in progress passes the arbitration field against the other contenders' fields; it ends as a loss where the
station reads a place it did not send (R165). -/
def State.arbitrate (others : List Arbitration) (s : State) : State :=
  match s.attempt with
  | none => s
  | some e => if winsArbitration (arbitrationField e.frame.precedence s.address) others then s else s.endAttempt

/-- A contention begins: an attempt still in progress from an earlier one has been lost by then (R165, log 7), and the head of
the queue takes part. -/
def State.enterContention (s : State) : State := s.endAttempt.startAttempt

/-- A moment of a contention (R165, log 5). In SAFE the unit contends for nothing (R172). -/
def State.contends (m : ContentionMoment) (s : State) : State :=
  if s.unitActive = true ∧ s.ctl.station ≠ .safe then
    match m with
    | .whole others => s.enterContention.arbitrate others
    | .begins => s.enterContention
    | .arbitrates others => s.arbitrate others
    | .differs => s.endAttempt
  else s

/-! ### Spoiled frames (R166, R170, R171) -/

/-- The send spoil run after a spoiled attempt of a frame (R170). -/
def BayLink.sendRunAfter (l : BayLink) (e : TxEntry) : Nat :=
  if l.lastEnded = some e.number then min spoilLimit (l.sendRun + 1) else 1

/-- A spoiled attempt of this station's own frame (R166, R170). The counters rise before a marked frame is settled, so a COUNTERS
REPORT built in its place carries this attempt (log 33). -/
def State.ownSpoiled (s : State) : State :=
  let t := s.count .spoiledSeen
  match s.sending with
  | none => t
  | some e =>
    let run := s.link.sendRunAfter e
    let u := ((t.count .ownRetries).startAttempt.endAttempt).onLink fun l => { l with sendRun := run }
    if run = spoilLimit then u.linkLoss else u

/-- A received frame whose spoil window was driven (R166, R171). An attempt of this station's own stays in progress (log 7). -/
def State.receivedSpoiled (r : Reception) (s : State) : State :=
  let t := s.count .spoiledSeen
  if receptionDamaged r then
    let run := min spoilLimit (s.link.recvRun + 1)
    let u := (t.count .spoiledHere).onLink fun l => { l with recvRun := run }
    if run = spoilLimit then u.linkLoss else u
  else t.onLink fun l => { l with recvRun := 0 }

/-- A frame has been spoiled. -/
def State.frameSpoiled (f : SpoiledFrame) (s : State) : State :=
  if s.unitActive then
    match f with
    | .own => s.ownSpoiled
    | .received r => s.receivedSpoiled r
  else s

/-! ### Raw delivered frames (R173, R174) -/

/-- The sensors a resume would read, as the part last read them, for an order that a raw frame spells (log 9). -/
def State.lastReadings (s : State) : ResumeReadings :=
  { headJam := s.part.headJamSense, carriageJam := s.part.carriageJamSense, occupied := s.part.occupied }

/-- The straps as last sampled (log 9). -/
def State.lastStraps (s : State) : Straps := s.part.straps.getD { address := 0, rate := .kbit250 }

/-- An order of a raw frame, handed to the Station Controller. -/
def State.orderOf (o : OrderKind) (s : State) : State :=
  match o with
  | .standby => s.takeOrder .standby State.obeyStandby
  | .resume => s.takeOrder .resume (State.obeyResume s.lastReadings)
  | .selfTest => s.takeOrder .selfTest State.obeySelfTest
  | .clearCounters => s.takeOrder .clearCounters State.obeyClear
  | .reboot => s.reboot s.lastStraps false

/-- A well-formed frame is handed to its block by its kind (R174), its body read as R164 lays it out. -/
def State.handOn (f : Frame) (s : State) : State :=
  match FrameKind.ofCode f.kind, f.body with
  | some .offer, [a, b, c, cls, roll, cnt, fin, lane] =>
    s.withPack (packIdOf a b c) fun _ =>
      State.takeOffer f.sender.toNat
        { id := packIdOf a b c, classCode := cls, roll := roll, count := cnt, finish := fin, lane := lane }
  | some .bid, [a, b, c, fit, load] =>
    s.withPack (packIdOf a b c) (State.takeBidFrom f.sender.toNat { id := packIdOf a b c, fit := fit, load := load })
  | some .close, [a, b, c] => s.withPack (packIdOf a b c) (State.takeClose f.sender.toNat)
  | some .withdraw, [a, b, c] => s.withPack (packIdOf a b c) (State.takeWithdraw f.sender.toNat)
  | some .delivered, [a, b, c, _, _] => s.withPack (packIdOf a b c) (State.takeEnd f.sender.toNat)
  | some .aside, [a, b, c, _] => s.withPack (packIdOf a b c) (State.takeEnd f.sender.toNat)
  | some .halt, _ => s.takeForget f.sender.toNat
  | some .join, _ => s.takeForget f.sender.toNat
  | some .ask, body =>
    match readAsk body with
    | none => s
    | some a => State.forThisStation f.target (State.asked a) s
  | some .order, [o] =>
    match readOrder o with
    | none => s
    | some o => State.forThisStation f.target (State.orderOf o) s
  | _, _ => s

/-- A raw frame delivered from another member. -/
def State.frameDelivered (f : Frame) (s : State) : State := s.fromMember f (State.handOn f)

/-! ### The meanings -/

/-- CONTENTION. -/
def execContention (m : ContentionMoment) (s : State) : Host.Outcome State Fault Refusal := event (State.contends m) s

/-- SPOILED_FRAME. -/
def execSpoiledFrame (f : SpoiledFrame) (s : State) : Host.Outcome State Fault Refusal := event (State.frameSpoiled f) s

/-- MALFORMED_FRAME: a frame that fails a check of R173 is discarded and counted; one that fails none is handed on (log 9). -/
def execMalformedFrame (f : Frame) (s : State) : Host.Outcome State Fault Refusal := event (State.frameDelivered f) s

/-- FRAME_FOR_ANOTHER_MEMBER: received and checked, not handed on where it names another member (R174). -/
def execFrameForAnotherMember (f : Frame) (s : State) : Host.Outcome State Fault Refusal :=
  event (State.frameDelivered f) s

end Sys2Proof.Machine
end

