-- ==== Sys2Proof/Machine/Gate.lean ====
section
/-!
DEFINITION. The Gate Unit and the Pocket Set: the decision at the gate (R60, R61), a sheet in each pocket state (R64 to R70),
the pocket timers (R71, R72), and the meanings of SHEET_AT_GATE, GAP_TIMER_EXPIRY and FIRST_SHEET_TIMER_EXPIRY.
-/
namespace Sys2Proof.Machine

open Sys2Proof.Config

/-- The gate selects the divert actuator of a pocket, or none (R60). The selection stands until the next sheet event, a reset
or a loss of power (log 32). -/
def State.divertTo (p : Option PocketId) (s : State) : State := s.onPart fun k => { k with divert := p }

/-- A sheet is diverted into a pocket: sheets held rise by 1 and the gap timer starts afresh (R64, R65, R71). -/
def State.takeSheet (p : PocketId) (s : State) : State :=
  (s.divertTo (some p)).onPocket p fun q =>
    { q with sheets := q.sheets + 1, timer := some (.gap (seconds s.cfg.gapLimit)) }

/-- A pocket rule passes a sheet of this station's own pack (R61). -/
def State.passOwn (s : State) : State := s.count .ownPassed

/-- The closing conditions of ABSORBING after a sheet (R67). -/
def absorbingCloses (c : StationConfig) (o : Offer) (m : Mark) (sheets : Nat) : Bool :=
  m.last || (decide (o.count ≠ 0) && decide (m.index = o.count)) || decide (c.pocketCapacity ≤ sheets)

/-- A sheet meets an ABSORBING pocket with its reason (R66, R67). -/
def State.absorbSheet (p : PocketId) (r : AsideReason) (o : Offer) (m : Mark) (s : State) : State :=
  let t := if (s.pockets.get p).sheets < s.cfg.pocketCapacity then s.takeSheet p else s.passOwn
  if absorbingCloses s.cfg o m (t.pockets.get p).sheets then t.closePocket p (.setAside r) else t

/-- The next expected index rises by 1 (R65). -/
def State.nextIndex (p : PocketId) (s : State) : State :=
  s.onPocket p fun q => { q with bound := q.bound.map fun b => { b with next := b.next + 1 } }

/-- A FILLING pocket judges the pack after its next sheet in order (R64, R65). -/
def State.judgePack (p : PocketId) (o : Offer) (m : Mark) (s : State) : State :=
  if o.count ≠ 0 ∧ (s.pockets.get p).sheets = o.count then s.closePocket p .finish
  else if m.last then (if o.count ≠ 0 then s.closePocket p (.setAside .short) else s.closePocket p .finish)
  else s

/-- The first sheet of a RESERVED pocket's pack (R64). -/
def State.firstSheet (p : PocketId) (o : Offer) (m : Mark) (s : State) : State :=
  let t := s.takeSheet p
  if m.index = 1 then ((t.pocketTo p .filling).nextIndex p).judgePack p o m
  else
    let u := t.pocketTo p (.absorbing .sequence)
    if (decide (o.count = 1) || absorbingCloses s.cfg o m (u.pockets.get p).sheets) = true then
      u.closePocket p (.setAside .sequence)
    else u

/-- A sheet of a FILLING pocket's pack (R65, R66). -/
def State.fillingSheet (p : PocketId) (next : Nat) (o : Offer) (m : Mark) (s : State) : State :=
  if m.index = next then
    if s.cfg.pocketCapacity ≤ (s.pockets.get p).sheets then (s.passOwn).closePocket p (.setAside .truncated)
    else ((s.takeSheet p).nextIndex p).judgePack p o m
  else (s.pocketTo p (.absorbing .sequence)).absorbSheet p .sequence o m

/-- An extra sheet is passed (R68 to R70). -/
def State.extraSheet (s : State) : State := (s.count .extra).passOwn

/-- A sheet of this station's own pack meets its bound pocket (R64 to R70). -/
def State.sheetAtPocket (p : PocketId) (o : Offer) (m : Mark) (s : State) : State :=
  match (s.pockets.get p).state with
  | .reserved => s.firstSheet p o m
  | .filling =>
    match (s.pockets.get p).bound with
    | none => s
    | some b => s.fillingSheet p b.next o m
  | .absorbing r => s.absorbSheet p r o m
  | .waiting .finish => (s.extraSheet).convertWaiting p .extra
  | .waiting (.setAside _) => s.extraSheet
  | .waiting .clear => s
  | .atHead .finish => (s.extraSheet).onPocket p fun q => { q with extraSeen := true }
  | .atHead (.setAside _) => s.extraSheet
  | .atHead .clear => s
  | .retiring _ => s.extraSheet
  | .free => s
  | .leftover => s

/-- A sheet at the gate (R60, R61): passed unless its pack is this station's own and the pocket rules divert it. -/
def State.sheetArrives (raw : Option SheetMark) (s : State) : State :=
  let t := s.divertTo none
  if s.ctl.station.gates then
    match decodeMark raw with
    | none => t.count .unreadable
    | some m =>
      match s.lookup m.id with
      | .unknown => t
      | .bidding => t
      | .other => t
      | .own e a => t.sheetAtPocket a.pocket e.offer m
  else t

/-- The gap timer of a pocket expires (R71); it runs only in RUN, DRAIN and STANDBY (R73). -/
def State.gapExpires (p : PocketId) (s : State) : State :=
  if s.ctl.station.gates then
    match (s.pockets.get p).state with
    | .filling => s.closePocket p (.setAside .gap)
    | .absorbing r => s.closePocket p (.setAside r)
    | _ => s
  else s

/-- The first-sheet timer of a pocket expires (R72); it runs only in RUN, DRAIN and STANDBY (R73). -/
def State.firstSheetExpires (p : PocketId) (s : State) : State :=
  if s.ctl.station.gates then
    match (s.pockets.get p).state with
    | .reserved => s.retireUngathered p .noSheets
    | _ => s
  else s

/-- SHEET_AT_GATE. -/
def execSheetAtGate (mark : Option SheetMark) (s : State) : Host.Outcome State Fault Refusal :=
  event (State.sheetArrives mark) s

/-- GAP_TIMER_EXPIRY. -/
def execGapTimerExpiry (p : PocketId) (s : State) : Host.Outcome State Fault Refusal := event (State.gapExpires p) s

/-- FIRST_SHEET_TIMER_EXPIRY. -/
def execFirstSheetTimerExpiry (p : PocketId) (s : State) : Host.Outcome State Fault Refusal :=
  event (State.firstSheetExpires p) s

end Sys2Proof.Machine
end

