-- ==== Sys2Proof/Machine/Head.lean ====
section
/-!
DEFINITION. The Finishing Head Controller: strokes and clinch judgement (R93 to R97), eject, drop and tray drop (R98 to R101,
R131, R134), faults (R102 to R104), the self-test (R117, R118), and the meanings of the head's events.
-/
namespace Sys2Proof.Machine

open Sys2Proof.Config

/-! ### Strokes (R93 to R97, R109, R114) -/

/-- Writing a reading sets its value and its updated flag (R114). -/
def HeadReading.write (v : SenseReading) : HeadReading := { value := v, updated := true, rewritten := true }

/-- The clinch reading of a staple position is written (R93, R113). -/
def State.writeClinch (position : Nat) (v : SenseReading) (s : State) : State :=
  s.onHead fun h =>
    { h with
      readings :=
        if position = 1 then { h.readings with position1 := HeadReading.write v }
        else { h.readings with position2 := HeadReading.write v } }

/-- A stroke-complete lowers remaining by 1, not below 0, whatever its reading (R109), in the retained store too (R107). -/
def State.spendStaple (s : State) : State :=
  (s.onStaples fun b => { b with remaining := b.remaining - 1 }).writeStore

/-- A good clinch (R94): committed falls by 1, the position is done, and the operation goes on. -/
def State.goodClinch (op : Operation) (v : SenseReading) (s : State) : State :=
  let t :=
    (s.onStaples fun b => { b with committed := b.committed - 1 }).onPocket op.pocket fun q =>
      { q with driven := q.driven + 1 }
  let u := if s.cfg.overdriveThreshold ≤ v.toNat then t.count .overdrive else t
  u.startPhase op (u.finishPhase op.pocket false)

/-- An open staple on a first stroke: the same position is struck again, once (R95). -/
def State.retryStroke (op : Operation) (position : Nat) (s : State) : State :=
  (s.count .clinchRetries).startPhase { op with retried := true } (.stroke position true)

/-- A second open staple at one position converts the job in place (R96), and the pack goes to the tray or, when the tray is
full, back to the queue. -/
def State.convertClinch (op : Operation) (s : State) : State :=
  let t := (s.accountAside op.pocket .clinch).pocketTo op.pocket (.atHead (.setAside .clinch))
  if t.trayFull then t.putBack op (.setAside .clinch) .normal none
  else t.startPhase { op with job := .setAside .clinch, lane := .normal } .trayDrop

/-- A stroke-complete ends a stroke (R93 to R96). -/
def State.strokeDone (op : Operation) (position : Nat) (retry : Bool) (v : SenseReading) (s : State) : State :=
  let t := (s.writeClinch position v).spendStaple
  if s.cfg.lowThreshold ≤ v.toNat then t.goodClinch op v
  else if retry then t.convertClinch op
  else t.retryStroke op position

/-- A stroke-complete event; with no stroke in progress it is ignored (R104). -/
def State.strokeCompletes (v : SenseReading) (s : State) : State :=
  match s.head.state with
  | .busy op =>
    match op.phase with
    | .stroke position retry => s.strokeDone op position retry v
    | _ => s
  | _ => s

/-- The head reports that it found no staple: remaining 0, EMPTY (R97, R111). -/
def State.emptyStaples (s : State) : State :=
  (s.onStaples fun b => { b with remaining := 0, state := .empty }).writeStore

/-- A no-staple event by the head state (R97, R111). -/
def State.noStapleFound (s : State) : State :=
  match s.head.state with
  | .stopped => s
  | .busy op =>
    match op.phase with
    | .stroke _ retry =>
      s.emptyStaples.putBack op .finish op.lane (some { openStaple := retry, retried := op.retried })
    | _ => s.emptyStaples.reevaluateAndServe
  | .idle => s.emptyStaples.reevaluateAndServe
  | .testing _ _ => s.emptyStaples.reevaluateAndServe

/-! ### Eject and drop (R98, R99, R131) -/

/-- The occupancy sensor of a pocket has been read. -/
def State.readOccupied (p : PocketId) (b : Bool) (s : State) : State :=
  s.onPart fun k => { k with occupied := k.occupied.set b p }

/-- An eject-complete event (R98). -/
def State.ejectCompletes (occupied : Bool) (s : State) : State :=
  match s.head.state with
  | .busy op =>
    match op.phase with
    | .eject =>
      let t := s.readOccupied op.pocket occupied
      if occupied then t.headFault .ejectFault else t.startPhase op .drop
    | _ => s
  | _ => s

/-- The flags of a drop (R99, R131). -/
def State.dropFlags (s : State) (op : Operation) (o : Offer) (bin : Nat) : DeliveryFlags :=
  { extraSeen := (s.pockets.get op.pocket).extraSeen, retried := op.retried, overflowBin := isOverflow s o bin }

/-- The roster record of a drop (R129). -/
def State.rosterRecord (s : State) (op : Operation) (o : Offer) (bin : Nat) : RosterRecord :=
  { id := o.id, classCode := o.classCode, roll := o.roll, sheets := (s.pockets.get op.pocket).sheets,
    flags := s.dropFlags op o bin }

/-- The Return Rack Unit records a drop in the target bin (R131). -/
def State.recordDrop (op : Operation) (o : Offer) (bin : Nat) (s : State) : State :=
  (s.onBin bin fun b =>
    { fillPacks := b.fillPacks + 1, fillSheets := b.fillSheets + (s.pockets.get op.pocket).sheets,
      committed := b.committed - 1, roster := b.roster ++ [s.rosterRecord op o bin] }).writeStore

/-- The drop of the operation's pack is recorded and DELIVERED is requested (R77, R99). -/
def State.deliverPack (op : Operation) (o : Offer) (bin : Nat) (s : State) : State :=
  (((s.recordDrop op o bin).count .delivered).pocketTo op.pocket (.retiring op.job)).requestEnd o.id
    (.delivered o.id bin (s.dropFlags op o bin))

/-- A drop-confirmed event (R99). -/
def State.dropConfirms (s : State) : State :=
  match s.head.state with
  | .busy op =>
    match op.phase with
    | .drop =>
      match s.offerOf op.pocket, s.targetBin op.pocket with
      | some o, some bin => (s.deliverPack op o bin).headIdle
      | _, _ => s.headIdle
    | _ => s
  | _ => s

/-! ### Tray drop (R100, R101, R134) -/

/-- The exception tray count rises by 1, in the retained store too, and the hold condition sees it (R134, R157). -/
def State.trayTakes (s : State) : State :=
  ((s.onRack fun r => { r with tray := r.tray + 1 }).writeStore).noteHold s.holdCondition

/-- A SET_ASIDE operation ends: the pocket RETIRING, ASIDE requested (R77, R101). -/
def State.asidePack (op : Operation) (r : AsideReason) (s : State) : State :=
  let t := s.pocketTo op.pocket (.retiring (.setAside r))
  match (s.pockets.get op.pocket).bound with
  | none => t
  | some b => t.requestEnd b.pack (.aside b.pack r)

/-- A tray-drop-confirmed event (R100, R101). -/
def State.trayDropConfirms (occupied : Bool) (s : State) : State :=
  match s.head.state with
  | .busy op =>
    match op.phase with
    | .trayDrop =>
      let t := s.readOccupied op.pocket occupied
      if occupied then t.headFault .ejectFault
      else
        match op.job with
        | .setAside r => ((t.trayTakes).asidePack op r).headIdle
        | .clear => (((t.trayTakes).onPocket op.pocket fun _ => Pocket.empty).rescan).headIdle
        | .finish => (t.trayTakes).headIdle
    | _ => s
  | _ => s

/-! ### Limits and jams (R102) -/

/-- A limit expiry is a fault in the phase it belongs to; in any other it has been cancelled (R102, R104). -/
def State.limitExpires (inPhase : Phase → Bool) (c : HaltCause) (s : State) : State :=
  match s.head.state with
  | .busy op => if inPhase op.phase then s.headFault c else s
  | _ => s

def Phase.isStroke : Phase → Bool
  | .stroke _ _ => true
  | .eject => false
  | .drop => false
  | .trayDrop => false

def Phase.isEject : Phase → Bool
  | .eject => true
  | .stroke _ _ => false
  | .drop => false
  | .trayDrop => false

def Phase.isDrop : Phase → Bool
  | .drop => true
  | .stroke _ _ => false
  | .eject => false
  | .trayDrop => false

def Phase.isTrayDrop : Phase → Bool
  | .trayDrop => true
  | .stroke _ _ => false
  | .eject => false
  | .drop => false

/-- The phases that use the carriage (R102). -/
def Phase.usesCarriage : Phase → Bool
  | .eject => true
  | .drop => true
  | .trayDrop => true
  | .stroke _ _ => false

/-- A head-jam event is a fault whenever the head is not STOPPED (R102, R104). -/
def State.headJams (s : State) : State :=
  match s.head.state with
  | .stopped => s
  | .idle => s.headFault .headJam
  | .busy _ => s.headFault .headJam
  | .testing _ _ => s.headFault .headJam

/-! ### The self-test (R117, R118) -/

/-- The judgement of a reading against a level's bands (R118). -/
def judgeBand (passLow passHigh marginalLow marginalHigh v : Nat) : Judgement :=
  if passLow ≤ v ∧ v ≤ passHigh then .pass
  else if marginalLow ≤ v ∧ v ≤ marginalHigh then .marginal
  else .fail

def judgeLight (v : SenseReading) : Judgement := judgeBand 140 260 100 300 v.toNat
def judgeMedium (v : SenseReading) : Judgement := judgeBand 440 560 400 600 v.toNat
def judgeFirm (v : SenseReading) : Judgement := judgeBand 760 880 720 920 v.toNat

/-- The worse of two judgements: FAIL worse than MARGINAL, MARGINAL worse than PASS (R118). -/
def Judgement.worse : Judgement → Judgement → Judgement
  | .fail, _ => .fail
  | _, .fail => .fail
  | .marginal, _ => .marginal
  | _, .marginal => .marginal
  | .pass, .pass => .pass

def Judgement.outcome : Judgement → TestOutcome
  | .pass => .pass
  | .marginal => .marginal
  | .fail => .fail

/-- The end of a self-test (R118): outcome written, head IDLE, a re-scan, a selection. -/
def State.endTest (l m f : Judgement) (s : State) : State :=
  (((s.onHead fun h =>
    { h with
      state := .idle
      readings := { h.readings with outcome := ((l.worse m).worse f).outcome } })).rescan).serve

/-- The level awaited has ended with a judgement; the test goes on to the next level or to its end (R117, R118). -/
def State.levelEnds (level : TestLevel) (j : Judgement) (s : State) : State :=
  match level with
  | .light => s.headTo (.testing (.medium j) readingLimit)
  | .medium l => s.headTo (.testing (.firm l j) readingLimit)
  | .firm l m => s.endTest l m j

/-- The reading of a level is written to its place (R114, R117). -/
def State.writeReference (level : TestLevel) (v : SenseReading) (s : State) : State :=
  s.onHead fun h =>
    { h with
      readings :=
        match level with
        | .light => { h.readings with light := HeadReading.write v }
        | .medium _ => { h.readings with medium := HeadReading.write v }
        | .firm _ _ => { h.readings with firm := HeadReading.write v } }

/-- The judgement of a level's reading (R118). -/
def TestLevel.judge (level : TestLevel) (v : SenseReading) : Judgement :=
  match level with
  | .light => judgeLight v
  | .medium _ => judgeMedium v
  | .firm _ _ => judgeFirm v

/-- A reference-reading event; ignored when no level awaits one (R117). -/
def State.referenceRead (v : SenseReading) (s : State) : State :=
  match s.head.state with
  | .testing level _ => (s.writeReference level v).levelEnds level (level.judge v)
  | _ => s

/-- A level's reading limit expires: the level is FAIL, no reading is written (R117). -/
def State.readingExpires (s : State) : State :=
  match s.head.state with
  | .testing level _ => s.levelEnds level .fail
  | _ => s

/-! ### The meanings -/

/-- STROKE_COMPLETE. -/
def execStrokeComplete (v : SenseReading) (s : State) : Host.Outcome State Fault Refusal :=
  event (State.strokeCompletes v) s

/-- STROKE_LIMIT_EXPIRY. -/
def execStrokeLimitExpiry (s : State) : Host.Outcome State Fault Refusal :=
  event (State.limitExpires Phase.isStroke .strokeTimeout) s

/-- NO_STAPLE. -/
def execNoStaple (s : State) : Host.Outcome State Fault Refusal := event State.noStapleFound s

/-- HEAD_JAM. -/
def execHeadJam (s : State) : Host.Outcome State Fault Refusal := event State.headJams s

/-- EJECT_COMPLETE. -/
def execEjectComplete (occupied : Bool) (s : State) : Host.Outcome State Fault Refusal :=
  event (State.ejectCompletes occupied) s

/-- EJECT_LIMIT_EXPIRY. -/
def execEjectLimitExpiry (s : State) : Host.Outcome State Fault Refusal :=
  event (State.limitExpires Phase.isEject .ejectFault) s

/-- CARRIAGE_JAM: a fault in a phase that uses the carriage, ignored otherwise (R102). -/
def execCarriageJam (s : State) : Host.Outcome State Fault Refusal :=
  event (State.limitExpires Phase.usesCarriage .ejectFault) s

/-- DROP_CONFIRMED. -/
def execDropConfirmed (s : State) : Host.Outcome State Fault Refusal := event State.dropConfirms s

/-- DROP_LIMIT_EXPIRY. -/
def execDropLimitExpiry (s : State) : Host.Outcome State Fault Refusal :=
  event (State.limitExpires Phase.isDrop .dropTimeout) s

/-- TRAY_DROP_CONFIRMED. -/
def execTrayDropConfirmed (occupied : Bool) (s : State) : Host.Outcome State Fault Refusal :=
  event (State.trayDropConfirms occupied) s

/-- TRAY_DROP_LIMIT_EXPIRY. -/
def execTrayDropLimitExpiry (s : State) : Host.Outcome State Fault Refusal :=
  event (State.limitExpires Phase.isTrayDrop .trayTimeout) s

/-- REFERENCE_READING. -/
def execReferenceReading (v : SenseReading) (s : State) : Host.Outcome State Fault Refusal :=
  event (State.referenceRead v) s

/-- READING_LIMIT_EXPIRY. -/
def execReadingLimitExpiry (s : State) : Host.Outcome State Fault Refusal := event State.readingExpires s

end Sys2Proof.Machine
end

