-- ==== Sys2Proof/Machine/PocketJams.lean ====
section
/-!
DEFINITION. The pocket jam sensors (R139): the meanings of POCKET_JAM and POCKET_JAM_CLEARED. The level of a sensor is a pin and
follows the mechanism also in a part that takes no event (log 10).
-/
namespace Sys2Proof.Machine

/-- A pocket's jam sensor shows a level. -/
def State.jamLine (p : PocketId) (b : Bool) (s : State) : State :=
  s.onPart fun k => { k with jamLines := k.jamLines.set b p }

/-- A jam sensor is active: a fault at its passage from clear (R139). -/
def State.pocketJams (p : PocketId) (s : State) : State :=
  let t := s.jamLine p true
  if s.running = true ∧ s.part.jamLines.get p = false then t.takeFault .pocketJam else t

/-- POCKET_JAM. -/
def execPocketJam (p : PocketId) (s : State) : Host.Outcome State Fault Refusal := .next (s.pocketJams p)

/-- POCKET_JAM_CLEARED. -/
def execPocketJamCleared (p : PocketId) (s : State) : Host.Outcome State Fault Refusal := .next (s.jamLine p false)

end Sys2Proof.Machine
end

