-- ==== Sys2Proof/Machine/Dispatch.lean ====
section
/-!
DEFINITION. One arm per command, each a direct call of its meaning.
-/
namespace Sys2Proof.Machine

def exec (i : Instr) (s : State) : Host.Outcome State Fault Refusal :=
  match i with
  | .powerReset straps => Sys2Proof.Machine.execPowerReset straps s
  | .resetPinActive cutsWrite => Sys2Proof.Machine.execResetPinActive cutsWrite s
  | .resetPinReleased straps => Sys2Proof.Machine.execResetPinReleased straps s
  | .imageReadComplete bytes occupied cartridge => Sys2Proof.Machine.execImageReadComplete bytes occupied cartridge s
  | .imageReadTimeout => Sys2Proof.Machine.execImageReadTimeout s
  | .contention moment => Sys2Proof.Machine.execContention moment s
  | .spoiledFrame spoiled => Sys2Proof.Machine.execSpoiledFrame spoiled s
  | .malformedFrame frame => Sys2Proof.Machine.execMalformedFrame frame s
  | .offer sender body => Sys2Proof.Machine.execOffer sender body s
  | .bid arrival => Sys2Proof.Machine.execBid arrival s
  | .close sender id => Sys2Proof.Machine.execClose sender id s
  | .withdraw sender id => Sys2Proof.Machine.execWithdraw sender id s
  | .delivered arrival => Sys2Proof.Machine.execDelivered arrival s
  | .aside arrival => Sys2Proof.Machine.execAside arrival s
  | .halt sender cause => Sys2Proof.Machine.execHalt sender cause s
  | .haltEcho => Sys2Proof.Machine.execHaltEcho s
  | .join sender body => Sys2Proof.Machine.execJoin sender body s
  | .joinEcho => Sys2Proof.Machine.execJoinEcho s
  | .hold sender time => Sys2Proof.Machine.execHold sender time s
  | .holdEcho => Sys2Proof.Machine.execHoldEcho s
  | .renewalTimerExpiry => Sys2Proof.Machine.execRenewalTimerExpiry s
  | .askSummary header => Sys2Proof.Machine.execAskSummary header s
  | .askPack header id => Sys2Proof.Machine.execAskPack header id s
  | .askPocket header selector => Sys2Proof.Machine.execAskPocket header selector s
  | .askBin header selector => Sys2Proof.Machine.execAskBin header selector s
  | .askHead header => Sys2Proof.Machine.execAskHead header s
  | .askCounters header => Sys2Proof.Machine.execAskCounters header s
  | .reportEcho => Sys2Proof.Machine.execReportEcho s
  | .answerEcho => Sys2Proof.Machine.execAnswerEcho s
  | .orderStandby header => Sys2Proof.Machine.execOrderStandby header s
  | .orderResume header readings => Sys2Proof.Machine.execOrderResume header readings s
  | .orderSelfTest header => Sys2Proof.Machine.execOrderSelfTest header s
  | .orderClearCounters header => Sys2Proof.Machine.execOrderClearCounters header s
  | .orderReboot header straps cutsWrite => Sys2Proof.Machine.execOrderReboot header straps cutsWrite s
  | .serviceButton readings => Sys2Proof.Machine.execServiceButton readings s
  | .sheetAtGate mark => Sys2Proof.Machine.execSheetAtGate mark s
  | .gapTimerExpiry pocket => Sys2Proof.Machine.execGapTimerExpiry pocket s
  | .firstSheetTimerExpiry pocket => Sys2Proof.Machine.execFirstSheetTimerExpiry pocket s
  | .strokeComplete reading => Sys2Proof.Machine.execStrokeComplete reading s
  | .strokeLimitExpiry => Sys2Proof.Machine.execStrokeLimitExpiry s
  | .noStaple => Sys2Proof.Machine.execNoStaple s
  | .headJam => Sys2Proof.Machine.execHeadJam s
  | .ejectComplete occupied => Sys2Proof.Machine.execEjectComplete occupied s
  | .ejectLimitExpiry => Sys2Proof.Machine.execEjectLimitExpiry s
  | .carriageJam => Sys2Proof.Machine.execCarriageJam s
  | .dropConfirmed => Sys2Proof.Machine.execDropConfirmed s
  | .dropLimitExpiry => Sys2Proof.Machine.execDropLimitExpiry s
  | .trayDropConfirmed occupied => Sys2Proof.Machine.execTrayDropConfirmed occupied s
  | .trayDropLimitExpiry => Sys2Proof.Machine.execTrayDropLimitExpiry s
  | .referenceReading reading => Sys2Proof.Machine.execReferenceReading reading s
  | .readingLimitExpiry => Sys2Proof.Machine.execReadingLimitExpiry s
  | .cartridgeInserted => Sys2Proof.Machine.execCartridgeInserted s
  | .binEmptied bin => Sys2Proof.Machine.execBinEmptied bin s
  | .trayEmptied => Sys2Proof.Machine.execTrayEmptied s
  | .pocketJam pocket => Sys2Proof.Machine.execPocketJam pocket s
  | .lossOfPower cutsWrite => Sys2Proof.Machine.execLossOfPower cutsWrite s
  | .frameForAnotherMember frame => Sys2Proof.Machine.execFrameForAnotherMember frame s
  | .pocketJamCleared pocket => Sys2Proof.Machine.execPocketJamCleared pocket s

end Sys2Proof.Machine
end

