-- ==== Sys2Proof/Machine/Drives.lean ====
section
/-!
DEFINITION. The output pins as functions of State (00_scope.md, Pin groups; R60, R92, R98 to R100, R117, R165). A stopped head
drives nothing (R102), and a part in reset or without power drives nothing at all (R183).
-/
namespace Sys2Proof.Machine

/-- The drive outputs of the part. -/
structure Drives where
  /-- an attempt of an own frame is in progress on the link pair -/
  sending : Bool
  /-- the divert actuator selected -/
  divert : Option PocketId
  /-- the stroke drive, by staple position -/
  stroke : Option Nat
  eject : Bool
  /-- the bin selected on the carriage -/
  carriageTarget : Option Nat
  chute : Bool
  /-- the reference load selected -/
  reference : Option TestLevel
  deriving DecidableEq, Repr

/-- Nothing driven. -/
def Drives.none : Drives :=
  { sending := false, divert := Option.none, stroke := Option.none, eject := false, carriageTarget := Option.none,
    chute := false, reference := Option.none }

/-- The drives of an operation in its phase. -/
def State.operationDrives (s : State) (op : Operation) (d : Drives) : Drives :=
  match op.phase with
  | .stroke position _ => { d with stroke := some position }
  | .eject => { d with eject := true, carriageTarget := s.targetBin op.pocket }
  | .drop => { d with carriageTarget := s.targetBin op.pocket }
  | .trayDrop => { d with chute := true }

/-- The drive outputs as State gives them; the divert actuator is driven as long as its selection stands (log 32). -/
def State.drives (s : State) : Drives :=
  if s.running then
    let d := { Drives.none with sending := s.attempt.isSome, divert := s.part.divert }
    match s.head.state with
    | .idle => d
    | .busy op => s.operationDrives op d
    | .testing level _ => { d with reference := some level }
    | .stopped => d
  else Drives.none

end Sys2Proof.Machine
end

