-- ==== Sys2Proof/Machine/Step.lean ====
section
/-!
DEFINITION. One step: the command at the front of the queue, executed on the state with the queue's rest; on an empty queue
half a second passes (log 3).
-/
namespace Sys2Proof.Machine

/-- The state with a queue of waiting commands. -/
def State.withPending (cs : List Instr) (s : State) : State := { s with pending := cs }

/-- One step. -/
def step (s : State) : Host.Outcome State Fault Refusal :=
  match s.pending with
  | [] => .next s.tick
  | c :: rest => exec c (s.withPending rest)

/-- The state with the command that a word spells at the front of its queue. No row of the table has bits, so no word spells
one. -/
def State.withFetchWord (s : State) (nbits w : Nat) : State :=
  match decodeTableWord nbits w with
  | none => s
  | some c => s.withPending (c :: s.pending)

end Sys2Proof.Machine
end

