-- ==== Sys2Proof/Safety.lean ====
section
/-!
DEFINITION. What a run is, the conditions that the rules promise of every state of a run (a sound pack table, R3, R5; an ordered
transmit queue, R141, R165, R168, R172; rosters that agree with the fills, R128; an exception tray within its capacity, R134; a
finish queue that holds exactly the WAITING pockets, R84), and what several statements say of a step: frames queued and removed,
report contents, bids, holds, appends, faults and orders.
-/
namespace Sys2Proof.Machine

open Sys2Proof.Config

/-- Every step keeps `P`. -/
def Kept (P : State → Prop) : Prop := ∀ s t : State, P s → step s = .next t → P t

/-- The states of runs: from reset, the outside queues commands and the machine steps. -/
inductive Reachable : State → Prop where
  | reset : Reachable State.reset
  | queued (c : Instr) {s : State} : Reachable s → Reachable (s.withPending (s.pending ++ [c]))
  | stepped {s t : State} : Reachable s → step s = .next t → Reachable t

/-- Every block but the Station Controller stands at its reset values (R183). -/
def BlocksAtReset (s : State) : Prop :=
  s.config = none ∧ s.link = State.reset.link ∧ s.packs = State.reset.packs ∧ s.pockets = State.reset.pockets ∧
    s.head = State.reset.head ∧ s.rack = State.reset.rack

/-- The row of the command table that spells an ASK (R164, R175). -/
def askRow (h : ConsoleHeader) : Ask → Instr
  | .summary => .askSummary h
  | .pack id => .askPack h id
  | .pocket n => .askPocket h n
  | .bin n => .askBin h n
  | .head => .askHead h
  | .counters => .askCounters h

/-- An ASK or ORDER that the console sends to this station, which is heard: power, a released reset pin, a valid address
(R162, R164, R174). -/
def Addressed (h : ConsoleHeader) (s : State) : Prop :=
  s.unitActive = true ∧ h.sender = 30 ∧ h.target.toNat = s.address

/-- A frame that another station sends and this station hears (R162, R164, R173). -/
def FromStation (sender : LinkAddress) (s : State) : Prop :=
  s.unitActive = true ∧ 1 ≤ sender.toNat ∧ sender.toNat ≤ 8 ∧ sender.toNat ≠ s.address

/-- A frame that a feed node sends and this station hears (R162, R164). -/
def FromFeed (sender : LinkAddress) (s : State) : Prop :=
  s.unitActive = true ∧ 16 ≤ sender.toNat ∧ sender.toNat ≤ 19

/-- The frame that this station's own echo delivers, at a station that hears it (R167); with no attempt recorded, the head of the queue
(log 6). -/
def Echoes (e : TxEntry) (s : State) : Prop := s.unitActive = true ∧ s.sending = some e

/-- The gate, the pockets, the head, the rack, the retained store, the configuration and the pins are unchanged. -/
def MechanismUnchanged (s t : State) : Prop :=
  t.pockets = s.pockets ∧ t.head = s.head ∧ t.rack = s.rack ∧ t.store = s.store ∧ t.config = s.config ∧ t.part = s.part

/-! ### The pack table after a frame, in its order (R5) -/

/-- The entries once the one of `id` has been retired (R18). -/
def entriesRetired (id : PackId) (entries : List Entry) : List Entry :=
  entries.filter fun e => decide (e.offer.id ≠ id)

/-- The entries once a bid record has been appended to the list of `id` (R9). -/
def entriesWithBid (id : PackId) (r : BidRecord) (entries : List Entry) : List Entry :=
  entries.map fun e =>
    if e.offer.id = id then
      match e.state with
      | .bidding bids => { e with state := .bidding (bids ++ [r]) }
      | .placed _ _ => e
    else e

/-- The entries once the one of `id` has been PLACED (R10). -/
def entriesPlaced (id : PackId) (owner : Nat) (annex : Option Annex) (entries : List Entry) : List Entry :=
  entries.map fun e => if e.offer.id = id then { e with state := .placed owner annex } else e

/-- The entries once the annex of `id` has become ENDING (R4, R13). -/
def entriesEnding (id : PackId) (entries : List Entry) : List Entry :=
  entries.map fun e =>
    if e.offer.id = id then
      match e.state with
      | .placed o (some a) => { e with state := .placed o (some { a with stage := .ending }) }
      | _ => e
    else e

/-! ### What does not change -/

/-- Pockets other than `p` are unchanged. -/
def OtherPocketsUnchanged (p : PocketId) (s t : State) : Prop := ∀ q, q ≠ p → t.pockets.get q = s.pockets.get q

/-- The pockets that are not `own`, and their queue entries, stand as they did but for reasons and pass-overs, and but that one
WAITING pocket of them may have been granted the head in the same step (R77, R87, R90, R91). -/
def OthersServed (own : PocketId → Prop) (s t : State) : Prop :=
  (∀ q, ¬ own q →
    t.pockets.get q = s.pockets.get q ∨
      ∃ j, (s.pockets.get q).state = .waiting j ∧ t.pockets.get q = { s.pockets.get q with state := .atHead j } ∧
        ∃ op, t.head.state = .busy op ∧ op.pocket = q ∧ op.job = j) ∧
    (∀ y ∈ s.head.queue, ¬ own y.pocket →
      (∃ x ∈ t.head.queue, x = { y with passOvers := x.passOvers, blocked := x.blocked }) ∨
        ∃ op, t.head.state = .busy op ∧ op.pocket = y.pocket ∧ op.job = y.job ∧ op.lane = y.lane ∧ op.stamp = y.stamp) ∧
    ∀ x ∈ t.head.queue, own x.pocket ∨ ∃ y ∈ s.head.queue, x = { y with passOvers := x.passOvers, blocked := x.blocked }

/-- Where there is a configuration, the retained store has been written with the values as they stand (R107, R128, R188). -/
def StoreWritten (s t : State) : Prop :=
  (s.config = none → t.store = s.store) ∧
    ∀ c, s.config = some c →
      t.store =
        { rackSize := c.rackSize, binPackCapacity := c.binPackCapacity, binSheetCapacity := c.binSheetCapacity,
          trayCapacity := c.trayCapacity, bins := t.rack.bins.map Bin.retained, tray := t.rack.tray,
          remaining := t.head.staples.remaining, checkMatches := true }

/-- The pack table holds at most 64 entries with distinct pack ids, and no bid list holds two records of a station
(R3, R5). -/
def TableSound (s : State) : Prop :=
  s.packs.entries.length ≤ 64 ∧ (s.packs.entries.map fun e => e.offer.id).Nodup ∧
    ∀ e ∈ s.packs.entries, ∀ bids, e.state = .bidding bids → (bids.map BidRecord.station).Nodup

/-- `x` goes ahead of `y` in the transmit queue: lower precedence first, earlier entry first (R168). -/
def SentBefore (x y : TxEntry) : Prop :=
  x.frame.precedence < y.frame.precedence ∨ x.frame.precedence = y.frame.precedence ∧ x.number < y.number

/-- The transmit queue is ordered (R168), at most one attempt is in progress (R165), only a BID waits to be removed and only a
REPORT to be replaced, each for the end of its attempt (R169), a HALT is queued exactly in HALTING, once (R141, R168), and in
SAFE the queue is empty (R172). -/
def TransmitSound (s : State) : Prop :=
  s.link.queue.Pairwise SentBefore ∧ (s.link.queue.map TxEntry.number).Nodup ∧
    (∀ e ∈ s.link.queue, e.number < s.link.nextNumber) ∧ s.link.queue.countP TxEntry.attempting ≤ 1 ∧
    (∀ e ∈ s.link.queue, (e.mark ≠ .none → e.attempting = true) ∧ (e.mark = .remove → e.frame.isKind .bid = true) ∧
      (e.mark = .replace → e.frame.isKind .report = true)) ∧
    s.link.queue.countP (fun e => e.frame.isKind .halt) = (if s.ctl.station = .halting then 1 else 0) ∧
    (s.ctl.station = .safe → s.link.queue = [])

/-- In every bin record, and in the retained one, the roster length equals the fill packs; the tables have one record per bin
(R128, R136). -/
def RostersMatch (s : State) : Prop :=
  (∀ b ∈ s.rack.bins, b.roster.length = b.fillPacks) ∧ (∀ b ∈ s.store.bins, b.roster.length = b.fillPacks) ∧
    s.store.bins.length = s.store.rackSize ∧ s.rack.bins.length = (s.config.map StationConfig.rackSize).getD 0

/-- A station without a configuration is in LOADING, CONFIG_FAULT or SAFE with no pack work begun; one with a configuration has
left LOADING (R184, R187). -/
def ConfiguredOrIdle (s : State) : Prop :=
  (s.config = none →
    s.head.queue = [] ∧ s.packs.bids = [] ∧ (∀ op, s.head.state ≠ .busy op) ∧
      (s.ctl.station = .loading ∨ s.ctl.station = .configFault ∨ s.ctl.station = .safe)) ∧
    (s.config ≠ none → s.ctl.station ≠ .loading ∧ s.ctl.station ≠ .configFault)

/-- The exception tray count never exceeds the capacity; a tray drop has room, and so has a ready entry that would start one
(R86, R100, R134). -/
def TrayWithin (s : State) : Prop :=
  TransmitSound s ∧ ConfiguredOrIdle s ∧
    ∀ c, s.config = some c →
      s.rack.tray ≤ c.trayCapacity ∧
        (∀ op, s.head.state = .busy op → op.phase = .trayDrop → s.rack.tray < c.trayCapacity) ∧
        (s.ctl.station.freezes = false →
          ∀ e ∈ s.head.queue, e.job ≠ .finish → e.blocked = none → s.rack.tray < c.trayCapacity)

/-- A stopped station has a STOPPED head (R103, R141, R146, R150, R187). -/
def StoppedStation (s : State) : Prop :=
  s.ctl.station = .halting ∨ s.ctl.station = .halted ∨ s.ctl.station = .safe ∨ s.ctl.station = .configFault →
    s.head.state = .stopped

/-- The finish queue holds exactly the WAITING pockets, each once, with their jobs (R84). -/
def QueueHoldsWaiting (s : State) : Prop :=
  (s.head.queue.map QueueEntry.pocket).Nodup ∧
    (∀ e ∈ s.head.queue, (s.pockets.get e.pocket).state = .waiting e.job) ∧
    ∀ p j, (s.pockets.get p).state = .waiting j → ∃ e ∈ s.head.queue, e.pocket = p

/-- The queue stands in arrival-stamp order, within the arrival count, with pass-over counts up to 8 (R84). -/
def QueueInOrder (s : State) : Prop :=
  s.head.queue.Pairwise (fun x y => x.stamp < y.stamp) ∧
    ∀ e ∈ s.head.queue, e.stamp ≤ s.head.arrivals ∧ e.passOvers ≤ 8

/-- A BUSY head works its AT_HEAD pocket, with a stamp that no queued entry carries (R83, R89). -/
def HeadOnItsPocket (s : State) : Prop :=
  ∀ op, s.head.state = .busy op →
    (s.pockets.get op.pocket).state = .atHead op.job ∧ op.stamp ≤ s.head.arrivals ∧ op.passOvers ≤ 8 ∧
      ∀ e ∈ s.head.queue, e.stamp ≠ op.stamp

/-- The pending bids claim distinct FREE pockets, one bid per pack (R25, R30). -/
def ClaimsFreePockets (s : State) : Prop :=
  (∀ b ∈ s.packs.bids, (s.pockets.get b.pocket).state = .free) ∧ (s.packs.bids.map PendingBid.pocket).Nodup ∧
    (s.packs.bids.map PendingBid.id).Nodup

/-- An IDLE head leaves no self-test waiting and, in a state in which selections are made, no ready entry (R90, R116). -/
def IdleHeadServed (s : State) : Prop :=
  s.head.state = .idle →
    s.head.testWaiting = false ∧
      (s.ctl.station = .loading ∨ s.ctl.station = .joining ∨ s.ctl.station = .run ∨ s.ctl.station = .drain ∨
          s.ctl.station = .standby →
        ∀ e ∈ s.head.queue, e.blocked ≠ none)

/-- The work of the pockets, the queue and the head agrees (R25, R30, R83, R84, R90). -/
def WorkAgrees (s : State) : Prop :=
  TransmitSound s ∧ ConfiguredOrIdle s ∧ StoppedStation s ∧ (s.ctl.station = .halted → s.head.queue = []) ∧
    QueueHoldsWaiting s ∧ QueueInOrder s ∧ HeadOnItsPocket s ∧ ClaimsFreePockets s ∧ IdleHeadServed s

/-- The head has become IDLE and has been served: a waiting self-test goes ahead of selection, and an IDLE head leaves no ready entry
(R90, R116). -/
def HeadFreed (s t : State) : Prop :=
  t.head.state ≠ .stopped ∧
    (s.head.testWaiting = true → t.head.state = .testing .light 2 ∧ t.head.testWaiting = false) ∧
    (s.head.testWaiting = false → t.testing = false) ∧ IdleHeadServed t

/-! ### Frames as they are received (R163, R166, R174) -/

/-- The places of a value as they are sent, the most significant first (R163). -/
def sentPlaces (width : Nat) (x : BitVec width) : List Bool := (List.range width).map fun i => x.getLsbD (width - 1 - i)

/-- The remainder of x^16 + x^12 + x^5 + 1 over places in the order sent, the register starting at all ones (R163). -/
def remainderOver (places : List Bool) : BitVec 16 :=
  places.foldl (fun r place => if r.msb = place then r <<< 1 else (r <<< 1) ^^^ 0x1021#16) 0xFFFF#16

/-- The check of a received frame, over its fields 1 to 6 (R163). -/
def checkOver (r : Reception) : BitVec 16 :=
  remainderOver
    (sentPlaces 4 r.frame.precedence ++ sentPlaces 5 r.frame.sender ++ sentPlaces 4 r.frame.kind ++
        sentPlaces 5 r.frame.target ++ sentPlaces 7 r.length ++ r.frame.body.flatMap (sentPlaces 8))

/-- A raw frame spells an event of another row (R164, R175, R176, R179). The sensor levels of a RESUME and the straps of a REBOOT are
those the part last read (log 9). -/
def Spells (f : Frame) (c : Instr) (s : State) : Prop :=
  match f.kind.toNat with
  | 1 =>
    ∃ feed hi lo cls roll count finish lane, f.body = [feed, hi, lo, cls, roll, count, finish, lane] ∧
      c =
        .offer f.sender
          { id := { feed := feed, serial := hi ++ lo }, classCode := cls, roll := roll, count := count, finish := finish,
            lane := lane }
  | 2 =>
    ∃ feed hi lo fit load, f.body = [feed, hi, lo, fit, load] ∧
      c = .bid (.other f.sender { id := { feed := feed, serial := hi ++ lo }, fit := fit, load := load })
  | 3 => ∃ feed hi lo, f.body = [feed, hi, lo] ∧ c = .close f.sender { feed := feed, serial := hi ++ lo }
  | 4 => ∃ feed hi lo, f.body = [feed, hi, lo] ∧ c = .withdraw f.sender { feed := feed, serial := hi ++ lo }
  | 5 =>
    ∃ feed hi lo bin flags, f.body = [feed, hi, lo, bin, flags] ∧
      c = .delivered (.other f.sender { id := { feed := feed, serial := hi ++ lo }, bin := bin, flags := flags })
  | 6 =>
    ∃ feed hi lo reason, f.body = [feed, hi, lo, reason] ∧
      c = .aside (.other f.sender { id := { feed := feed, serial := hi ++ lo }, reason := reason })
  | 7 => ∃ cause, f.body = [cause] ∧ c = .halt f.sender cause
  | 8 =>
    ∃ cause capabilities outcome capacity, f.body = [cause, capabilities, outcome, capacity] ∧
      c =
        .join f.sender { resetCause := cause, capabilities := capabilities, outcome := outcome, capacity := capacity }
  | 9 => ∃ time, f.body = [time] ∧ c = .hold f.sender time
  | 10 =>
    (f.body = [1] ∧ c = .askSummary { sender := f.sender, target := f.target }) ∨
      (∃ feed hi lo, f.body = [2, feed, hi, lo] ∧
        c = .askPack { sender := f.sender, target := f.target } { feed := feed, serial := hi ++ lo }) ∨
      (∃ n, f.body = [3, n] ∧ c = .askPocket { sender := f.sender, target := f.target } n) ∨
      (∃ n, f.body = [4, n] ∧ c = .askBin { sender := f.sender, target := f.target } n) ∨
      (f.body = [5] ∧ c = .askHead { sender := f.sender, target := f.target }) ∨
      (f.body = [6] ∧ c = .askCounters { sender := f.sender, target := f.target })
  | 11 =>
    (f.body = [1] ∧ c = .orderStandby { sender := f.sender, target := f.target }) ∨
      (f.body = [2] ∧
        c =
          .orderResume { sender := f.sender, target := f.target }
            { headJam := s.part.headJamSense, carriageJam := s.part.carriageJamSense, occupied := s.part.occupied }) ∨
      (f.body = [3] ∧ c = .orderSelfTest { sender := f.sender, target := f.target }) ∨
      (f.body = [4] ∧ c = .orderClearCounters { sender := f.sender, target := f.target }) ∨
      (f.body = [5] ∧ ∃ st, s.part.straps = some st ∧ c = .orderReboot { sender := f.sender, target := f.target } st false)
  | _ => False

/-! ### The configuration image (R185, R186) -/

/-- The least number with a property. -/
def FirstOf (P : Nat → Prop) (n : Nat) : Prop := P n ∧ ∀ m, m < n → ¬ P m

/-- A verdict byte that fails: a place from 6 to 4 set, an ACCEPT fit of 0, or a REFUSE with fit places set (R185, R186). -/
def VerdictFails (b : Nat) : Prop := b / 16 % 8 ≠ 0 ∨ (128 ≤ b ∧ b % 16 = 0) ∨ (b < 128 ∧ b % 16 ≠ 0)

/-- The value at an offset from 0 to 20 lies outside its range (R185); a two-byte value is named by its first byte (log 16). -/
def HeaderFails (i : List Byte) (o : Nat) : Prop :=
  o = 0 ∧ 8 ≤ byteAt i 0 ∨
    o = 1 ∧ ¬ (10 ≤ byteAt i 1 ∧ byteAt i 1 ≤ 120) ∨
    o = 2 ∧ ¬ (8 ≤ byteAt i 2 ∧ byteAt i 2 ≤ 48) ∨
    o = 3 ∧ ¬ (4 ≤ byteAt i 3 ∧ byteAt i 3 ≤ 24) ∨
    o = 4 ∧ ¬ (40 ≤ wordAt i 4 ∧ wordAt i 4 ≤ 400) ∨
    o = 6 ∧ ¬ (10 ≤ byteAt i 6 ∧ byteAt i 6 ≤ 60) ∨
    o = 7 ∧ ¬ (100 ≤ wordAt i 7 ∧ wordAt i 7 ≤ 5000) ∨
    o = 9 ∧ ¬ (100 ≤ wordAt i 9 ∧ wordAt i 9 ≤ 700) ∨
    o = 11 ∧ ¬ (700 ≤ wordAt i 11 ∧ wordAt i 11 ≤ 1023) ∨
    o = 13 ∧ ¬ (1 ≤ byteAt i 13 ∧ byteAt i 13 ≤ 60) ∨
    o = 14 ∧ ¬ (10 ≤ wordAt i 14 ∧ wordAt i 14 ≤ 600) ∨
    o = 16 ∧ ¬ (2 ≤ byteAt i 16 ∧ byteAt i 16 ≤ 15) ∨
    o = 17 ∧ ¬ (1 ≤ byteAt i 17 ∧ byteAt i 17 ≤ 30) ∨
    o = 18 ∧ ¬ (2 ≤ byteAt i 18 ∧ byteAt i 18 ≤ 4) ∨
    o = 19 ∧ VerdictFails (byteAt i 19) ∨
    o = 20 ∧ 16 < byteAt i 20

/-- A part of an active intake rule entry fails: its kind or field, or at the end of a chain its verdict (R186). The entries from
offset `start` on are `n`; the end of a chain is a clear join flag (log 17). -/
def RuleFails (i : List Byte) (start n o : Nat) : Prop :=
  ∃ k, k < n ∧ (∀ j, j ≤ k → byteAt i (start + 3 * j) / 64 ≠ 0) ∧
    (o = start + 3 * k ∧ (byteAt i o / 64 = 3 ∨ byteAt i o / 64 = 1 ∧ 6 ≤ byteAt i o / 8 % 8) ∨
      o = start + 3 * k + 2 ∧ byteAt i (start + 3 * k) % 2 = 0 ∧ VerdictFails (byteAt i o))

/-- A part that the mode of a delivery map entry uses fails (R186); places 5 to 3 of the first byte are zero (log 17). The entries
from offset `start` on are `n`. -/
def MapFails (i : List Byte) (start n o : Nat) : Prop :=
  ∃ k, k < n ∧ byteAt i (start + 5 * k) / 64 ≠ 0 ∧
    (o = start + 5 * k ∧
        (byteAt i o / 8 % 8 ≠ 0 ∨ byteAt i o / 64 = 3 ∧ ¬ (1 ≤ byteAt i o % 8 ∧ byteAt i o % 8 ≤ 5)) ∨
      o = start + 5 * k + 1 ∧ ¬ (1 ≤ byteAt i o ∧ byteAt i o ≤ 250) ∨
      o = start + 5 * k + 2 ∧ ¬ (1 ≤ byteAt i o ∧ byteAt i o ≤ 60) ∨ o = start + 5 * k + 3 ∧ byteAt i o = 0)

/-- The byte at an offset fails code 4 (R186). -/
def ByteFails (i : List Byte) (o : Nat) : Prop :=
  HeaderFails i o ∨ RuleFails i 21 24 o ∨ MapFails i 93 (byteAt i 20) o

/-- The intake rule entries before the first EMPTY are `n` (R47). -/
def ActiveRules (i : List Byte) (n : Nat) : Prop :=
  n ≤ 24 ∧ (∀ k, k < n → byteAt i (21 + 3 * k) / 64 ≠ 0) ∧ (n = 24 ∨ byteAt i (21 + 3 * n) / 64 = 0)

/-- A check of R186 fails with an offending item. -/
def CheckFails (address : Nat) (i : List Byte) (code : FaultCode) (item : Option Nat) : Prop :=
  match code with
  | .badAddress => ¬ (1 ≤ address ∧ address ≤ 8) ∧ item = some address
  | .readFailed => i.length < 175 ∧ item = some i.length
  | .badCheck => (remainderOver ((i.take 173).flatMap (sentPlaces 8))).toNat ≠ wordAt i 173 ∧ item = none
  | .outOfRange => ∃ o, FirstOf (ByteFails i) o ∧ item = some o
  | .sheetCapacity => wordAt i 4 < byteAt i 1 ∧ item = none
  | .mapBin =>
    ∃ k,
      FirstOf
          (fun k =>
            k < byteAt i 20 ∧ byteAt i (93 + 5 * k) / 64 ≠ 0 ∧
              (byteAt i 2 < byteAt i (96 + 5 * k) ∨ byteAt i 2 < byteAt i (97 + 5 * k)))
          k ∧
        item = some (k + 1)
  | .mapSameBin =>
    ∃ k,
      FirstOf
          (fun k =>
            k < byteAt i 20 ∧ byteAt i (93 + 5 * k) / 64 ≠ 0 ∧ byteAt i (97 + 5 * k) ≠ 0 ∧
              byteAt i (97 + 5 * k) = byteAt i (96 + 5 * k))
          k ∧
        item = some (k + 1)
  | .chainOpen => ∃ n, ActiveRules i (n + 1) ∧ byteAt i (21 + 3 * n) % 2 = 1 ∧ item = some (n + 1)
  | .chainMaskEnd =>
    ∃ n k, ActiveRules i n ∧
      FirstOf (fun k => k < n ∧ byteAt i (21 + 3 * k) / 64 = 2 ∧ byteAt i (21 + 3 * k) % 2 = 0) k ∧ item = some (k + 1)

/-- The verdict that a byte encodes (R185). -/
def VerdictOf (b : Nat) (v : Verdict) : Prop := (128 ≤ b → v = .accept (b % 16)) ∧ (b < 128 → v = .refuse)

/-- The intake rule entry at an offset (R185). -/
def RuleAt (i : List Byte) (o : Nat) (r : Rule) : Prop :=
  ∃ v, VerdictOf (byteAt i (o + 2)) v ∧
    if byteAt i o / 64 = 1 then
      ∃ field relation, (byteAt i o / 8 % 8, field) ∈
          [(0, RuleField.classCode), (1, .roll), (2, .count), (3, .finish), (4, .lane), (5, .feed)] ∧
        (byteAt i o / 2 % 4, relation) ∈ [(0, Relation.eq), (1, .ne), (2, .ge), (3, .lt)] ∧
        r = .compare field relation (i.getD (o + 1) 0) (decide (byteAt i o % 2 = 1)) v
    else r = .setMask (i.getD (o + 1) 0) (decide (byteAt i o % 2 = 1)) v

/-- The delivery map entry at an offset (R185). -/
def MapEntryAt (i : List Byte) (o : Nat) (e : MapEntry) : Prop :=
  (byteAt i o / 64, e.mode) ∈ [(0, MapMode.off), (1, .single), (2, .upto), (3, .block)] ∧
    e =
      { mode := e.mode, classCode := byteAt i (o + 1), rollBound := byteAt i (o + 2), exponent := byteAt i o % 8,
        primary := byteAt i (o + 3), overflow := if byteAt i (o + 4) = 0 then none else some (byteAt i (o + 4)) }

/-- The values of a configuration are those of an image (R185). -/
def ImageGives (i : List Byte) (c : StationConfig) : Prop :=
  c =
      { stapler := (byteAt i 0).testBit 0, edge := (byteAt i 0).testBit 1, openPacks := (byteAt i 0).testBit 2,
        pocketCapacity := byteAt i 1, rackSize := byteAt i 2, binPackCapacity := byteAt i 3,
        binSheetCapacity := wordAt i 4, trayCapacity := byteAt i 6, cartridgeSize := wordAt i 7,
        lowThreshold := wordAt i 9, overdriveThreshold := wordAt i 11, gapLimit := byteAt i 13,
        firstSheetLimit := wordAt i 14, dropLimit := byteAt i 16, holdTime := byteAt i 17,
        holdThreshold := byteAt i 18, defaultVerdict := c.defaultVerdict, rules := c.rules, map := c.map } ∧
    VerdictOf (byteAt i 19) c.defaultVerdict ∧ ActiveRules i c.rules.length ∧
    (∀ k r, c.rules[k]? = some r → RuleAt i (21 + 3 * k) r) ∧ c.map.length = byteAt i 20 ∧
    ∀ k e, c.map[k]? = some e → MapEntryAt i (93 + 5 * k) e

/-! ### The transmit queue -/

/-- A frame has been appended: it stands in the queue with the next append number, beside the frames of before that satisfy
`kept` (R168, R169). -/
def FrameQueued (f : TxFrame) (kept : TxEntry → Prop) (l m : BayLink) : Prop :=
  m = { l with queue := m.queue, nextNumber := l.nextNumber + 1 } ∧
    ∀ x, x ∈ m.queue ↔
      x = { number := l.nextNumber, frame := f, attempting := false, mark := .none } ∨ x ∈ l.queue ∧ kept x

/-- An end message is requested for a pack, with the link standing at `l` (R13): queued, and the annex made ENDING, where this
station owns the pack with a LIVE annex; discarded otherwise. -/
def EndRequested (id : PackId) (f : TxFrame) (l : BayLink) (s t : State) : Prop :=
  (∀ e a, s.entry id = some e → e.state = .placed s.address (some a) → a.stage = .live →
    FrameQueued f (fun _ => True) l t.link ∧
      t.packs = { s.packs with entries := entriesEnding id s.packs.entries } ∧
      t.entry id = some { e with state := .placed s.address (some { a with stage := .ending }) }) ∧
    ((∀ e a, s.entry id = some e → e.state = .placed s.address (some a) → a.stage = .ending) →
      t.link = l ∧ t.packs = s.packs)

/-- The removal of the BID of every QUEUED pending bid has been requested (R34, R41, R42), from the pending bids `bids` and the
link `l` to `after` and `m`. The SENT pending bids are kept, in their order, and so are the frames of other kinds and packs. With no
attempt in progress no QUEUED pending bid is left; one whose BID is under attempt stays with that BID marked. A BID that was the
only one of its pack has left the queue or is marked. -/
def UnsentWithdrawn (bids : List PendingBid) (l : BayLink) (after : List PendingBid) (m : BayLink) : Prop :=
  m = { l with queue := m.queue } ∧ after.Sublist bids ∧
    ((bids.map PendingBid.id).Nodup → ∀ b ∈ bids, b.stage = .sent → b ∈ after) ∧
    ((∀ x ∈ l.queue, x.attempting = false) → ∀ b ∈ after, b.stage = .sent) ∧
    ((l.queue.map TxEntry.number).Nodup →
      (∀ b ∈ after,
        b.stage = .sent ∨
          ∃ x ∈ m.queue, (∃ fit load, x.frame = .bid b.id fit load) ∧ x.attempting = true ∧ x.mark = .remove) ∧
        (∀ x ∈ m.queue, x ∈ l.queue ∨ ∃ y ∈ l.queue, y.attempting = true ∧ x = { y with mark := .remove }) ∧
        (∀ x ∈ l.queue, (∀ b ∈ bids, b.stage = .queued → ∀ fit load, x.frame ≠ .bid b.id fit load) → x ∈ m.queue) ∧
        ∀ b ∈ bids, b.stage = .queued →
          (∀ x ∈ l.queue, ∀ y ∈ l.queue, (∃ fit load, x.frame = .bid b.id fit load) →
            (∃ fit load, y.frame = .bid b.id fit load) → x = y) →
          ∀ x ∈ m.queue, (∃ fit load, x.frame = .bid b.id fit load) → x.attempting = true ∧ x.mark = .remove)

/-- The drain is judged where `judged` holds (R190): STANDBY where no pocket is bound and no pending bid remains. Nothing else of
the Station Controller changes. -/
def DrainJudged (judged : Prop) (s t : State) : Prop :=
  t.ctl = { s.ctl with station := t.ctl.station } ∧
    (t.ctl.station = s.ctl.station ∨
      s.ctl.station = .drain ∧ t.ctl.station = .standby ∧ (∀ p, (t.pockets.get p).isBound = false) ∧ t.packs.bids = []) ∧
    (judged → s.ctl.station = .drain → (∀ p, (t.pockets.get p).isBound = false) → t.packs.bids = [] →
      t.ctl.station = .standby)

/-- The removal of the BID of a pack has been requested (R34, R169): marked, with the pending bid kept, while an attempt of it is
in progress; else out of the queue, with the pending bid released. -/
def BidRemovalRequested (id : PackId) (s t : State) : Prop :=
  match
    s.link.queue.find? fun x =>
      match x.frame with
      | .bid i _ _ => decide (i = id)
      | _ => false with
  | none => t.link = s.link ∧ t.packs.bids = s.packs.bids.filter fun b => decide (b.id ≠ id)
  | some x =>
    if x.attempting then
      t.link =
          { s.link with
            queue := s.link.queue.map fun y => if y.number = x.number then { y with mark := .remove } else y } ∧
        t.packs.bids = s.packs.bids
    else
      t.link = { s.link with queue := s.link.queue.filter fun y => decide (y.number ≠ x.number) } ∧
        t.packs.bids = s.packs.bids.filter fun b => decide (b.id ≠ id)

/-- The pending bid of a pack that this station does not get (R36, R39): a SENT one is released, of a QUEUED one the removal of its
BID is requested. -/
def BidResolved (id : PackId) (s t : State) : Prop :=
  match s.pendingBid id with
  | none => t.packs.bids = s.packs.bids ∧ t.link = s.link
  | some b =>
    match b.stage with
    | .sent => t.packs.bids = (s.packs.bids.filter fun b => decide (b.id ≠ id)) ∧ t.link = s.link
    | .queued => BidRemovalRequested id s t

/-- At the echo of `e`, this station's own HALT or JOIN, `e` and the end messages of the packs that this station owns leave the
queue (R17, R167). -/
def OwnEndsRemoved (e : TxEntry) (s : State) (l : BayLink) : Prop :=
  l = { s.link with queue := l.queue, sendRun := 0 } ∧ l.queue.Sublist s.link.queue ∧
    ∀ x, x ∈ l.queue ↔
      x ∈ s.link.queue ∧ x.number ≠ e.number ∧
        ∀ id n a, s.entry id = some n → n.state = .placed s.address a →
          (∀ bin flags, x.frame ≠ .delivered id bin flags) ∧ ∀ r, x.frame ≠ .aside id r

/-- The entries after a HALT or JOIN of a station (R15, R16): its packs retired, its bid records removed. -/
def entriesWithout (station : Nat) (entries : List Entry) : List Entry :=
  entries.filterMap fun e =>
    match e.state with
    | .placed o _ => if o = station then none else some e
    | .bidding bids => some { e with state := .bidding (bids.filter fun r => decide (r.station ≠ station)) }

/-! ### The contents of a REPORT (R177, R178) -/

/-- The SUMMARY content outside CONFIG_FAULT (R20, R82, R106, R112, R138, R161, R177). -/
def SummaryShows (s : State) (k : SummaryContent) : Prop :=
  k =
      { station := s.ctl.station, resetCause := s.ctl.resetCause, storeResult := s.ctl.storeResult,
        haltCause := s.ctl.haltCause, testing := k.testing, holdActive := s.ctl.hold.active,
        holdQueued := s.ctl.hold.queued, renewalSeconds := s.ctl.hold.timer.map fun n => (n + 1) / 2,
        holdCondition := k.holdCondition, trayFull := k.trayFull, entries := s.packs.entries.length,
        bidding := s.packs.entries.countP fun e => match e.state with | .bidding _ => true | .placed _ _ => false,
        ownPlaced :=
          s.packs.entries.countP fun e =>
            match e.state with
            | .bidding _ => false
            | .placed o _ => decide (o = s.address),
        pockets :=
          { free := PocketId.all.countP fun p => match (s.pockets.get p).state with | .free => true | _ => false,
            reserved := PocketId.all.countP fun p => match (s.pockets.get p).state with | .reserved => true | _ => false,
            filling := PocketId.all.countP fun p => match (s.pockets.get p).state with | .filling => true | _ => false,
            absorbing :=
              PocketId.all.countP fun p => match (s.pockets.get p).state with | .absorbing _ => true | _ => false,
            waiting := PocketId.all.countP fun p => match (s.pockets.get p).state with | .waiting _ => true | _ => false,
            atHead := PocketId.all.countP fun p => match (s.pockets.get p).state with | .atHead _ => true | _ => false,
            retiring :=
              PocketId.all.countP fun p => match (s.pockets.get p).state with | .retiring _ => true | _ => false,
            leftover :=
              PocketId.all.countP fun p => match (s.pockets.get p).state with | .leftover => true | _ => false },
        head :=
          match s.head.state with
          | .idle => .idle
          | .busy op => .busy { pocket := op.pocket, job := op.job, phase := op.phase }
          | .testing _ _ => .testing
          | .stopped => .stopped,
        queueLength := s.head.queue.length, queueBlocked := s.head.queue.countP fun e => !e.blocked.isNone,
        remaining := s.head.staples.remaining, committed := s.head.staples.committed,
        stapleState := s.head.staples.state, outcome := s.head.readings.outcome, rackSize := s.cfg.rackSize,
        binsFull := s.rack.bins.countP fun b => decide (b.fillPacks + b.committed = s.cfg.binPackCapacity),
        tray := s.rack.tray, trayCapacity := s.cfg.trayCapacity } ∧
    (k.testing = true ↔ s.head.testWaiting = true ∨ ∃ level limit, s.head.state = .testing level limit) ∧
    (k.holdCondition = true ↔
      ∃ c, s.config = some c ∧ (c.holdThreshold ≤ s.head.queue.length ∨ s.rack.tray = c.trayCapacity)) ∧
    (k.trayFull = true ↔ ∃ c, s.config = some c ∧ s.rack.tray = c.trayCapacity)

/-- The POCKET content (R82, R106): the record, and the queue entry of a WAITING pocket or the head phase of an AT_HEAD one. -/
def PocketShows (s : State) (p : PocketId) (k : PocketContent) : Prop :=
  k =
      { state := (s.pockets.get p).state, pack := (s.pockets.get p).bound.map Binding.pack,
        sheets := (s.pockets.get p).sheets, next := (s.pockets.get p).bound.map Binding.next, reason := k.reason,
        job := k.job,
        timer :=
          (s.pockets.get p).timer.map fun x =>
            match x with
            | .firstSheet n => .firstSheet ((n + 1) / 2)
            | .gap n => .gap ((n + 1) / 2),
        extraSeen := (s.pockets.get p).extraSeen, queue := k.queue, phase := k.phase } ∧
    (∀ r, k.reason = some r ↔
      (s.pockets.get p).state = .absorbing r ∨ (s.pockets.get p).state = .waiting (.setAside r) ∨
        (s.pockets.get p).state = .atHead (.setAside r) ∨ (s.pockets.get p).state = .retiring (.setAside r)) ∧
    (∀ j, k.job = some j ↔
      (s.pockets.get p).state = .waiting j ∨ (s.pockets.get p).state = .atHead j ∨
        (s.pockets.get p).state = .retiring j) ∧
    (∀ v, k.queue = some v ↔
      (∃ j, (s.pockets.get p).state = .waiting j) ∧
        ∃ e, (s.head.queue.find? fun e => decide (e.pocket = p)) = some e ∧
          v =
            { lane := e.lane, stamp := e.stamp, passOvers := e.passOvers, blocked := e.blocked,
              strokes :=
                e.strokes.map fun d =>
                  { done := (s.pockets.get p).driven, openStaple := d.openStaple, retried := d.retried } }) ∧
    ∀ ph, k.phase = some ph ↔
      (∃ j, (s.pockets.get p).state = .atHead j) ∧ ∃ op, s.head.state = .busy op ∧ op.pocket = p ∧ op.phase = ph

/-- The BIN content (R138) with its section of the roster (R178). -/
def BinShows (s : State) (n : Nat) (r : Bin) (k : BinContent) : Prop :=
  k =
    { fillPacks := r.fillPacks, fillSheets := r.fillSheets, committed := r.committed,
      tentative := s.packs.bids.countP fun b => decide (b.bin = n),
      sheetRoom := s.cfg.binSheetCapacity - r.fillSheets,
      hasPlace :=
        decide
          (r.fillPacks + r.committed + (s.packs.bids.countP fun b => decide (b.bin = n)) < s.cfg.binPackCapacity),
      records := (r.roster.drop (k.first - 1)).take 12,
      first :=
        match s.ctl.rosterCursor with
        | none => 1
        | some (b, position) => if b = n then position else 1,
      length := r.roster.length }

/-- The HEAD content (R112, R115). -/
def HeadShows (s : State) (k : HeadContent) : Prop :=
  k =
    { position1 := { value := s.head.readings.position1.value, updated := s.head.readings.position1.updated },
      position2 := { value := s.head.readings.position2.value, updated := s.head.readings.position2.updated },
      light := { value := s.head.readings.light.value, updated := s.head.readings.light.updated },
      medium := { value := s.head.readings.medium.value, updated := s.head.readings.medium.updated },
      firm := { value := s.head.readings.firm.value, updated := s.head.readings.firm.updated },
      outcome := s.head.readings.outcome, remaining := s.head.staples.remaining, committed := s.head.staples.committed,
      stapleState := s.head.staples.state, cartridgeSize := s.cfg.cartridgeSize }

/-- The content of the REPORT for an ask (R176 to R178); a selector that names nothing gives REPORT NONE. -/
def ReportShows (s : State) (a : Ask) (c : ReportContent) : Prop :=
  match a with
  | .summary =>
    if s.ctl.station = .configFault then c = .faulted .configFault s.ctl.resetCause s.ctl.configFault
    else ∃ k, c = .summary k ∧ SummaryShows s k
  | .pack w =>
    match readPackId w with
    | none => c = .nothing
    | some id =>
      match s.entry id with
      | none => c = .nothing
      | some e => c = .pack e
  | .pocket b =>
    (∀ p : PocketId, b.toNat = p.number → ∃ k, c = .pocket k ∧ PocketShows s p k) ∧
      (b.toNat < 1 ∨ 4 < b.toNat → c = .nothing)
  | .bin b =>
    match s.bin b.toNat with
    | none => c = .nothing
    | some r => ∃ k, c = .bin k ∧ BinShows s b.toNat r k
  | .head => ∃ k, c = .head k ∧ HeadShows s k
  | .counters => c = .counters s.ctl.counters

/-- The head once a REPORT of an ask kind has been built: a HEAD report starts a fresh watch on its readings (R115, log 21). -/
def watchedBy (a : Ask) (h : FinishingHead) : FinishingHead :=
  match a with
  | .head =>
    { h with
      readings :=
        { h.readings with
          position1 := { h.readings.position1 with rewritten := false }
          position2 := { h.readings.position2 with rewritten := false }
          light := { h.readings.light with rewritten := false }
          medium := { h.readings.medium with rewritten := false }
          firm := { h.readings.firm with rewritten := false } } }
  | _ => h

/-- The REPORT of an ask, built from `s`, is appended to the link `l` beside the frames that satisfy `kept` (R169, R176). -/
def ReportQueued (a : Ask) (kept : TxEntry → Prop) (l : BayLink) (s t : State) : Prop :=
  t.head = watchedBy a s.head ∧ ∃ c, ReportShows s a c ∧ FrameQueued (.report a c) kept l t.link

/-- The attempt of `e` has ended lost or spoiled (R34, R165, R169). An unmarked frame stays in the queue. A BID marked for removal
leaves it and its pending bid is released. A REPORT marked for a replace leaves it, and the REPORT of the slot's ask is built and
appended. -/
def AttemptEnded (e : TxEntry) (s t : State) : Prop :=
  match e.mark with
  | .none =>
    t =
      { s with
        link :=
          { s.link with
            queue :=
              s.link.queue.map fun x => if x.number = e.number then { x with attempting := false, mark := .none } else x
            lastEnded := some e.number } }
  | .remove =>
    ∀ id fit load, e.frame = .bid id fit load →
      t =
          { s with
            ctl := t.ctl
            packs := { s.packs with bids := s.packs.bids.filter fun b => decide (b.id ≠ id) }
            link :=
              { s.link with
                queue := s.link.queue.filter fun x => decide (x.number ≠ e.number)
                lastEnded := some e.number } } ∧
        DrainJudged True s t
  | .replace =>
    ∀ a, s.ctl.reportSlot = some a → s.ctl.station ≠ .safe →
      t = { s with link := t.link, head := t.head } ∧
        ReportQueued a (fun x => x.number ≠ e.number) { s.link with lastEnded := some e.number } s t

/-! ### Bidding (R22 to R32) -/

/-- The pocket that a bid claims: the lowest-numbered FREE one that no pending bid has claimed (R25). -/
def PocketToClaim (p : PocketId) (s : State) : Prop :=
  ((s.pockets.get p).state = .free ∧ ∀ b ∈ s.packs.bids, b.pocket ≠ p) ∧
    ∀ q : PocketId, q.number < p.number → (s.pockets.get q).state ≠ .free ∨ ∃ b ∈ s.packs.bids, b.pocket = q

/-- A bin has a place (R28, R127): fill packs, committed and the pending bids for it are below the pack capacity. -/
def BinHasPlace (n : Nat) (s : State) : Prop :=
  ∃ r, s.bin n = some r ∧
    r.fillPacks + r.committed + (s.packs.bids.countP fun b => decide (b.bin = n)) < s.cfg.binPackCapacity

/-- The target bin of an offer (R28, R127): the primary bin of the map's entry if it has a place, else its overflow bin if that
has one. -/
def TargetBin (o : Offer) (n : Nat) (s : State) : Prop :=
  ∃ e, mapLookup s.cfg.map o.classCode o.roll = some e ∧ BinHasPlace n s ∧
    (n = e.primary ∨ ¬ BinHasPlace e.primary s ∧ e.overflow = some n)

/-- The staples a finish kind needs (R2, R26). -/
def staplesNeeded : FinishKind → Nat
  | .loose => 0
  | .corner => 1
  | .edge => 2

/-- Checks 3 to 5 of R24: the sheet count and the finish kind (R26), and the staples not yet promised (R27). -/
def PackSuits (o : Offer) (s : State) : Prop :=
  (o.count ≤ s.cfg.pocketCapacity ∧ (o.count = 0 → s.cfg.openPacks = true)) ∧
    (o.finish ≠ .loose →
      s.cfg.stapler = true ∧ (o.finish = .edge → s.cfg.edge = true) ∧
        (s.head.readings.outcome = .pass ∨ s.head.readings.outcome = .marginal) ∧
        (staplesNeeded o.finish : Int) ≤
          s.head.staples.remaining - s.head.staples.committed - (s.packs.bids.map PendingBid.staples).sum)

/-- The number of pockets bound to entries plus the number of pending bids (R32). -/
def loadOf (s : State) : Nat :=
  (PocketId.all.countP fun p =>
      match (s.pockets.get p).state with
      | .reserved => true
      | .filling => true
      | .absorbing _ => true
      | .waiting .finish => true
      | .waiting (.setAside _) => true
      | .atHead .finish => true
      | .atHead (.setAside _) => true
      | .retiring _ => true
      | _ => false) +
    s.packs.bids.length

/-- All seven checks of R24 pass, and this is the pending bid and the load they give (R25 to R32). -/
def BidGiven (o : Offer) (b : PendingBid) (load : Nat) (s : State) : Prop :=
  s.ctl.station = .run ∧ PocketToClaim b.pocket s ∧ PackSuits o s ∧ TargetBin o b.bin s ∧
    intakeVerdict s.cfg o = .accept b.fit ∧ b.id = o.id ∧ b.staples = staplesNeeded o.finish ∧ b.stage = .queued ∧
    load = loadOf s

/-- An entry is open to this station (R21). -/
def OpenHere (e : Entry) (s : State) : Prop :=
  (∃ bids, e.state = .bidding bids ∧ ∀ r ∈ bids, r.station ≠ s.address) ∧ ∀ b ∈ s.packs.bids, b.id ≠ e.offer.id

/-- A pending bid has been created and its BID queued (R30, R32). -/
def BidPlaced (b : PendingBid) (load : Nat) (s t : State) : Prop :=
  t = { s with packs := { s.packs with bids := s.packs.bids ++ [b] }, link := t.link } ∧
    FrameQueued (.bid b.id b.fit load) (fun _ => True) s.link t.link

/-- A re-scan (R22) has run over the pending bids and the transmit queue as they stood, with the rest as it stands in `t`.
What a re-scan does is stated by BidIsMadeExactlyWhenEligible. -/
def Rescanned (bids : List PendingBid) (l : BayLink) (t : State) : Prop :=
  t.packs = ({ t with packs := { t.packs with bids := bids }, link := l }).rescan.packs ∧
    t.link = ({ t with packs := { t.packs with bids := bids }, link := l }).rescan.link

/-! ### The hold (R156, R157) -/

/-- The hold condition at a queue length and a tray count (R156). -/
def HoldWanted (length tray : Nat) (s : State) : Prop :=
  ∃ c, s.config = some c ∧ (c.holdThreshold ≤ length ∨ tray = c.trayCapacity)

/-- The event that leaves this queue length and tray count makes the hold condition pass from false to true, in a hold state with
the hold INACTIVE (R157). That the length is judged before the selection that follows is log 18. -/
def ConditionRises (length tray : Nat) (s : State) : Prop :=
  s.ctl.station.holds = true ∧ s.ctl.hold.active = false ∧ ¬ HoldWanted s.head.queue.length s.rack.tray s ∧
    HoldWanted length tray s

/-- Where a hold is raised, a HOLD with the hold time is queued unless one is queued already (R157). -/
def HoldQueued (raised : Prop) (before : Hold) (time : Nat) (l m : BayLink) : Prop :=
  (raised ∧ before.queued = false → FrameQueued (.hold time) (fun _ => True) l m) ∧
    (¬ (raised ∧ before.queued = false) → m = l)

/-- The hold becomes ACTIVE where it is raised, else stands (R157). -/
def HoldRaised (raised : Prop) (before after : Hold) : Prop :=
  (raised → after = { before with active := true, queued := true }) ∧ (¬ raised → after = before)

/-! ### The finish queue (R85 to R87) -/

/-- The blocked reason of an entry by its job (R86, R132). -/
def BlockedBy (p : PocketId) (j : Job) (b : Option BlockedReason) (s : State) : Prop :=
  match j with
  | .finish =>
    (b = some .staples ↔ s.head.staples.state = .empty ∧ 0 < s.undriven p) ∧
      (b = some .bin ↔
        ¬ (s.head.staples.state = .empty ∧ 0 < s.undriven p) ∧
          ∃ n r, s.targetBin p = some n ∧ s.bin n = some r ∧
            s.cfg.binSheetCapacity < r.fillSheets + (s.pockets.get p).sheets) ∧
      b ≠ some .tray
  | _ =>
    (b = some .tray ↔ ∃ c, s.config = some c ∧ s.rack.tray = c.trayCapacity) ∧ b ≠ some .staples ∧ b ≠ some .bin

/-- The lane of the entry of a closing pocket (R85). -/
def LaneOf (p : PocketId) (j : Job) (l : Lane) (s : State) : Prop :=
  match j with
  | .finish => ∀ b e, (s.pockets.get p).bound = some b → s.entry b.pack = some e → l = e.offer.lane
  | _ => l = .normal

/-- The entry of a pocket has been appended with a stamp (R85); it stands in the queue, or, when ready, has been granted the head
in the same step (R90). -/
def EntryAppended (p : PocketId) (j : Job) (stamp : Nat) (s t : State) : Prop :=
  ∃ x : QueueEntry, x.pocket = p ∧ x.job = j ∧ LaneOf p j x.lane s ∧ x.stamp = stamp ∧
    (QueueInOrder s → x.passOvers = 0) ∧ x.strokes = none ∧ BlockedBy p j x.blocked t ∧
    (x ∈ t.head.queue ∨
      x.blocked = none ∧
        ∃ op, t.head.state = .busy op ∧ op.pocket = p ∧ op.job = j ∧ op.lane = x.lane ∧ op.stamp = x.stamp ∧
          op.passOvers = x.passOvers)

/-- The FINISH entry of a WAITING pocket has been converted to SET_ASIDE (R76, R88): lane NORMAL, stamp, pass-overs and strokes done
kept, the blocked reason evaluated again; it stands in the queue, or, when ready, has been granted the head in the same step. -/
def EntryConverted (p : PocketId) (r : AsideReason) (s t : State) : Prop :=
  ∀ y ∈ s.head.queue, y.pocket = p →
    ∃ x : QueueEntry,
      x = { y with job := .setAside r, lane := .normal, passOvers := x.passOvers, blocked := x.blocked } ∧
        (IdleHeadServed s → x.passOvers = y.passOvers) ∧ BlockedBy p (.setAside r) x.blocked t ∧
        (x ∈ t.head.queue ∨
          x.blocked = none ∧
            ∃ op, t.head.state = .busy op ∧ op.pocket = p ∧ op.job = .setAside r ∧ op.lane = .normal ∧
              op.stamp = x.stamp ∧ op.passOvers = x.passOvers)

/-- The blocked reasons have been evaluated again, outside the states that freeze the queue (R87, R150). -/
def BlocksFresh (s t : State) : Prop :=
  s.ctl.station.freezes = false → ∀ x ∈ t.head.queue, BlockedBy x.pocket x.job x.blocked t

/-! ### What several statements share -/

/-- The commitments of the pack in pocket `p` are given back: its staple positions not yet driven, and one place in its target
bin (R75, R145). -/
def CommitmentsReleased (p : PocketId) (s t : State) : Prop :=
  t.head.staples = { s.head.staples with committed := s.head.staples.committed - s.undriven p } ∧
    ∀ n,
      t.bin n =
        (s.bin n).map fun b => if s.targetBin p = some n then { b with committed := b.committed - 1 } else b

/-- Pocket `p` has closed with a job (R74, R75), the counters standing at `k` before a set-aside raises its own. A pocket that
closes may be granted in the same step, so its state is WAITING or AT_HEAD. -/
def ClosedAs (p : PocketId) (j : Job) (k : Counters) (s t : State) : Prop :=
  (t.pockets.get p).job = some j ∧ (t.pockets.get p).timer = none ∧ t.head.arrivals = s.head.arrivals + 1 ∧
    match j with
    | .setAside r => CommitmentsReleased p s t ∧ t.ctl.counters = k.bump (.setAside r)
    | _ => t.head.staples = s.head.staples ∧ t.rack = s.rack ∧ t.ctl.counters = k

/-- Pocket `p` has closed with a job, and its entry has been appended (R74, R85), which may raise the hold (R157). That the hold
is judged before the selection that follows is log 18. -/
def ClosedAndQueued (p : PocketId) (j : Job) (k : Counters) (s t : State) : Prop :=
  ClosedAs p j k s t ∧ EntryAppended p j (s.head.arrivals + 1) s t ∧ OthersServed (fun q => q = p) s t ∧
    IdleHeadServed t ∧ t.packs = s.packs ∧ t.store = s.store ∧ t.config = s.config ∧ t.rack.tray = s.rack.tray ∧
    t.head.readings = s.head.readings ∧
    t.ctl =
      { s.ctl with
        counters :=
          match j with
          | .setAside r => k.bump (.setAside r)
          | _ => k
        hold := t.ctl.hold } ∧
    HoldRaised (ConditionRises (s.head.queue.length + 1) s.rack.tray s) s.ctl.hold t.ctl.hold ∧
    HoldQueued (ConditionRises (s.head.queue.length + 1) s.rack.tray s) s.ctl.hold s.cfg.holdTime s.link t.link

/-- The Station Controller has taken a fault with cause `c` by the state of the station (R139 to R141, R143). -/
def FaultTaken (c : HaltCause) (s t : State) : Prop :=
  match s.ctl.station with
  | .halting => t.ctl = { s.ctl with counters := s.ctl.counters.bump .furtherFaults } ∧ t.link = s.link ∧ t.packs = s.packs
  | .halted => t.ctl = s.ctl ∧ t.link = s.link ∧ t.packs = s.packs
  | .safe => t.ctl = s.ctl ∧ t.link = s.link ∧ t.packs = s.packs
  | .configFault => t.ctl = s.ctl ∧ t.link = s.link ∧ t.packs = s.packs
  | .loading | .joining =>
    t.link = s.link ∧ t.packs = s.packs ∧
      t.ctl =
        (match s.ctl.heldCause with
        | none => { s.ctl with heldCause := some c }
        | some _ => { s.ctl with counters := s.ctl.counters.bump .furtherFaults })
  | .run | .drain | .standby =>
    t.head.state = .stopped ∧ t.head.testWaiting = false ∧ t.packs.entries = s.packs.entries ∧
      t.ctl =
        { s.ctl with
          station := .halting
          haltCause := some c
          hold := { s.ctl.hold with active := false, timer := none } } ∧
      ∃ l, UnsentWithdrawn s.packs.bids s.link t.packs.bids l ∧ FrameQueued (.halt c) (fun _ => True) l t.link

/-- Entry to SAFE from `s` (R150, R160, R172, R175, R178): the head STOPPED with no test waiting, the hold INACTIVE, not queued and
without a timer, the console slots and the roster cursor empty, the transmit queue empty, the QUEUED pending bids released and the
SENT ones kept; all else stands, a held cause (log 30) and the divert selection (log 32) with it. -/
def SafeEntered (s t : State) : Prop :=
  t =
    { s with
      ctl :=
        { s.ctl with
          station := .safe
          hold := { active := false, queued := false, timer := none }
          reportSlot := none
          answerSlot := none
          rosterCursor := none }
      link := { s.link with queue := [] }
      packs := { s.packs with bids := s.packs.bids.filter fun b => decide (b.stage = .sent) }
      head := { s.head with state := .stopped, testWaiting := false } }

/-- What a fault leaves as it stood (R102, R141): the pockets, the queue, the budget, the readings, the rack, the retained
store and the configuration. -/
def FaultKeeps (s t : State) : Prop :=
  t.pockets = s.pockets ∧ t.head.queue = s.head.queue ∧ t.head.arrivals = s.head.arrivals ∧
    t.head.staples = s.head.staples ∧ t.head.readings = s.head.readings ∧ t.rack = s.rack ∧ t.store = s.store ∧
    t.config = s.config

/-- The station has gone from RUN to DRAIN, or through it to STANDBY where nothing is bound and nothing pending (R41, R190). -/
def EntersDrain (s t : State) : Prop :=
  MechanismUnchanged s t ∧ t.packs.entries = s.packs.entries ∧ t.ctl = { s.ctl with station := t.ctl.station } ∧
    ((∀ p, (s.pockets.get p).isBound = false) ∧ t.packs.bids = [] → t.ctl.station = .standby) ∧
    (¬ ((∀ p, (s.pockets.get p).isBound = false) ∧ t.packs.bids = []) → t.ctl.station = .drain) ∧
    UnsentWithdrawn s.packs.bids s.link t.packs.bids t.link

/-- The station has gone from DRAIN or STANDBY to RUN, with its re-scan (R22, R190). -/
def EntersRun (s t : State) : Prop :=
  MechanismUnchanged s t ∧ t.packs.entries = s.packs.entries ∧ t.ctl = { s.ctl with station := .run } ∧
    Rescanned s.packs.bids s.link t ∧ (∀ b ∈ s.packs.bids, b ∈ t.packs.bids) ∧ ∀ x ∈ s.link.queue, x ∈ t.link.queue

/-- The part has read the sensors of a resume request (log 4). -/
def SensorsRead (r : ResumeReadings) (s : State) : Part :=
  { s.part with headJamSense := r.headJam, carriageJamSense := r.carriageJam, occupied := r.occupied }

/-- The LEFTOVER pockets whose sensor shows sheets at a resume (R81, R149). -/
def leftoversFound (occupied : PocketLevels) (s : State) : Nat :=
  PocketId.all.countP fun p => decide ((s.pockets.get p).state = .leftover) && occupied.get p

/-- The station has resumed from HALTED with the given readings (R149): LEFTOVER pockets checked from pocket 1 to pocket 4, the hold
judged (R157), one re-scan (R22), one selection. -/
def Resumed (r : ResumeReadings) (s t : State) : Prop :=
  t.ctl = { s.ctl with station := .run, haltCause := none, hold := t.ctl.hold } ∧ t.head.state ≠ .stopped ∧
    t.packs.entries = s.packs.entries ∧ t.head.staples = s.head.staples ∧ t.head.readings = s.head.readings ∧
    t.head.arrivals = s.head.arrivals + leftoversFound r.occupied s ∧ t.rack = s.rack ∧ t.store = s.store ∧
    t.config = s.config ∧ t.part = SensorsRead r s ∧
    (∀ p,
      if (s.pockets.get p).state = .leftover then
        if r.occupied.get p then
          (t.pockets.get p).job = some .clear ∧ t.pockets.get p = { Pocket.empty with state := (t.pockets.get p).state } ∧
            EntryAppended p .clear
              (s.head.arrivals + PocketId.all.countP fun q =>
                decide (q.number ≤ p.number ∧ (s.pockets.get q).state = .leftover) && r.occupied.get q)
              s t
        else t.pockets.get p = Pocket.empty
      else (t.pockets.get p).job = (s.pockets.get p).job) ∧
    OthersServed (fun q => (s.pockets.get q).state = .leftover) s t ∧ IdleHeadServed t ∧
    ∃ raised l,
      (raised ↔
        s.ctl.hold.active = false ∧
          HoldWanted (s.head.queue.length + leftoversFound r.occupied s) s.rack.tray s) ∧
        HoldRaised raised s.ctl.hold t.ctl.hold ∧ HoldQueued raised s.ctl.hold s.cfg.holdTime s.link l ∧
        Rescanned s.packs.bids l t

/-- An order changed nothing but the answer slot, and its ANSWER is queued (R179, R180). -/
def OnlyAnswered (o : OrderKind) (c : AnswerCode) (s t : State) : Prop :=
  t = { s with ctl := { s.ctl with answerSlot := some (o, c) }, link := t.link } ∧
    FrameQueued (.answer o c) (fun _ => True) s.link t.link

end Sys2Proof.Machine
end

