-- ==== Sys2Proof/Certificates/Slice0/Obligations.lean ====
section
/-!
DEFINITION. The statements for the provers, by family: the command queue, reset and start, the bay link, the pack table, holds,
the console, the gate and the pockets, the head, the rack and the supplies, halts, and the invariants.
A frame of another member is judged on `s.received`, which is `s` with the receive spoil run at 0 (R171;
ReceivedFrameIsCountedDroppedOrHandedOn). What several statements say is in Sys2Proof/Safety.lean.
-/

open Sys2Proof Sys2Proof.Machine Sys2Proof.Config

/-! ### The queue of commands and the part -/

def Obligations.FrontCommandRunsOnTheRest : Prop :=
  ∀ (c : Instr) (rest : List Instr) (s : State),
    step { s with pending := c :: rest } = exec c { s with pending := rest }

/-- The tick is the model's choice (log 3). -/
def Obligations.EmptyQueueLetsHalfASecondPass : Prop :=
  ∀ s : State, s.pending = [] →
    ∃ t, step s = .next t ∧ (s.running = false → t = s) ∧
      (s.running = true →
        t.pending = s.pending ∧ t.part = s.part ∧ t.config = s.config ∧ t.link = s.link ∧ t.packs = s.packs ∧
          t.rack = s.rack ∧ t.store = s.store ∧
          t.ctl = { s.ctl with hold := { s.ctl.hold with timer := s.ctl.hold.timer.map fun n => n - 1 } } ∧
          t.head =
            { s.head with
              state :=
                match s.head.state with
                | .idle => .idle
                | .busy op => .busy { op with limit := op.limit - 1 }
                | .testing level limit => .testing level (limit - 1)
                | .stopped => .stopped } ∧
          ∀ p,
            t.pockets.get p =
              { s.pockets.get p with
                timer :=
                  if s.ctl.station.gates then
                    (s.pockets.get p).timer.map fun x =>
                      match x with
                      | .firstSheet n => .firstSheet (n - 1)
                      | .gap n => .gap (n - 1)
                  else (s.pockets.get p).timer })

/-- That no command ends in a fault or a refusal is the model's reading (log 28); the queue of waiting commands is the model's own
(log 24). -/
def Obligations.EveryCommandAnswersAndKeepsTheQueue : Prop :=
  ∀ (c : Instr) (s : State), ∃ t, exec c s = .next t ∧ t.pending = s.pending

/-- That the reset pin, the jam lines and the supply are followed by a part in reset is the model's reading (log 10). -/
def Obligations.PartInResetTakesNoCommand : Prop :=
  ∀ (c : Instr) (s : State),
    (s.running = true ↔ s.part.supplied = true ∧ s.part.resetPin = false) ∧
      (s.running = false → (∀ st, c ≠ .powerReset st) → (∀ b, c ≠ .resetPinActive b) →
        (∀ st, c ≠ .resetPinReleased st) → (∀ b, c ≠ .lossOfPower b) → (∀ p, c ≠ .pocketJam p) →
        (∀ p, c ≠ .pocketJamCleared p) → exec c s = .next s)

/-! ### Reset and start -/

def Obligations.ResetLeavesResetValues : Prop :=
  State.reset.ctl.station = .loading ∧ State.reset.ctl.resetCause = .power ∧
    (∀ c, State.reset.ctl.counters.get c = 0) ∧ State.reset.ctl.haltCause = none ∧ State.reset.ctl.heldCause = none ∧
    State.reset.ctl.linkLossHeld = false ∧ State.reset.ctl.hold = { active := false, queued := false, timer := none } ∧
    State.reset.ctl.reportSlot = none ∧ State.reset.ctl.answerSlot = none ∧ State.reset.ctl.rosterCursor = none ∧
    State.reset.config = none ∧ State.reset.link.queue = [] ∧ State.reset.link.sendRun = 0 ∧
    State.reset.link.recvRun = 0 ∧ State.reset.packs.entries = [] ∧ State.reset.packs.bids = [] ∧
    (∀ p,
      State.reset.pockets.get p =
        { state := .free, bound := none, sheets := 0, driven := 0, timer := none, extraSeen := false }) ∧
    State.reset.head.queue = [] ∧ State.reset.head.arrivals = 0 ∧ State.reset.head.state = .idle ∧
    State.reset.head.testWaiting = false ∧ State.reset.head.staples.committed = 0 ∧
    State.reset.head.staples.state = .ready ∧ State.reset.head.readings.outcome = .none ∧
    (∀ r ∈
      [State.reset.head.readings.position1, State.reset.head.readings.position2, State.reset.head.readings.light,
        State.reset.head.readings.medium, State.reset.head.readings.firm], r.value = 0 ∧ r.updated = false) ∧
    State.reset.rack.bins = [] ∧ State.reset.rack.tray = 0

/-- That the registers stand until power returns is the model's choice (log 25); so are the content of a store that was not preserved
(log 12) and the events of the senses, none of which outlasts it (log 14). -/
def Obligations.PowerAppliedResetsAndPowerLostStops : Prop :=
  (∀ (st : Straps) (s : State),
    ∃ t, exec (.powerReset st) s = .next t ∧ BlocksAtReset t ∧ t.ctl = { State.reset.ctl with resetCause := .power } ∧
      t.store = RetainedStore.lost ∧
      t.part =
        { s.part with
          supplied := true
          straps := if s.part.resetPin then none else some st
          divert := none
          held := { bins := [], tray := false, cartridge := false } }) ∧
    ∀ (cut : Bool) (s : State),
      ∃ t, exec (.lossOfPower cut) s = .next t ∧ t = { s with part := t.part, store := t.store } ∧
        t.part = { s.part with supplied := false, divert := none } ∧ t.running = false ∧ t.drives = Drives.none ∧
        t.store =
          { s.store with
            checkMatches := if cut = true ∧ s.part.supplied = true then false else s.store.checkMatches }

/-- That the events held by the senses outlast the reset is the model's choice (log 14); that a part without power follows the pin is
its reading (log 10). -/
def Obligations.ResetPinResetsWithCauseLineAndHoldsThePart : Prop :=
  (∀ (cut : Bool) (s : State),
    ∃ t, exec (.resetPinActive cut) s = .next t ∧ t.part.resetPin = true ∧ t.running = false ∧
      (s.part.resetPin = true → t = s) ∧
      (s.part.resetPin = false → s.part.supplied = false → t = { s with part := { s.part with resetPin := true } }) ∧
      (s.part.resetPin = false → s.part.supplied = true →
        BlocksAtReset t ∧ t.ctl = { State.reset.ctl with resetCause := .line } ∧
          t.part = { s.part with resetPin := true, straps := none, divert := none } ∧
          t.store = { s.store with checkMatches := if cut then false else s.store.checkMatches })) ∧
    ∀ (st : Straps) (s : State),
      exec (.resetPinReleased st) s =
        .next
          (if s.part.resetPin then
            { s with
              part :=
                { s.part with
                  resetPin := false
                  straps := if s.part.supplied then some st else s.part.straps } }
          else s)

/-- That the events held by the senses outlast the reset is the model's choice (log 14). -/
def Obligations.RebootOrderResetsWhateverTheSlot : Prop :=
  ∀ (h : ConsoleHeader) (st : Straps) (cut : Bool) (s : State), Addressed h s →
    ∃ t, exec (.orderReboot h st cut) s = .next t ∧ BlocksAtReset t ∧
      t.ctl = { State.reset.ctl with resetCause := .reboot } ∧ t.part = { s.part with straps := some st, divert := none } ∧
      t.store = { s.store with checkMatches := if cut then false else s.store.checkMatches }

/-- The fault is that of the first check of R186 that fails. A two-byte value out of range is named by its first byte (log 16); the
end of a chain and the zero places of a map entry are as log 17 reads them. The events of the senses are dropped (log 14); in SAFE
no code is recorded (log 26) and a held cause stays (log 30). -/
def Obligations.FailedValidationEntersConfigFault : Prop :=
  ([FaultCode.badAddress, .readFailed, .badCheck, .outOfRange, .sheetCapacity, .mapBin, .mapSameBin, .chainOpen,
          .chainMaskEnd].map FaultCode.number =
      [1, 2, 3, 4, 5, 6, 7, 8, 9]) ∧
    (∀ (address : Nat) (bytes : List Byte) (f : ConfigFault), validate address bytes = .error f →
      CheckFails address bytes f.code f.item ∧
        ∀ code item, code.number < f.code.number → ¬ CheckFails address bytes code item) ∧
    ∀ (c : Instr) (bytes : List Byte) (f : ConfigFault) (s : State), s.running = true → s.ctl.station = .loading →
      ((∃ occupied cartridge, c = .imageReadComplete bytes occupied cartridge) ∧ validate s.address bytes = .error f ∨
        c = .imageReadTimeout ∧
          f =
            (if 1 ≤ s.address ∧ s.address ≤ 8 then { code := .readFailed, item := some 0 }
            else { code := .badAddress, item := some s.address })) →
      ∀ u : State,
        u =
          { s with
            part := { s.part with held := { bins := [], tray := false, cartridge := false } }
            head := { s.head with staples := { remaining := 0, committed := 0, state := .ready } } } →
        ∃ t, exec c s = .next t ∧
          (s.ctl.linkLossHeld = true → SafeEntered { u with ctl := { u.ctl with linkLossHeld := false } } t) ∧
          (s.ctl.linkLossHeld = false →
            t =
              { u with
                ctl := { u.ctl with station := .configFault, configFault := some f, heldCause := none }
                head := { u.head with state := .stopped, testWaiting := false } })

/-- `start` and `remaining` are the start values of the rack and the budget. Emptyings and a cartridge that the senses held are
taken after them (R133, R135, R184). The premises on the head hold in every LOADING of a run (ConfiguredOrIdle). That after a GOOD
check the staple state stands is log 15; that a held event outlasts a reset is log 14; that the levels shown are recorded is log 4;
that a held cause stays in SAFE is log 30. -/
def Obligations.StartSequenceEntersJoining : Prop :=
  ∀ (bytes : List Byte) (occupied : PocketLevels) (cartridge : Bool) (c : StationConfig) (start : Rack)
    (remaining : Nat) (result : StoreResult) (s : State),
    s.running = true → s.ctl.station = .loading → s.head.queue = [] → (∀ op, s.head.state ≠ .busy op) →
    validate s.address bytes = .ok c →
    result = (if s.ctl.resetCause = .power then .notMade else if s.store.checkMatches then .good else .bad) →
    start =
      (if result = .good then
        { bins :=
            if s.store.rackSize = c.rackSize ∧ s.store.binPackCapacity = c.binPackCapacity ∧
                s.store.binSheetCapacity = c.binSheetCapacity then
              s.store.bins.map fun b =>
                { fillPacks := b.fillPacks, fillSheets := b.fillSheets, committed := 0, roster := b.roster }
            else List.replicate c.rackSize Bin.empty
          tray := min s.store.tray c.trayCapacity }
      else { bins := List.replicate c.rackSize Bin.empty, tray := 0 }) →
    remaining =
      (if result = .good then min s.store.remaining c.cartridgeSize else if cartridge then c.cartridgeSize else 0) →
    ∃ t, exec (.imageReadComplete bytes occupied cartridge) s = .next t ∧ t.config = some c ∧
      t.ctl.storeResult = result ∧ t.packs.entries = s.packs.entries ∧ t.head.readings = s.head.readings ∧
      t.head.arrivals = s.head.arrivals + PocketId.all.countP occupied.get ∧
      (∀ x ∈ t.head.queue, occupied.get x.pocket = true) ∧
      t.part =
        { s.part with
          held := { bins := [], tray := false, cartridge := false }
          cartridgeSense := cartridge
          occupied := occupied } ∧
      (∀ i,
        t.rack.bins[i]? =
          (start.bins[i]?).map fun b =>
            if i + 1 ∈ s.part.held.bins then { fillPacks := 0, fillSheets := 0, committed := 0, roster := [] } else b) ∧
      t.rack.tray = (if s.part.held.tray then 0 else start.tray) ∧
      t.head.staples =
        { remaining := if s.part.held.cartridge then c.cartridgeSize else remaining
          committed := 0
          state := if s.part.held.cartridge = true ∨ result ≠ .good then .ready else s.head.staples.state } ∧
      t.store =
        { rackSize := c.rackSize, binPackCapacity := c.binPackCapacity, binSheetCapacity := c.binSheetCapacity,
          trayCapacity := c.trayCapacity, bins := t.rack.bins.map Bin.retained, tray := t.rack.tray,
          remaining := t.head.staples.remaining, checkMatches := true } ∧
      (∀ p,
        if occupied.get p then
          (t.pockets.get p).job = some .clear ∧ t.pockets.get p = { Pocket.empty with state := (t.pockets.get p).state }
        else t.pockets.get p = Pocket.empty) ∧
      (s.ctl.linkLossHeld = true →
        t.ctl =
            { s.ctl with
              station := .safe
              storeResult := result
              linkLossHeld := false
              hold := { active := false, queued := false, timer := none }
              reportSlot := none
              answerSlot := none
              rosterCursor := none } ∧
          t.link = { s.link with queue := [] } ∧
          t.packs.bids = (s.packs.bids.filter fun b => decide (b.stage = .sent)) ∧ t.head.state = .stopped ∧
          t.head.testWaiting = false) ∧
      (s.ctl.linkLossHeld = false →
        t.ctl =
            { s.ctl with
              station := .joining
              storeResult := result
              hold := t.ctl.hold
              rosterCursor := t.ctl.rosterCursor } ∧
          (s.ctl.rosterCursor = none → t.ctl.rosterCursor = none) ∧ t.packs = s.packs ∧ IdleHeadServed t ∧
          (c.stapler = true → s.ctl.heldCause = none → t.testing = true) ∧
          (c.stapler = false ∨ s.ctl.heldCause ≠ none → s.testing = false → t.testing = false) ∧
          (∀ p, occupied.get p = true →
            EntryAppended p .clear
              (s.head.arrivals + PocketId.all.countP fun q => decide (q.number ≤ p.number) && occupied.get q) s t) ∧
          ∃ raised l,
            (raised ↔ s.ctl.hold.active = false ∧ HoldWanted t.head.queue.length t.rack.tray t) ∧
              FrameQueued (.join s.ctl.resetCause c.stapler c.edge s.head.readings.outcome c.pocketCapacity)
                (fun _ => True) s.link l ∧
              HoldQueued raised s.ctl.hold c.holdTime l t.link ∧ HoldRaised raised s.ctl.hold t.ctl.hold)

/-- The zero places of a map entry and the end of a chain are as log 17 reads them. -/
def Obligations.ValidatedImageGivesItsValuesInTheirRanges : Prop :=
  (∀ (bytes : List Byte) (o : Nat),
    byteAt bytes o = (bytes.getD o 0).toNat ∧ wordAt bytes o = 256 * byteAt bytes o + byteAt bytes (o + 1)) ∧
    ∀ (address : Nat) (bytes : List Byte) (c : StationConfig), validate address bytes = .ok c →
      (∀ code item, ¬ CheckFails address bytes code item) ∧ ImageGives bytes c ∧ 1 ≤ address ∧ address ≤ 8 ∧
        175 ≤ bytes.length ∧ 10 ≤ c.pocketCapacity ∧ c.pocketCapacity ≤ 120 ∧ 8 ≤ c.rackSize ∧ c.rackSize ≤ 48 ∧
        4 ≤ c.binPackCapacity ∧ c.binPackCapacity ≤ 24 ∧ 40 ≤ c.binSheetCapacity ∧ c.binSheetCapacity ≤ 400 ∧
        c.pocketCapacity ≤ c.binSheetCapacity ∧ 10 ≤ c.trayCapacity ∧ c.trayCapacity ≤ 60 ∧ 100 ≤ c.cartridgeSize ∧
        c.cartridgeSize ≤ 5000 ∧ 100 ≤ c.lowThreshold ∧ c.lowThreshold ≤ 700 ∧ 700 ≤ c.overdriveThreshold ∧
        c.overdriveThreshold ≤ 1023 ∧ 1 ≤ c.gapLimit ∧ c.gapLimit ≤ 60 ∧ 10 ≤ c.firstSheetLimit ∧
        c.firstSheetLimit ≤ 600 ∧ 2 ≤ c.dropLimit ∧ c.dropLimit ≤ 15 ∧ 1 ≤ c.holdTime ∧ c.holdTime ≤ 30 ∧
        2 ≤ c.holdThreshold ∧ c.holdThreshold ≤ 4 ∧ c.rules.length ≤ 24 ∧ c.map.length ≤ 16 ∧
        (∀ fit, c.defaultVerdict = .accept fit → 1 ≤ fit ∧ fit ≤ 15) ∧
        (∀ r ∈ c.rules, r.join = false → r.isMask = false ∧ ∀ fit, r.verdict = .accept fit → 1 ≤ fit ∧ fit ≤ 15) ∧
        (∀ r, c.rules.getLast? = some r → r.join = false) ∧
        ∀ e ∈ c.map, e.mode ≠ .off →
          1 ≤ e.classCode ∧ e.classCode ≤ 250 ∧ 1 ≤ e.rollBound ∧ e.rollBound ≤ 60 ∧ 1 ≤ e.primary ∧
            e.primary ≤ c.rackSize ∧ (∀ b, e.overflow = some b → 1 ≤ b ∧ b ≤ c.rackSize ∧ b ≠ e.primary) ∧
            (e.mode = .block → 1 ≤ e.exponent ∧ e.exponent ≤ 5)

/-! ### The bay link -/

/-- The moments of a contention as commands of their own are the model's choice (log 5), and so is that a contention which begins
ends an attempt whose loss no command gave (log 7). -/
def Obligations.ContentionTakesTheQueueHead : Prop :=
  (∀ (others : List Arbitration) (e : TxEntry) (rest : List TxEntry) (s begun : State), s.unitActive = true →
    s.ctl.station ≠ .safe → s.link.queue = e :: rest → s.attempt = none →
    begun = { s with link := { s.link with queue := { e with attempting := true } :: rest } } →
    exec (.contention .begins) s = .next begun ∧
      ∃ t, exec (.contention (.whole others)) s = .next t ∧
        ((∀ f ∈ others, 32 * e.frame.precedence + s.address ≤ f.toNat) → t = begun) ∧
        (¬ (∀ f ∈ others, 32 * e.frame.precedence + s.address ≤ f.toNat) → AttemptEnded e s t)) ∧
    (∀ (others : List Arbitration) (e : TxEntry) (s : State), s.unitActive = true → s.ctl.station ≠ .safe →
      s.attempt = some e →
      ∃ u, AttemptEnded e s u ∧ exec (.contention .differs) s = .next u ∧
        exec (.contention (.arbitrates others)) s =
          .next (if ∀ f ∈ others, 32 * e.frame.precedence + s.address ≤ f.toNat then s else u) ∧
        (TransmitSound s →
          u.attempt = none ∧ exec (.contention .begins) s = exec (.contention .begins) u ∧
            exec (.contention (.whole others)) s = exec (.contention (.whole others)) u)) ∧
    ∀ (m : ContentionMoment) (s : State), s.running = true →
      (s.unitActive = false ∨ s.ctl.station = .safe ∨ s.link.queue = []) → exec (.contention m) s = .next s

/-- The counters stand raised in the COUNTERS report that replaces a marked one (log 33). With no attempt recorded the frame is the
queue's head (log 6). In SAFE a held cause stays (log 30), and so does the divert selection (log 32). -/
def Obligations.SpoiledOwnFrameCountsARetry : Prop :=
  ∀ (e : TxEntry) (run : Nat) (s r : State), s.unitActive = true → s.sending = some e →
    run = (if s.link.lastEnded = some e.number then min 16 (s.link.sendRun + 1) else 1) →
    r = { s with ctl := { s.ctl with counters := (s.ctl.counters.bump .spoiledSeen).bump .ownRetries } } →
    ∃ t u, exec (.spoiledFrame .own) s = .next t ∧ AttemptEnded e r u ∧
      (run ≠ 16 → t = { u with link := { u.link with sendRun := run } }) ∧
      t.ctl.counters = r.ctl.counters ∧ t.link.sendRun = run ∧ t.link.recvRun = s.link.recvRun ∧
      (run = 16 → s.ctl.station ≠ .loading → s.ctl.station ≠ .safe →
        SafeEntered { u with link := { u.link with sendRun := run } } t) ∧
      (run = 16 → s.ctl.station = .safe → t = { u with link := { u.link with sendRun := run } }) ∧
      (run = 16 → s.ctl.station = .loading →
        t = { u with ctl := { u.ctl with linkLossHeld := true }, link := { u.link with sendRun := run } }) ∧
      t.packs.entries = s.packs.entries ∧ t.pockets = s.pockets ∧ t.rack = s.rack ∧ t.store = s.store ∧
      t.head.staples = s.head.staples ∧ t.head.queue = s.head.queue

/-- The damage test is R166's, with the check of R163. That the run stands at 16 and reports again at every further frame is log 19.
A frame of this station's own that is under attempt or marked is left as it is (log 7). In SAFE a held cause stays (log 30), and so
does the divert selection (log 32). -/
def Obligations.SpoiledReceivedFrameMovesTheReceiveRun : Prop :=
  (∀ r : Reception,
    receptionDamaged r = true ↔
      81 ≤ r.length.toNat ∨ r.check ≠ checkOver r ∨ r.complete = false ∨ r.readable = false) ∧
  ∀ (r : Reception) (k : Counters) (run : Nat) (s u : State), s.unitActive = true →
    k =
      (if receptionDamaged r then (s.ctl.counters.bump .spoiledSeen).bump .spoiledHere
      else s.ctl.counters.bump .spoiledSeen) →
    run = (if receptionDamaged r then min 16 (s.link.recvRun + 1) else 0) →
    u = { s with ctl := { s.ctl with counters := k }, link := { s.link with recvRun := run } } →
    ∃ t, exec (.spoiledFrame (.received r)) s = .next t ∧ (run ≠ 16 → t = u) ∧
      (run = 16 → s.ctl.station ≠ .loading → s.ctl.station ≠ .safe → SafeEntered u t) ∧
      (run = 16 → s.ctl.station = .safe → t = u) ∧
      (run = 16 → s.ctl.station = .loading → t = { u with ctl := { u.ctl with linkLossHeld := true } })

/-- An attempt of this station's own stays in progress (log 7). A raw frame that passes the checks is handed on as the row it spells
(log 9). -/
def Obligations.ReceivedFrameIsCountedDroppedOrHandedOn : Prop :=
  (∀ (f : Frame) (s : State), s.unitActive = true → frameWellFormed s.address f = false →
    exec (.malformedFrame f) s = .next (s.received.count .malformed) ∧
      exec (.frameForAnotherMember f) s = .next (s.received.count .malformed)) ∧
    (∀ (f : Frame) (s : State), s.unitActive = true → frameWellFormed s.address f = true →
      (f.kind = 12 ∨ f.kind = 13 ∨ ((f.kind = 10 ∨ f.kind = 11) ∧ f.target.toNat ≠ s.address)) →
      exec (.frameForAnotherMember f) s = .next s.received ∧ exec (.malformedFrame f) s = .next s.received) ∧
    (∀ (f : Frame) (c : Instr) (s : State), s.unitActive = true → frameWellFormed s.address f = true → Spells f c s →
      exec (.malformedFrame f) s = exec c s ∧ exec (.frameForAnotherMember f) s = exec c s) ∧
    ∀ s : State,
      (s.unitActive = true ↔ s.running = true ∧ 1 ≤ s.address ∧ s.address ≤ 8) ∧
        s.address =
          (match s.part.straps with
          | none => 0
          | some st => st.address.toNat) ∧
        s.received = { s with link := { s.link with recvRun := 0 } } ∧
        ∀ c : CounterName,
          s.received.count c =
            { s with
              ctl := { s.ctl with counters := s.ctl.counters.bump c }
              link := { s.link with recvRun := 0 } }

def Obligations.WellFormedFrameAgreesWithItsTable : Prop :=
  ∀ (own : Nat) (f : Frame), frameWellFormed own f = true ↔
    f.sender.toNat ≠ own ∧
      ((f.kind = 1 ∧ f.precedence = 7 ∧ 16 ≤ f.sender.toNat ∧ f.sender.toNat ≤ 19 ∧ f.target = 31 ∧ f.body.length = 8) ∨
        (f.kind = 2 ∧ f.precedence = 3 ∧ 1 ≤ f.sender.toNat ∧ f.sender.toNat ≤ 8 ∧ f.target = 31 ∧ f.body.length = 5) ∨
        (f.kind = 3 ∧ f.precedence = 5 ∧ 16 ≤ f.sender.toNat ∧ f.sender.toNat ≤ 19 ∧ f.target = 31 ∧
          f.body.length = 3) ∨
        (f.kind = 4 ∧ f.precedence = 6 ∧ (16 ≤ f.sender.toNat ∧ f.sender.toNat ≤ 19 ∨ f.sender = 30) ∧ f.target = 31 ∧
          f.body.length = 3) ∨
        (f.kind = 5 ∧ f.precedence = 1 ∧ 1 ≤ f.sender.toNat ∧ f.sender.toNat ≤ 8 ∧ f.target = 31 ∧ f.body.length = 5) ∨
        (f.kind = 6 ∧ f.precedence = 1 ∧ 1 ≤ f.sender.toNat ∧ f.sender.toNat ≤ 8 ∧ f.target = 31 ∧ f.body.length = 4) ∨
        (f.kind = 7 ∧ f.precedence = 2 ∧ 1 ≤ f.sender.toNat ∧ f.sender.toNat ≤ 8 ∧ f.target = 31 ∧ f.body.length = 1) ∨
        (f.kind = 8 ∧ f.precedence = 8 ∧ 1 ≤ f.sender.toNat ∧ f.sender.toNat ≤ 8 ∧ f.target = 31 ∧ f.body.length = 4) ∨
        (f.kind = 9 ∧ f.precedence = 4 ∧ 1 ≤ f.sender.toNat ∧ f.sender.toNat ≤ 8 ∧ f.target = 31 ∧
          ∃ time : Byte, f.body = [time] ∧ 1 ≤ time.toNat ∧ time.toNat ≤ 30) ∨
        (f.kind = 10 ∧ f.precedence = 9 ∧ f.sender = 30 ∧ 1 ≤ f.target.toNat ∧ f.target.toNat ≤ 8 ∧
          (f.body = [1] ∨ (∃ a b c : Byte, f.body = [2, a, b, c]) ∨ (∃ n : Byte, f.body = [3, n] ∨ f.body = [4, n]) ∨
            f.body = [5] ∨ f.body = [6])) ∨
        (f.kind = 11 ∧ f.precedence = 9 ∧ f.sender = 30 ∧ 1 ≤ f.target.toNat ∧ f.target.toNat ≤ 8 ∧
          ∃ o : Byte, f.body = [o] ∧ 1 ≤ o.toNat ∧ o.toNat ≤ 5) ∨
        (f.kind = 12 ∧ f.precedence = 10 ∧ 1 ≤ f.sender.toNat ∧ f.sender.toNat ≤ 8 ∧ f.target = 30 ∧
          1 ≤ f.body.length ∧ f.body.length ≤ 80) ∨
        (f.kind = 13 ∧ f.precedence = 10 ∧ 1 ≤ f.sender.toNat ∧ f.sender.toNat ≤ 8 ∧ f.target = 30 ∧
          f.body.length = 2))

/-! ### The pack table -/

/-- That a serial above 4095 is a pack id to every kind but OFFER is the model's reading (log 11). What a consideration answers is
stated by BidIsMadeExactlyWhenEligible; a pack that still has a pending bid is not open to this station (R21). -/
def Obligations.OfferMakesAnEntryOrIsCounted : Prop :=
  (∀ (w : WirePackId) (id : PackId),
    readPackId w = some id ↔
      16 ≤ w.feed.toNat ∧ w.feed.toNat ≤ 19 ∧ w.serial.toNat ≠ 0 ∧
        id = { feed := w.feed.toNat, serial := w.serial.toNat }) ∧
    (∀ (b : OfferBody) (o : Offer),
      readOffer b = some o ↔
        16 ≤ b.id.feed.toNat ∧ b.id.feed.toNat ≤ 19 ∧ 1 ≤ b.id.serial.toNat ∧ b.id.serial.toNat ≤ 4095 ∧
          1 ≤ b.classCode.toNat ∧ b.classCode.toNat ≤ 250 ∧ 1 ≤ b.roll.toNat ∧ b.roll.toNat ≤ 60 ∧
          b.count.toNat ≤ 120 ∧
          (b.finish.toNat = 0 ∧ o.finish = .loose ∨ b.finish.toNat = 1 ∧ o.finish = .corner ∨
            b.finish.toNat = 2 ∧ o.finish = .edge) ∧
          (b.lane.toNat = 0 ∧ o.lane = .normal ∨ b.lane.toNat = 1 ∧ o.lane = .urgent) ∧
          o =
            { id := { feed := b.id.feed.toNat, serial := b.id.serial.toNat }, classCode := b.classCode.toNat,
              roll := b.roll.toNat, count := b.count.toNat, finish := o.finish, lane := o.lane }) ∧
    (∀ st : StationState, st.applies = false ↔ st = .loading ∨ st = .configFault) ∧
    ∀ (sender : LinkAddress) (b : OfferBody) (s : State), FromFeed sender s →
      (s.ctl.station.applies = false → exec (.offer sender b) s = .next s.received) ∧
        (s.ctl.station.applies = true →
          ∃ t, exec (.offer sender b) s = .next t ∧
            match readOffer b with
            | none => t = s.received.count .malformed
            | some o =>
              if o.id.feed ≠ sender.toNat then t = s.received.count .malformed
              else if ∃ e ∈ s.packs.entries, e.offer.id = o.id then t = s.received.count .outOfSequence
              else if 64 ≤ s.packs.entries.length then t = s.received.count .offersRefused
              else
                ∃ u : State,
                  u =
                      { s.received with
                        packs :=
                          { s.packs with
                            entries := s.packs.entries ++ [{ offer := o, state := .bidding [] }] } } ∧
                    match s.pendingBid o.id, u.consider o with
                    | none, .bid bid load => BidPlaced bid load u t
                    | _, _ => t = u)

/-- `r` is the state in which the OFFER is taken: the entry appended, the receive run at 0. -/
def Obligations.OfferInRunBringsAnEligibleBid : Prop :=
  ∀ (sender : LinkAddress) (b : OfferBody) (o : Offer) (bid : PendingBid) (load : Nat) (s r : State), FromFeed sender s →
    readOffer b = some o → o.id.feed = sender.toNat → s.entry o.id = none → s.packs.entries.length < 64 →
    r =
      { s with
        packs := { s.packs with entries := s.packs.entries ++ [{ offer := o, state := .bidding [] }] }
        link := { s.link with recvRun := 0 } } →
    s.pendingBid o.id = none → BidGiven o bid load s →
    ∃ t, exec (.offer sender b) s = .next t ∧ BidPlaced bid load r t

/-- A consideration gives a bid, ends the re-scan or skips the entry (R22), and a re-scan takes the open entries in table order,
each against what the bids before it left. -/
def Obligations.BidIsMadeExactlyWhenEligible : Prop :=
  (∀ (o : Offer) (s : State),
    (∀ b load, s.consider o = .bid b load ↔ BidGiven o b load s) ∧
      (s.consider o = .stop ↔ s.ctl.station ≠ .run ∨ ∀ p, ¬ PocketToClaim p s) ∧
      (s.consider o = .skip ↔
        s.ctl.station = .run ∧ (∃ p, PocketToClaim p s) ∧
          (¬ PackSuits o s ∨ (∀ n, ¬ TargetBin o n s) ∨ intakeVerdict s.cfg o = .refuse))) ∧
    ∀ (e : Entry) (rest : List Entry) (s : State),
      s.rescan = rescanOver s.packs.entries s ∧ rescanOver [] s = s ∧
        (¬ OpenHere e s → rescanOver (e :: rest) s = rescanOver rest s) ∧
        (OpenHere e s →
          (s.consider e.offer = .stop → rescanOver (e :: rest) s = s) ∧
            (s.consider e.offer = .skip → rescanOver (e :: rest) s = rescanOver rest s) ∧
            ∀ b load, s.consider e.offer = .bid b load →
              ∃ t, BidPlaced b load s t ∧ rescanOver (e :: rest) s = rescanOver rest t)

def Obligations.BidOfAnotherStationIsRecorded : Prop :=
  ∀ (sender : LinkAddress) (b : BidBody) (s : State), FromStation sender s →
    (s.ctl.station.applies = false → exec (.bid (.other sender b)) s = .next s.received) ∧
      (s.ctl.station.applies = true →
        ∃ t, exec (.bid (.other sender b)) s = .next t ∧ MechanismUnchanged s t ∧ t.link = s.received.link ∧
          t.packs.bids = s.packs.bids ∧
          match readPackId b.id with
          | none => t = s.received.count .malformed
          | some id =>
            if b.fit.toNat < 1 ∨ 15 < b.fit.toNat ∨ 3 < b.load.toNat then t = s.received.count .malformed
            else
              match s.entry id with
              | none => t = s.received.count .outOfSequence
              | some e =>
                match e.state with
                | .placed _ _ => t = s.received.count .lateBids
                | .bidding bids =>
                  if ∃ r ∈ bids, r.station = sender.toNat then t = s.received.count .outOfSequence
                  else
                    t.entry id =
                        some
                          { e with
                            state :=
                              .bidding
                                (bids ++ [{ station := sender.toNat, fit := b.fit.toNat, load := b.load.toNat }]) } ∧
                      t.packs.entries =
                        entriesWithBid id { station := sender.toNat, fit := b.fit.toNat, load := b.load.toNat }
                          s.packs.entries ∧
                      t.ctl = s.ctl)

/-- `late` and `unknown` are `s` with the counter of a late and of an out-of-sequence BID raised. With no attempt recorded an echo is
that of the queue's head (log 6), here and in the other echoes. -/
def Obligations.BidEchoIsRecordedOrReleasesTheClaims : Prop :=
  ∀ (e : TxEntry) (id : PackId) (fit load : Nat) (s late unknown : State),
    late = { s with ctl := { s.ctl with counters := s.ctl.counters.bump .lateBids } } →
    unknown = { s with ctl := { s.ctl with counters := s.ctl.counters.bump .outOfSequence } } → Echoes e s →
    e.frame = .bid id fit load →
    s.echoed e =
        { s with
          link :=
            { s.link with queue := s.link.queue.filter fun x => decide (x.number ≠ e.number), sendRun := 0 } } ∧
      (s.ctl.station.applies = false → exec (.bid .echo) s = .next (s.echoed e)) ∧
      (s.ctl.station.applies = true →
        ∃ t, exec (.bid .echo) s = .next t ∧ MechanismUnchanged s t ∧ t.link = (s.echoed e).link ∧
          match s.entry id with
          | none =>
            t.packs.entries = s.packs.entries ∧ t.packs.bids = (s.packs.bids.filter fun b => decide (b.id ≠ id)) ∧
              DrainJudged True unknown t
          | some n =>
            match n.state with
            | .placed _ _ =>
              t.packs.entries = s.packs.entries ∧ t.packs.bids = (s.packs.bids.filter fun b => decide (b.id ≠ id)) ∧
                DrainJudged True late t
            | .bidding bids =>
              if ∃ r ∈ bids, r.station = s.address then t.packs = s.packs ∧ t.ctl = unknown.ctl
              else
                t.ctl = s.ctl ∧
                  t.entry id =
                    some { n with state := .bidding (bids ++ [{ station := s.address, fit := fit, load := load }]) } ∧
                  t.packs.entries =
                    entriesWithBid id { station := s.address, fit := fit, load := load } s.packs.entries ∧
                  t.packs.bids = s.packs.bids.map fun b => if b.id = id then { b with stage := .sent } else b)

def Obligations.WinnerIsTheBestRecord : Prop :=
  ∀ (bids : List BidRecord) (w : BidRecord), (bids.map BidRecord.station).Nodup →
    (winner bids = some w ↔
      w ∈ bids ∧
        ∀ r ∈ bids, r ≠ w →
          r.fit < w.fit ∨
            r.fit = w.fit ∧ (w.load < r.load ∨ w.load = r.load ∧ w.station < r.station))

def Obligations.CloseFollowsTheBidList : Prop :=
  ∀ (sender : LinkAddress) (w : WirePackId) (s : State), FromFeed sender s →
    (s.ctl.station.applies = false → exec (.close sender w) s = .next s.received) ∧
      (s.ctl.station.applies = true →
        ∃ t, exec (.close sender w) s = .next t ∧ t.part = s.part ∧ t.config = s.config ∧ t.store = s.store ∧
          t.rack.tray = s.rack.tray ∧ t.head.queue = s.head.queue ∧ t.head.state = s.head.state ∧
          t.head.readings = s.head.readings ∧
          match readPackId w with
          | none => t = s.received.count .malformed
          | some id =>
            match s.entry id with
            | none => t = s.received.count .outOfSequence
            | some e =>
              if id.feed ≠ sender.toNat then t = s.received.count .outOfSequence
              else
                match e.state with
                | .placed _ _ => t = s.received.count .outOfSequence
                | .bidding bids =>
                  t.ctl.counters = s.ctl.counters ∧
                    (bids = [] →
                      t.packs.entries = entriesRetired id s.packs.entries ∧ MechanismUnchanged s t ∧
                        BidResolved id s.received t ∧ DrainJudged (t.packs.bids ≠ s.packs.bids) s t) ∧
                    ((bids.map BidRecord.station).Nodup → bids ≠ [] →
                      ∃ r ∈ bids,
                        (∀ x ∈ bids, x ≠ r →
                          x.fit < r.fit ∨
                            x.fit = r.fit ∧ (r.load < x.load ∨ r.load = x.load ∧ r.station < x.station)) ∧
                          (∃ a, t.entry id = some { e with state := .placed r.station a } ∧
                            t.packs.entries = entriesPlaced id r.station a s.packs.entries) ∧
                          (r.station ≠ s.address →
                            t.packs.entries = entriesPlaced id r.station none s.packs.entries ∧ MechanismUnchanged s t ∧
                              BidResolved id s.received t ∧ DrainJudged (t.packs.bids ≠ s.packs.bids) s t)))

def Obligations.WonPackIsCommitted : Prop :=
  ∀ (sender : LinkAddress) (w : WirePackId) (id : PackId) (e : Entry) (bids : List BidRecord) (r : BidRecord)
    (b : PendingBid) (s : State), FromFeed sender s → s.ctl.station.applies = true → readPackId w = some id →
    id.feed = sender.toNat → s.entry id = some e → e.state = .bidding bids → winner bids = some r →
    r.station = s.address → s.pendingBid id = some b → b.stage = .sent →
    ∃ t, exec (.close sender w) s = .next t ∧
      t.entry id =
        some { e with state := .placed s.address (some { pocket := b.pocket, bin := b.bin, stage := .live }) } ∧
      t.packs.entries =
        entriesPlaced id s.address (some { pocket := b.pocket, bin := b.bin, stage := .live }) s.packs.entries ∧
      t.part = s.part ∧ t.config = s.config ∧ t.ctl = s.ctl ∧ t.store = s.store ∧ t.rack.tray = s.rack.tray ∧
      t.pockets.get b.pocket =
        { state := .reserved, bound := some { pack := id, next := 1 }, sheets := 0, driven := 0,
          timer := some (.firstSheet (2 * s.cfg.firstSheetLimit)), extraSeen := false } ∧
      OtherPocketsUnchanged b.pocket s t ∧
      t.head =
        { s.head with
          staples := { s.head.staples with committed := s.head.staples.committed + b.staples } } ∧
      (∀ n, t.bin n = (s.bin n).map fun k => if n = b.bin then { k with committed := k.committed + 1 } else k) ∧
      t.packs.bids = (s.packs.bids.filter fun x => decide (x.id ≠ id)) ∧ t.link = s.received.link

/-- At the owner the pocket acts, which WithdrawnPocketActsByItsState states. That a serial above 4095 is a pack id here is the
model's reading (log 11). -/
def Obligations.WithdrawEndsBiddingAndLeavesOthersPacks : Prop :=
  ∀ (sender : LinkAddress) (w : WirePackId) (s : State),
    s.unitActive = true ∧ (16 ≤ sender.toNat ∧ sender.toNat ≤ 19 ∨ sender = 30) →
    (s.ctl.station.applies = false → exec (.withdraw sender w) s = .next s.received) ∧
      (s.ctl.station.applies = true →
        ∃ t, exec (.withdraw sender w) s = .next t ∧ t.store = s.store ∧ t.rack.tray = s.rack.tray ∧
          t.config = s.config ∧ t.part = s.part ∧
          match readPackId w with
          | none => t = s.received.count .malformed
          | some id =>
            if sender ≠ 30 ∧ id.feed ≠ sender.toNat then t = s.received.count .outOfSequence
            else
              match s.entry id with
              | none => t = s.received.count .outOfSequence
              | some e =>
                match e.state with
                | .bidding _ =>
                  t.packs.entries = entriesRetired id s.packs.entries ∧ MechanismUnchanged s t ∧
                    BidResolved id s.received t ∧ DrainJudged (t.packs.bids ≠ s.packs.bids) s t
                | .placed o _ => o ≠ s.address → t = s.received)

/-- That a FILLING pocket already at its capacity goes to ABSORBING with its gap timer running, instead of closing at once, is the
model's choice (log 31). -/
def Obligations.WithdrawnPocketActsByItsState : Prop :=
  ∀ (sender : LinkAddress) (w : WirePackId) (id : PackId) (e : Entry) (a : Annex) (s : State),
    s.unitActive = true ∧ (sender.toNat = id.feed ∧ 16 ≤ id.feed ∧ id.feed ≤ 19 ∨ sender = 30) →
    readPackId w = some id → s.entry id = some e → e.state = .placed s.address (some a) →
    ∃ t, exec (.withdraw sender w) s = .next t ∧
      (s.ctl.station.gates = false → t = s.received) ∧
      (s.ctl.station.gates = true →
        match (s.pockets.get a.pocket).state with
        | .reserved =>
          t.pockets.get a.pocket =
              { s.pockets.get a.pocket with state := .retiring (.setAside .withdrawn), timer := none } ∧
            OtherPocketsUnchanged a.pocket s t ∧ CommitmentsReleased a.pocket s t ∧
            t.ctl = { s.ctl with counters := s.ctl.counters.bump (.setAside .withdrawn) } ∧ t.part = s.part ∧
            t.config = s.config ∧ t.store = s.store ∧ t.rack.tray = s.rack.tray ∧
            t.head = { s.head with staples := t.head.staples } ∧
            ∀ b, (s.pockets.get a.pocket).bound = some b →
              EndRequested b.pack (.aside b.pack .withdrawn) s.received.link s t
        | .filling =>
          t = { s.received with pockets := t.pockets } ∧
            t.pockets.get a.pocket = { s.pockets.get a.pocket with state := .absorbing .withdrawn } ∧
            OtherPocketsUnchanged a.pocket s t
        | .waiting .finish =>
          (t.pockets.get a.pocket).job = some (.setAside .withdrawn) ∧
            t.pockets.get a.pocket = { s.pockets.get a.pocket with state := (t.pockets.get a.pocket).state } ∧
            CommitmentsReleased a.pocket s t ∧ t.packs = s.packs ∧ t.link = s.received.link ∧
            t.ctl = { s.ctl with counters := s.ctl.counters.bump (.setAside .withdrawn) } ∧ t.part = s.part ∧
            t.config = s.config ∧ t.store = s.store ∧ t.rack.tray = s.rack.tray ∧ t.head.readings = s.head.readings ∧
            t.head.arrivals = s.head.arrivals ∧
            (QueueHoldsWaiting s →
              EntryConverted a.pocket .withdrawn s t ∧ OthersServed (fun q => q = a.pocket) s t ∧ IdleHeadServed t)
        | .atHead _ => t = s.received.count .tooLate
        | .absorbing _ => t = s.received
        | .waiting (.setAside _) => t = s.received
        | .retiring _ => t = s.received
        | _ => True)

def Obligations.EndMessageOfTheOwnerRetiresThePack : Prop :=
  ∀ (sender : LinkAddress) (d : DeliveredBody) (a : AsideBody) (c : Instr) (w : WirePackId) (s : State),
    FromStation sender s →
    (c = .delivered (.other sender d) ∧ w = d.id ∨ c = .aside (.other sender a) ∧ w = a.id) →
    (s.ctl.station.applies = false → exec c s = .next s.received) ∧
      (s.ctl.station.applies = true →
        match readPackId w with
        | none => exec c s = .next (s.received.count .malformed)
        | some id =>
          ((∃ e x, s.entry id = some e ∧ e.state = .placed sender.toNat x) →
            exec c s =
              .next
                { s.received with packs := { s.packs with entries := entriesRetired id s.packs.entries } }) ∧
            ((¬ ∃ e x, s.entry id = some e ∧ e.state = .placed sender.toNat x) →
              exec c s = .next (s.received.count .outOfSequence)))

/-- With no attempt recorded the echo is that of the queue's head (log 6). -/
def Obligations.OwnEndMessageEchoFreesThePocket : Prop :=
  ∀ (e : TxEntry) (c : Instr) (id : PackId) (s : State), Echoes e s →
    ((∃ bin flags, e.frame = .delivered id bin flags) ∧ c = .delivered .echo ∨
      (∃ r, e.frame = .aside id r) ∧ c = .aside .echo) →
    (s.ctl.station.applies = false → exec c s = .next (s.echoed e)) ∧
      (s.ctl.station.applies = true →
        ((¬ ∃ n a, s.entry id = some n ∧ n.state = .placed s.address a) →
          exec c s = .next ((s.echoed e).count .outOfSequence)) ∧
          ∀ (n : Entry) (a : Annex) (j : Job), s.entry id = some n → n.state = .placed s.address (some a) →
            (s.pockets.get a.pocket).state = .retiring j →
            ∃ t, exec c s = .next t ∧ t.packs.entries = entriesRetired id s.packs.entries ∧
              t.pockets.get a.pocket = Pocket.empty ∧ OtherPocketsUnchanged a.pocket s t ∧ t.head = s.head ∧
              t.rack = s.rack ∧ t.store = s.store ∧ t.config = s.config ∧ t.part = s.part ∧ t.link.sendRun = 0 ∧
              DrainJudged True s t ∧ Rescanned s.packs.bids (s.echoed e).link t)

def Obligations.HaltOrJoinOfAnotherStationForgetsIt : Prop :=
  ∀ (sender : LinkAddress) (cause : Byte) (b : JoinBody) (c : Instr) (s : State), FromStation sender s →
    (c = .halt sender cause ∨ c = .join sender b) →
    exec c s =
      .next
        (if s.ctl.station.applies then
          { s.received with packs := { s.packs with entries := entriesWithout sender.toNat s.packs.entries } }
        else s.received)

/-- With no attempt recorded the echo is that of the queue's head (log 6); the divert selection stands (log 32). -/
def Obligations.HaltEchoBreaksTheWork : Prop :=
  (∀ q : Pocket,
    q.holdsCommitments = true ↔
      q.state = .reserved ∨ q.state = .filling ∨ (∃ r, q.state = .absorbing r) ∨ q.state = .waiting .finish ∨
        q.state = .atHead .finish) ∧
    (∀ (p : PocketId) (s : State),
      s.undriven p =
          (match (s.pockets.get p).bound.bind fun b => s.entry b.pack with
          | none => 0
          | some n => staplesNeeded n.offer.finish - (s.pockets.get p).driven) ∧
        ∀ n, s.targetBin p = some n ↔
          ∃ b x o a, (s.pockets.get p).bound = some b ∧ s.entry b.pack = some x ∧ x.state = .placed o (some a) ∧ a.bin = n) ∧
    ∀ (e : TxEntry) (cause : HaltCause) (s : State), Echoes e s → e.frame = .halt cause →
      ∃ t, exec .haltEcho s = .next t ∧ t.part = s.part ∧ t.config = s.config ∧ t.store = s.store ∧
        t.ctl = { s.ctl with station := .halted } ∧ OwnEndsRemoved e s t.link ∧
        t.packs = { entries := entriesWithout s.address s.packs.entries, bids := [] } ∧
        (∀ p,
          t.pockets.get p =
            match (s.pockets.get p).state with
            | .free => s.pockets.get p
            | .leftover => s.pockets.get p
            | .reserved => Pocket.empty
            | .retiring _ => Pocket.empty
            | _ => { Pocket.empty with state := .leftover }) ∧
        t.head =
          { s.head with
            queue := []
            staples :=
              { s.head.staples with
                committed :=
                  s.head.staples.committed -
                    (PocketId.all.map fun p =>
                        if (s.pockets.get p).holdsCommitments then s.undriven p else 0).sum } } ∧
        t.rack.tray = s.rack.tray ∧
        ∀ n,
          t.bin n =
            (s.bin n).map fun r =>
              { r with
                committed :=
                  r.committed -
                    PocketId.all.countP fun p =>
                      (s.pockets.get p).holdsCommitments && decide (s.targetBin p = some n) }

/-- With no attempt recorded the echo is that of the queue's head (log 6); the divert selection stands (log 32). -/
def Obligations.JoinEchoLeavesJoining : Prop :=
  ∀ (e : TxEntry) (cause : ResetCause) (stapler edge : Bool) (outcome : TestOutcome) (capacity : Nat) (s : State),
    Echoes e s → e.frame = .join cause stapler edge outcome capacity → s.ctl.station = .joining →
    ∃ t, exec .joinEcho s = .next t ∧ t.part = s.part ∧ t.config = s.config ∧ t.pockets = s.pockets ∧ t.rack = s.rack ∧
      t.store = s.store ∧ t.packs.entries = entriesWithout s.address s.packs.entries ∧
      ∃ l, OwnEndsRemoved e s l ∧
        match s.ctl.heldCause with
        | none => t.ctl = { s.ctl with station := .run } ∧ t.head = s.head ∧ Rescanned s.packs.bids l t
        | some h =>
          t.ctl =
              { s.ctl with
                station := .halting
                haltCause := some h
                heldCause := none
                hold := { s.ctl.hold with active := false, timer := none } } ∧
            t.head = { s.head with state := .stopped, testWaiting := false } ∧
            ∃ m, UnsentWithdrawn s.packs.bids l t.packs.bids m ∧ FrameQueued (.halt h) (fun _ => True) m t.link

/-! ### Holds -/

/-- The renewal period is half the hold time: as many half seconds as the hold time has seconds (R155). With no
attempt recorded the echo is that of the queue's head (log 6). -/
def Obligations.HoldActsAtItsOwnEchoAlone : Prop :=
  (∀ (e : TxEntry) (time : Nat) (s : State), Echoes e s → e.frame = .hold time →
    exec .holdEcho s =
      .next
        { s.echoed e with
          ctl :=
            { s.ctl with
              hold :=
                { s.ctl.hold with
                  queued := false
                  timer := if s.ctl.hold.active then some s.cfg.holdTime else s.ctl.hold.timer } } }) ∧
    ∀ (sender : LinkAddress) (time : Byte) (s : State), FromStation sender s → 1 ≤ time.toNat → time.toNat ≤ 30 →
      exec (.hold sender time) s = .next s.received

/-- The hold condition is read at the renewal point; where it raises a hold is said at the events that change it (ConditionRises,
HoldRaised). -/
def Obligations.RenewalPointRenewsOrLapses : Prop :=
  ∀ s : State,
    (s.ctl.station.holds = true ↔
      s.ctl.station = .joining ∨ s.ctl.station = .run ∨ s.ctl.station = .drain ∨ s.ctl.station = .standby) ∧
      (s.holdCondition = true ↔ HoldWanted s.head.queue.length s.rack.tray s) ∧
      (s.running = true → s.ctl.station.holds = true → s.ctl.hold.active = true → s.ctl.hold.timer ≠ none →
        (HoldWanted s.head.queue.length s.rack.tray s →
          ∃ t, exec .renewalTimerExpiry s = .next t ∧
            t =
              { s with
                ctl := { s.ctl with hold := { active := true, queued := true, timer := none } }
                link := t.link } ∧
            FrameQueued (.hold s.cfg.holdTime) (fun _ => True) s.link t.link) ∧
          (¬ HoldWanted s.head.queue.length s.rack.tray s →
            exec .renewalTimerExpiry s =
              .next { s with ctl := { s.ctl with hold := { s.ctl.hold with active := false, timer := none } } }))

/-! ### The console -/

/-- The REPORT that is replaced is the one in the transmit queue; `r` is the state in which the ASK is taken. That a HEAD report
starts a fresh watch on its readings is log 21. -/
def Obligations.AskQueuesTheReport : Prop :=
  ∀ (h : ConsoleHeader) (a : Ask) (s r : State), Addressed h s → r = s.received →
    ∃ t, exec (askRow h a) s = .next t ∧
      (¬ (s.ctl.station.answers = true ∨ (s.ctl.station = .configFault ∧ a = .summary)) → t = r) ∧
      (s.ctl.station.answers = true ∨ (s.ctl.station = .configFault ∧ a = .summary) →
        t = { r with ctl := { r.ctl with reportSlot := some a }, link := t.link, head := t.head } ∧
          (s.ctl.reportSlot = none → ReportQueued a (fun _ => True) r.link r t) ∧
          (s.ctl.reportSlot ≠ none →
            match s.link.queue.find? fun x => match x.frame with | .report _ _ => true | _ => false with
            | none => ReportQueued a (fun _ => True) r.link r t
            | some y =>
              if y.attempting then
                t.head = s.head ∧
                  t.link =
                    { r.link with
                      queue :=
                        s.link.queue.map fun x => if x.number = y.number then { x with mark := .replace } else x }
              else ReportQueued a (fun x => x.number ≠ y.number) r.link r t))

/-- The roster cursor is judged against the roster as it stands at the echo (log 29); that a reading has been written again since the
report was built is kept in its `rewritten` mark (log 21). A REPORT that replaces the delivered one is built after the flags and
the cursor have been changed; `h'` is the head with the flags that the delivered report carried as set cleared. With no
attempt recorded the echo is that of the queue's head (log 6). -/
def Obligations.ReportEchoFreesTheSlot : Prop :=
  ∀ (e : TxEntry) (a : Ask) (c : ReportContent) (cleared : ReadingView → HeadReading → HeadReading) (h' : FinishingHead)
    (s : State), Echoes e s → e.frame = .report a c →
    (∀ v x, cleared v x = if v.updated = true ∧ x.rewritten = false then { x with updated := false } else x) →
    h' =
      (match c with
      | .head h =>
        { s.head with
          readings :=
            { position1 := cleared h.position1 s.head.readings.position1
              position2 := cleared h.position2 s.head.readings.position2
              light := cleared h.light s.head.readings.light
              medium := cleared h.medium s.head.readings.medium
              firm := cleared h.firm s.head.readings.firm
              outcome := s.head.readings.outcome } }
      | _ => s.head) →
    ∃ t, exec .reportEcho s = .next t ∧ t.packs = s.packs ∧ t.pockets = s.pockets ∧ t.rack = s.rack ∧
      t.store = s.store ∧ t.config = s.config ∧ t.part = s.part ∧ t.link.sendRun = 0 ∧
      t.ctl.rosterCursor =
        (match a, c with
        | .bin n, .bin b =>
          if b.first + b.records.length ≤ s.rosterLength n.toNat then some (n.toNat, b.first + b.records.length) else none
        | _, _ => s.ctl.rosterCursor) ∧
      (e.mark ≠ .replace →
        t.ctl = { s.ctl with reportSlot := none, rosterCursor := t.ctl.rosterCursor } ∧
          t.link = (s.echoed e).link) ∧
      t.head =
        (match e.mark, s.ctl.reportSlot with
        | .replace, some b => watchedBy b h'
        | _, _ => h') ∧
      (e.mark = .replace → ∀ b, s.ctl.reportSlot = some b → s.ctl.station ≠ .safe →
        t.ctl = { s.ctl with rosterCursor := t.ctl.rosterCursor } ∧
          ∃ d, ReportShows t b d ∧ FrameQueued (.report b d) (fun _ => True) (s.echoed e).link t.link)

/-- `r` is the state in which the ORDER is taken. That a RESUME refused for a jam leaves the sensor levels as it read them is the
model's choice (log 4); the order of the hold judgement in a resume is its reading (log 18). With no attempt
recorded an echo is that of the queue's head (log 6). -/
def Obligations.OrdersAreAnsweredByTheStationState : Prop :=
  (∀ st : StationState, st.answers = false ↔ st = .loading ∨ st = .configFault ∨ st = .safe) ∧
    (∀ q : Pocket,
      q.isBound = true ↔
        q.state = .reserved ∨ q.state = .filling ∨ (∃ r, q.state = .absorbing r) ∨ (∃ j, q.state = .retiring j) ∨
          ∃ j : Job, j ≠ .clear ∧ (q.state = .waiting j ∨ q.state = .atHead j)) ∧
  (∀ (h : ConsoleHeader) (readings : ResumeReadings) (s r : State), Addressed h s → r = s.received →
    s.ctl.station.answers = true → s.ctl.answerSlot = none →
    (∃ t, exec (.orderStandby h) s = .next t ∧
      match s.ctl.station with
      | .run => ∃ u, EntersDrain r u ∧ OnlyAnswered .standby .accepted u t
      | .drain | .standby => OnlyAnswered .standby .accepted r t
      | _ => OnlyAnswered .standby .wrongState r t) ∧
      (∃ t, exec (.orderResume h readings) s = .next t ∧
        match s.ctl.station with
        | .run => OnlyAnswered .resume .accepted r t
        | .drain => ∃ u, EntersRun r u ∧ OnlyAnswered .resume .accepted u t
        | .standby =>
          if s.testing then OnlyAnswered .resume .busy r t
          else ∃ u, EntersRun r u ∧ OnlyAnswered .resume .accepted u t
        | .halted =>
          if s.part.jamLines.any ∨ readings.headJam ∨ readings.carriageJam then
            OnlyAnswered .resume .jamPresent { r with part := SensorsRead readings s } t
          else ∃ u, (QueueHoldsWaiting r → Resumed readings r u) ∧ OnlyAnswered .resume .accepted u t
        | _ => OnlyAnswered .resume .wrongState r t) ∧
      (∃ t, exec (.orderSelfTest h) s = .next t ∧
        match s.ctl.station with
        | .standby =>
          if s.testing then OnlyAnswered .selfTest .busy r t
          else
            ∃ u, u = { r with head := { r.head with state := u.head.state, testWaiting := u.head.testWaiting } } ∧
              (s.head.state = .idle → u.head.state = .testing .light 2 ∧ u.head.testWaiting = false) ∧
              (s.head.state ≠ .idle → u.head.state = s.head.state ∧ u.head.testWaiting = true) ∧
              OnlyAnswered .selfTest .accepted u t
        | _ => OnlyAnswered .selfTest .wrongState r t) ∧
      ∃ t, exec (.orderClearCounters h) s = .next t ∧
        OnlyAnswered .clearCounters .accepted { r with ctl := { r.ctl with counters := Counters.zero } } t) ∧
    (∀ (h : ConsoleHeader) (readings : ResumeReadings) (c : Instr) (s : State), Addressed h s →
      c ∈ [.orderStandby h, .orderResume h readings, .orderSelfTest h, .orderClearCounters h] →
      (s.ctl.station.answers = true → s.ctl.answerSlot ≠ none →
        exec c s =
          .next
            { s.received with ctl := { s.ctl with counters := s.ctl.counters.bump .ordersIgnored } }) ∧
        (s.ctl.station = .loading ∨ s.ctl.station = .configFault ∨ s.ctl.station = .safe →
          exec c s = .next s.received)) ∧
    ∀ (e : TxEntry) (o : OrderKind) (code : AnswerCode) (s : State), Echoes e s → e.frame = .answer o code →
      exec .answerEcho s = .next { s.echoed e with ctl := { s.ctl with answerSlot := none } }

/-- That a press refused for a jam leaves the sensor levels as it read them is the model's choice (log 4); the order of the hold
judgement in a resume is its reading (log 18). -/
def Obligations.ServiceButtonActsByTheStationState : Prop :=
  ∀ (readings : ResumeReadings) (s : State), s.running = true →
    (s.testing = true → exec (.serviceButton readings) s = .next s) ∧
      (s.testing = false →
        ∃ t, exec (.serviceButton readings) s = .next t ∧
          match s.ctl.station with
          | .run => EntersDrain s t
          | .drain | .standby => EntersRun s t
          | .halted =>
            if s.part.jamLines.any ∨ readings.headJam ∨ readings.carriageJam then
              t = { s with part := SensorsRead readings s }
            else QueueHoldsWaiting s → Resumed readings s t
          | _ => t = s)

/-! ### The gate and the pockets -/

def Obligations.MarkIsReadableExactlyWhenItsChecksHold : Prop :=
  (decodeMark none = none) ∧
    ∀ m : SheetMark,
      (decodeMark (some m) = none ↔
        (m.b0.toNat / 16 + m.b0.toNat % 16 + (m.b1.toNat / 16 + m.b1.toNat % 16) +
              (m.b2.toNat / 16 + m.b2.toNat % 16) +
            (m.b3.toNat / 16 + m.b3.toNat % 16)) %
            16 ≠
          0 ∨
          (m.b1.getLsbD 0 = true ∨ m.b2.getLsbD 7 = true ∨ m.b3.getLsbD 0 = true ∨ m.b3.getLsbD 1 = true ∨
            m.b3.getLsbD 2 = true ∨ m.b3.getLsbD 3 = true) ∨
          64 * (m.b0.toNat % 64) + m.b1.toNat / 4 = 0 ∨ m.b2.toNat % 128 = 0 ∨ 120 < m.b2.toNat % 128) ∧
        ∀ k, decodeMark (some m) = some k →
          k =
            { id := { feed := 16 + m.b0.toNat / 64, serial := 64 * (m.b0.toNat % 64) + m.b1.toNat / 4 }
              index := m.b2.toNat % 128
              last := m.b1.getLsbD 1 }

def Obligations.GatePassesSheetsOfNoOwnPack : Prop :=
  ∀ (raw : Option SheetMark) (s : State), s.running = true →
    (s.ctl.station.gates = true ↔ s.ctl.station = .run ∨ s.ctl.station = .drain ∨ s.ctl.station = .standby) ∧
    (s.ctl.station.gates = false →
      exec (.sheetAtGate raw) s = .next { s with part := { s.part with divert := none } }) ∧
      (s.ctl.station.gates = true → decodeMark raw = none →
        exec (.sheetAtGate raw) s =
          .next
            { s with
              part := { s.part with divert := none }
              ctl := { s.ctl with counters := s.ctl.counters.bump .unreadable } }) ∧
      ∀ m, s.ctl.station.gates = true → decodeMark raw = some m →
        (s.entry m.id = none ∨ (∃ e bids, s.entry m.id = some e ∧ e.state = .bidding bids) ∨
          (∃ e o a, s.entry m.id = some e ∧ e.state = .placed o a ∧ o ≠ s.address)) →
        exec (.sheetAtGate raw) s = .next { s with part := { s.part with divert := none } }

/-- `p` is the bound pocket, `q` its record before the sheet, `n` its sheets after it, `k` the counters once an own sheet that
was passed has been counted. That the hold is judged at the append, before the selection that follows, is log 18. -/
def Obligations.OpenPocketTakesItsSheets : Prop :=
  ∀ (raw : Option SheetMark) (m : Mark) (e : Entry) (p : PocketId) (bin : Nat) (stage : Stage) (q : Pocket)
    (b : Binding) (diverted : Bool) (n : Nat) (k : Counters) (s : State), s.running = true →
    s.ctl.station.gates = true → decodeMark raw = some m → s.entry m.id = some e →
    e.state = .placed s.address (some { pocket := p, bin := bin, stage := stage }) → q = s.pockets.get p →
    q.bound = some b → (q.state = .reserved → q.sheets = 0) → QueueHoldsWaiting s →
    diverted = (decide (q.state = .reserved) || decide (q.sheets < s.cfg.pocketCapacity)) →
    n = (if diverted then q.sheets + 1 else q.sheets) →
    k = (if diverted then s.ctl.counters else s.ctl.counters.bump .ownPassed) →
    (q.state = .reserved ∨ q.state = .filling ∨ ∃ r, q.state = .absorbing r) →
    ∃ t, exec (.sheetAtGate raw) s = .next t ∧ t.packs = s.packs ∧ t.store = s.store ∧ t.config = s.config ∧
      t.rack.tray = s.rack.tray ∧ t.head.readings = s.head.readings ∧
      t.part = { s.part with divert := if diverted then some p else none } ∧ (t.pockets.get p).sheets = n ∧
      (∀ r, r ≠ p →
        (t.pockets.get r).bound = (s.pockets.get r).bound ∧ (t.pockets.get r).sheets = (s.pockets.get r).sheets ∧
          (t.pockets.get r).job = (s.pockets.get r).job) ∧
      (let faultCloses : Prop :=
        m.last = true ∨ (e.offer.count ≠ 0 ∧ m.index = e.offer.count) ∨ s.cfg.pocketCapacity ≤ n
      let closes : Job → Option Binding → Prop := fun j bd =>
        ClosedAndQueued p j k s t ∧
          t.pockets.get p = { q with state := (t.pockets.get p).state, bound := bd, sheets := n, timer := none }
      let timer := if diverted then some (.gap (2 * s.cfg.gapLimit)) else q.timer
      let stays : PocketState → Option Binding → Prop := fun st bd =>
        t = { s with part := t.part, pockets := t.pockets, ctl := { s.ctl with counters := k } } ∧
          t.pockets.get p = { q with state := st, bound := bd, sheets := n, timer := timer } ∧
          OtherPocketsUnchanged p s t
      let judged : Prop :=
        if e.offer.count ≠ 0 ∧ n = e.offer.count then closes .finish (some { b with next := b.next + 1 })
        else if m.last = true then
          if e.offer.count ≠ 0 then closes (.setAside .short) (some { b with next := b.next + 1 })
          else closes .finish (some { b with next := b.next + 1 })
        else stays .filling (some { b with next := b.next + 1 })
      match q.state with
      | .reserved =>
        if m.index = 1 then judged
        else
          (e.offer.count = 1 ∨ faultCloses → closes (.setAside .sequence) q.bound) ∧
            (¬ (e.offer.count = 1 ∨ faultCloses) → stays (.absorbing .sequence) q.bound)
      | .filling =>
        if m.index = b.next then
          if diverted then judged else closes (.setAside .truncated) q.bound
        else
          (faultCloses → closes (.setAside .sequence) q.bound) ∧ (¬ faultCloses → stays (.absorbing .sequence) q.bound)
      | .absorbing r =>
        (faultCloses → closes (.setAside r) q.bound) ∧ (¬ faultCloses → stays (.absorbing r) q.bound)
      | _ => True)

def Obligations.ClosedPocketPassesExtraSheets : Prop :=
  ∀ (raw : Option SheetMark) (m : Mark) (e : Entry) (p : PocketId) (bin : Nat) (stage : Stage) (k : Counters)
    (s : State), s.running = true → s.ctl.station.gates = true → decodeMark raw = some m → s.entry m.id = some e →
    e.state = .placed s.address (some { pocket := p, bin := bin, stage := stage }) →
    k = (s.ctl.counters.bump .extra).bump .ownPassed →
    ((s.pockets.get p).state = .atHead .finish →
      exec (.sheetAtGate raw) s =
        .next
          { s with
            part := { s.part with divert := none }
            ctl := { s.ctl with counters := k }
            pockets := s.pockets.set { s.pockets.get p with extraSeen := true } p }) ∧
      ((∃ r, (s.pockets.get p).state = .waiting (.setAside r) ∨ (s.pockets.get p).state = .atHead (.setAside r)) ∨
          (∃ j, (s.pockets.get p).state = .retiring j) →
        exec (.sheetAtGate raw) s =
          .next { s with part := { s.part with divert := none }, ctl := { s.ctl with counters := k } }) ∧
      ((s.pockets.get p).state = .waiting .finish → QueueHoldsWaiting s →
        ∃ t, exec (.sheetAtGate raw) s = .next t ∧ (t.pockets.get p).job = some (.setAside .extra) ∧
          t.pockets.get p = { s.pockets.get p with state := (t.pockets.get p).state } ∧
          OthersServed (fun q => q = p) s t ∧ IdleHeadServed t ∧ t.config = s.config ∧ t.head.readings = s.head.readings ∧
          t.head.arrivals = s.head.arrivals ∧
          CommitmentsReleased p s t ∧ t.ctl = { s.ctl with counters := k.bump (.setAside .extra) } ∧
          t.part = { s.part with divert := none } ∧
          t.packs = s.packs ∧ t.link = s.link ∧ t.store = s.store ∧ t.rack.tray = s.rack.tray ∧
          EntryConverted p .extra s t ∧
          ∀ x ∈ t.head.queue, x.pocket = p →
            x.job = .setAside .extra ∧ x.lane = .normal ∧ BlockedBy p (.setAside .extra) x.blocked t ∧
              ∃ y ∈ s.head.queue, y.pocket = p ∧ x.stamp = y.stamp ∧ x.strokes = y.strokes)

/-- That the hold is judged at the append, before the selection that follows, is the model's reading (log 18). -/
def Obligations.PocketTimersEndTheWait : Prop :=
  ∀ (p : PocketId) (s : State), s.running = true → QueueHoldsWaiting s →
    (s.ctl.station.gates = false →
      exec (.gapTimerExpiry p) s = .next s ∧ exec (.firstSheetTimerExpiry p) s = .next s) ∧
      (s.ctl.station.gates = true →
        (∃ t, exec (.gapTimerExpiry p) s = .next t ∧
          let closes : AsideReason → Prop := fun r =>
            ClosedAndQueued p (.setAside r) s.ctl.counters s t ∧ t.part = s.part ∧
              t.pockets.get p = { s.pockets.get p with state := (t.pockets.get p).state, timer := none }
          match (s.pockets.get p).state with
          | .filling => closes .gap
          | .absorbing r => closes r
          | _ => t = s) ∧
          ∃ t, exec (.firstSheetTimerExpiry p) s = .next t ∧
            match (s.pockets.get p).state with
            | .reserved =>
              t.pockets.get p =
                  { s.pockets.get p with state := .retiring (.setAside .noSheets), timer := none } ∧
                OtherPocketsUnchanged p s t ∧ CommitmentsReleased p s t ∧
                t.ctl = { s.ctl with counters := s.ctl.counters.bump (.setAside .noSheets) } ∧ t.store = s.store ∧
                t.part = s.part ∧ t.config = s.config ∧ t.rack.tray = s.rack.tray ∧
                t.head = { s.head with staples := t.head.staples } ∧
                ∀ b, (s.pockets.get p).bound = some b → EndRequested b.pack (.aside b.pack .noSheets) s.link s t
            | _ => t = s)

/-! ### The finishing head -/

def Obligations.SelectionServesFirstClassThenEarliest : Prop :=
  (∀ st : StationState,
    st.selects = true ↔ st = .loading ∨ st = .joining ∨ st = .run ∨ st = .drain ∨ st = .standby) ∧
  ∀ (e : QueueEntry) (s : State), (s.head.queue.map QueueEntry.stamp).Nodup →
    (chosen s.head.queue = some e ↔
      e ∈ s.head.queue ∧ e.blocked = none ∧
        ∀ x ∈ s.head.queue, x.blocked = none →
          ((x.lane = .urgent ∨ x.passOvers = 8) → (e.lane = .urgent ∨ e.passOvers = 8)) ∧
            (((x.lane = .urgent ∨ x.passOvers = 8) ∨ ¬ (e.lane = .urgent ∨ e.passOvers = 8)) → e.stamp ≤ x.stamp)) ∧
      (chosen s.head.queue = none ↔ ∀ x ∈ s.head.queue, x.blocked ≠ none) ∧
      (chosen s.head.queue = some e → s.ctl.station.selects = true →
        s.select.head.queue =
            ((s.head.queue.filter fun x => decide (x.stamp ≠ e.stamp)).map fun x =>
              if x.blocked = none ∧ x.stamp < e.stamp then { x with passOvers := min 8 (x.passOvers + 1) } else x) ∧
          s.select.pockets.get e.pocket = { s.pockets.get e.pocket with state := .atHead e.job } ∧
          OtherPocketsUnchanged e.pocket s s.select ∧
          (∃ op,
            s.select.head.state = .busy op ∧ op.pocket = e.pocket ∧ op.job = e.job ∧ op.lane = e.lane ∧
              op.stamp = e.stamp ∧ op.passOvers = e.passOvers ∧
              op.phase =
                match e.job with
                | .finish =>
                  if 0 < s.undriven e.pocket then
                    .stroke ((s.pockets.get e.pocket).driven + 1) ((e.strokes.map StrokesDone.openStaple).getD false)
                  else .eject
                | _ => .trayDrop) ∧
          s.select.ctl = s.ctl ∧ s.select.link = s.link ∧ s.select.packs = s.packs ∧ s.select.rack = s.rack)

/-- `left` is the number of staple positions still to drive before the stroke. -/
def Obligations.StrokeCompleteJudgesTheClinch : Prop :=
  ∀ (v : SenseReading) (op : Operation) (position left : Nat) (retry : Bool) (c : StationConfig) (s : State),
    s.running = true → s.head.state = .busy op → op.phase = .stroke position retry → s.config = some c →
    left = s.undriven op.pocket → (∀ x ∈ s.head.queue, x.pocket ≠ op.pocket) →
    ∃ t, exec (.strokeComplete v) s = .next t ∧ t.part = s.part ∧ t.packs = s.packs ∧ t.config = s.config ∧
      StoreWritten s t ∧ t.rack.tray = s.rack.tray ∧ t.head.arrivals = s.head.arrivals ∧
      t.head.staples.remaining = s.head.staples.remaining - 1 ∧ t.head.staples.state = s.head.staples.state ∧
      t.head.readings =
        (if position = 1 then
          { s.head.readings with position1 := { value := v, updated := true, rewritten := true } }
        else { s.head.readings with position2 := { value := v, updated := true, rewritten := true } }) ∧
      (c.lowThreshold ≤ v.toNat →
        t.head.staples.committed = s.head.staples.committed - 1 ∧ t.head.queue = s.head.queue ∧ t.rack = s.rack ∧
          t.link = s.link ∧
          t.ctl =
            { s.ctl with
              counters :=
                if c.overdriveThreshold ≤ v.toNat then s.ctl.counters.bump .overdrive else s.ctl.counters } ∧
          t.pockets.get op.pocket = { s.pockets.get op.pocket with driven := (s.pockets.get op.pocket).driven + 1 } ∧
          OtherPocketsUnchanged op.pocket s t ∧ t.head.testWaiting = s.head.testWaiting ∧
          t.head.state =
            (if 1 < left then
              .busy { op with phase := .stroke ((s.pockets.get op.pocket).driven + 2) false, limit := 2 }
            else .busy { op with phase := .eject, limit := 4 })) ∧
      (v.toNat < c.lowThreshold → retry = false →
        t.head.staples.committed = s.head.staples.committed ∧ t.head.queue = s.head.queue ∧ t.rack = s.rack ∧
          t.link = s.link ∧ t.ctl = { s.ctl with counters := s.ctl.counters.bump .clinchRetries } ∧
          t.pockets = s.pockets ∧ t.head.testWaiting = s.head.testWaiting ∧
          t.head.state = .busy { op with phase := .stroke position true, limit := 2, retried := true }) ∧
      (v.toNat < c.lowThreshold → retry = true →
        t.head.staples.committed = s.head.staples.committed - left ∧
          (∀ n,
            t.bin n =
              (s.bin n).map fun b =>
                if s.targetBin op.pocket = some n then { b with committed := b.committed - 1 } else b) ∧
          t.ctl = { s.ctl with counters := s.ctl.counters.bump (.setAside .clinch) } ∧ t.link = s.link ∧
          (s.rack.tray ≠ c.trayCapacity →
            t.pockets.get op.pocket = { s.pockets.get op.pocket with state := .atHead (.setAside .clinch) } ∧
              OtherPocketsUnchanged op.pocket s t ∧
              t.head.state =
                .busy { op with job := .setAside .clinch, lane := .normal, phase := .trayDrop, limit := 6 } ∧
              t.head.queue = s.head.queue ∧ t.head.testWaiting = s.head.testWaiting) ∧
          (s.rack.tray = c.trayCapacity →
            t.pockets.get op.pocket = { s.pockets.get op.pocket with state := .waiting (.setAside .clinch) } ∧
              BlocksFresh s t ∧ HeadFreed s t ∧ (QueueHoldsWaiting s → OthersServed (fun q => q = op.pocket) s t) ∧
              ∃ x ∈ t.head.queue, x.pocket = op.pocket ∧ x.job = .setAside .clinch ∧ x.stamp = op.stamp ∧
                x.passOvers = op.passOvers ∧ x.lane = .normal ∧ x.blocked = some .tray))

/-- That the hold is judged at the put-back, before the selection that follows, is the model's reading (log 18). -/
def Obligations.NoStapleEmptiesTheBudget : Prop :=
  ∀ s : State, s.running = true →
    (s.head.state = .stopped → exec .noStaple s = .next s) ∧
      (s.head.state ≠ .stopped →
        ∃ t, exec .noStaple s = .next t ∧ t.ctl = { s.ctl with hold := t.ctl.hold } ∧
          t.head.staples = { remaining := 0, committed := s.head.staples.committed, state := .empty } ∧
          t.head.readings = s.head.readings ∧ t.rack = s.rack ∧ t.packs = s.packs ∧ t.part = s.part ∧
          t.config = s.config ∧ t.head.arrivals = s.head.arrivals ∧ BlocksFresh s t ∧ StoreWritten s t ∧
          IdleHeadServed t ∧
          ((∀ op k retry, s.head.state = .busy op → op.phase ≠ .stroke k retry) →
            t.ctl = s.ctl ∧ t.link = s.link ∧ (QueueHoldsWaiting s → OthersServed (fun _ => False) s t)) ∧
          (∀ level limit, s.head.state = .testing level limit → t.head.state = s.head.state ∧ t.pockets = s.pockets) ∧
          ∀ op, s.head.state = .busy op →
            (op.phase.isStroke = false → t.head.state = s.head.state ∧ t.pockets = s.pockets ∧ t.ctl = s.ctl) ∧
              ∀ position retry, op.phase = .stroke position retry → 0 < s.undriven op.pocket →
                (∀ x ∈ s.head.queue, x.pocket ≠ op.pocket) →
                t.pockets.get op.pocket = { s.pockets.get op.pocket with state := .waiting .finish } ∧
                  HeadFreed s t ∧ (QueueHoldsWaiting s → OthersServed (fun q => q = op.pocket) s t) ∧
                  HoldRaised (ConditionRises (s.head.queue.length + 1) s.rack.tray s) s.ctl.hold t.ctl.hold ∧
                  HoldQueued (ConditionRises (s.head.queue.length + 1) s.rack.tray s) s.ctl.hold s.cfg.holdTime s.link
                    t.link ∧
                  ∃ x ∈ t.head.queue,
                    x =
                      { pocket := op.pocket, job := .finish, lane := op.lane, stamp := op.stamp,
                        passOvers := op.passOvers, blocked := some .staples,
                        strokes := some { openStaple := retry, retried := op.retried } })

/-- That the level shown at the end of an eject is recorded is the model's choice (log 4). -/
def Obligations.EjectedPackIsDroppedAndDelivered : Prop :=
  (∀ (op : Operation) (s : State), s.running = true → s.head.state = .busy op → op.phase = .eject →
    exec (.ejectComplete false) s =
      .next
        { s with
          part := { s.part with occupied := s.part.occupied.set false op.pocket }
          head :=
            { s.head with state := .busy { op with phase := .drop, limit := 2 * s.cfg.dropLimit } } }) ∧
    ∀ (op : Operation) (b : Binding) (e : Entry) (a : Annex) (r : Bin) (flags : DeliveryFlags) (s : State),
      s.running = true → s.head.state = .busy op → op.phase = .drop →
      (s.pockets.get op.pocket).bound = some b → s.entry b.pack = some e → e.state = .placed s.address (some a) →
      a.stage = .live → s.bin a.bin = some r → s.ctl.station ≠ .safe → (∀ x ∈ s.head.queue, x.pocket ≠ op.pocket) →
      flags =
        { extraSeen := (s.pockets.get op.pocket).extraSeen
          retried := op.retried
          overflowBin :=
            match mapLookup s.cfg.map e.offer.classCode e.offer.roll with
            | none => false
            | some k => decide (k.overflow = some a.bin) } →
      ∃ t, exec .dropConfirmed s = .next t ∧ t.part = s.part ∧ t.config = s.config ∧
        t.ctl = { s.ctl with counters := s.ctl.counters.bump .delivered } ∧ t.rack.tray = s.rack.tray ∧
        t.head.staples = s.head.staples ∧ t.head.readings = s.head.readings ∧ t.head.arrivals = s.head.arrivals ∧
        t.bin a.bin =
          some
            { fillPacks := r.fillPacks + 1
              fillSheets := r.fillSheets + (s.pockets.get op.pocket).sheets
              committed := r.committed - 1
              roster :=
                r.roster ++
                  [{ id := b.pack, classCode := e.offer.classCode, roll := e.offer.roll,
                     sheets := (s.pockets.get op.pocket).sheets, flags := flags }] } ∧
        (∀ n, n ≠ a.bin → t.bin n = s.bin n) ∧
        StoreWritten s t ∧
        t.pockets.get op.pocket = { s.pockets.get op.pocket with state := .retiring op.job } ∧
        EndRequested b.pack (.delivered b.pack a.bin flags) s.link s t ∧
        (QueueHoldsWaiting s → OthersServed (fun q => q = op.pocket) s t) ∧ BlocksFresh s t ∧ HeadFreed s t ∧
        ∀ x, t.head.state = .busy x → x.pocket ≠ op.pocket

/-- That the hold is judged at the rise of the tray count, ahead of the rest of the step, is the model's reading (log 18); that the
level shown at the drop is recorded is its choice (log 4). -/
def Obligations.TrayDropEndsTheOperation : Prop :=
  ∀ (op : Operation) (c : StationConfig) (s : State), s.running = true → s.head.state = .busy op →
    op.phase = .trayDrop → s.config = some c → (∀ x ∈ s.head.queue, x.pocket ≠ op.pocket) →
    ∃ t, exec (.trayDropConfirmed false) s = .next t ∧
      t.part = { s.part with occupied := s.part.occupied.set false op.pocket } ∧
      t.rack = { s.rack with tray := s.rack.tray + 1 } ∧ t.config = s.config ∧ StoreWritten s t ∧
      t.head.staples = s.head.staples ∧ t.head.readings = s.head.readings ∧ t.head.arrivals = s.head.arrivals ∧
      (QueueHoldsWaiting s → OthersServed (fun q => q = op.pocket) s t) ∧
      t.ctl = { s.ctl with hold := t.ctl.hold } ∧ BlocksFresh s t ∧ HeadFreed s t ∧
      (∀ x, t.head.state = .busy x → x.pocket ≠ op.pocket) ∧
      HoldRaised (ConditionRises s.head.queue.length (s.rack.tray + 1) s) s.ctl.hold t.ctl.hold ∧
      (op.job = .clear →
        t.pockets.get op.pocket = Pocket.empty ∧ t.packs.entries = s.packs.entries ∧
          (QueueHoldsWaiting s →
            ∃ l,
              HoldQueued (ConditionRises s.head.queue.length (s.rack.tray + 1) s) s.ctl.hold c.holdTime s.link l ∧
                Rescanned s.packs.bids l t)) ∧
      ∀ r, op.job = .setAside r →
        t.pockets.get op.pocket = { s.pockets.get op.pocket with state := .retiring (.setAside r) } ∧
          t.packs.bids = s.packs.bids ∧
          ∃ l,
            HoldQueued (ConditionRises s.head.queue.length (s.rack.tray + 1) s) s.ctl.hold c.holdTime s.link l ∧
              ∀ b, (s.pockets.get op.pocket).bound = some b → s.ctl.station ≠ .safe →
                EndRequested b.pack (.aside b.pack r) l s t

/-- That the level shown by a failed eject or tray drop is recorded is the model's choice (log 4), and so is that the divert selection
stands (log 32). -/
def Obligations.HeadFaultStopsTheHead : Prop :=
  ∀ (c : Instr) (cause : HaltCause) (s : State), s.running = true →
    (c = .headJam ∧ cause = .headJam ∧ s.head.state ≠ .stopped ∨
      ∃ op, s.head.state = .busy op ∧
        (c = .strokeLimitExpiry ∧ cause = .strokeTimeout ∧ (∃ k retry, op.phase = .stroke k retry) ∨
          c = .ejectLimitExpiry ∧ cause = .ejectFault ∧ op.phase = .eject ∨
          c = .dropLimitExpiry ∧ cause = .dropTimeout ∧ op.phase = .drop ∨
          c = .trayDropLimitExpiry ∧ cause = .trayTimeout ∧ op.phase = .trayDrop ∨
          c = .carriageJam ∧ cause = .ejectFault ∧
            (op.phase = .eject ∨ op.phase = .drop ∨ op.phase = .trayDrop) ∨
          c = .ejectComplete true ∧ cause = .ejectFault ∧ op.phase = .eject ∨
          c = .trayDropConfirmed true ∧ cause = .ejectFault ∧ op.phase = .trayDrop)) →
    ∃ t, exec c s = .next t ∧ t.head.state = .stopped ∧ t.head.testWaiting = false ∧ FaultKeeps s t ∧
      FaultTaken cause s t ∧
      (c ≠ .ejectComplete true → c ≠ .trayDropConfirmed true → t.part = s.part) ∧
      ∀ op, s.head.state = .busy op → c = .ejectComplete true ∨ c = .trayDropConfirmed true →
        t.part = { s.part with occupied := s.part.occupied.set true op.pocket }

def Obligations.StrayHeadEventsAreIgnored : Prop :=
  ∀ (c : Instr) (s : State), s.running = true →
    ((∃ v, c = .strokeComplete v) ∧ (∀ op k retry, s.head.state = .busy op → op.phase ≠ .stroke k retry) ∨
      (∃ b, c = .ejectComplete b) ∧ (∀ op, s.head.state = .busy op → op.phase ≠ .eject) ∨
      c = .dropConfirmed ∧ (∀ op, s.head.state = .busy op → op.phase ≠ .drop) ∨
      (∃ b, c = .trayDropConfirmed b) ∧ (∀ op, s.head.state = .busy op → op.phase ≠ .trayDrop) ∨
      c = .carriageJam ∧
        (∀ op, s.head.state = .busy op → op.phase ≠ .eject ∧ op.phase ≠ .drop ∧ op.phase ≠ .trayDrop) ∨
      (∃ v, c = .referenceReading v) ∧ (∀ level limit, s.head.state ≠ .testing level limit) ∨
      (c = .noStaple ∨ c = .headJam) ∧ s.head.state = .stopped) →
    exec c s = .next s

def Obligations.SelfTestJudgesItsLevels : Prop :=
  (∀ v : SenseReading,
    (judgeLight v = .pass ↔ 140 ≤ v.toNat ∧ v.toNat ≤ 260) ∧ (judgeLight v = .fail ↔ v.toNat < 100 ∨ 300 < v.toNat) ∧
      (judgeMedium v = .pass ↔ 440 ≤ v.toNat ∧ v.toNat ≤ 560) ∧
      (judgeMedium v = .fail ↔ v.toNat < 400 ∨ 600 < v.toNat) ∧
      (judgeFirm v = .pass ↔ 760 ≤ v.toNat ∧ v.toNat ≤ 880) ∧ (judgeFirm v = .fail ↔ v.toNat < 720 ∨ 920 < v.toNat)) ∧
    (∀ (v : SenseReading) (limit : Nat) (s : State), s.running = true → s.head.state = .testing .light limit →
      exec (.referenceReading v) s =
          .next
            { s with
              head :=
                { s.head with
                  state := .testing (.medium (judgeLight v)) 2
                  readings :=
                    { s.head.readings with light := { value := v, updated := true, rewritten := true } } } } ∧
        exec .readingLimitExpiry s =
          .next { s with head := { s.head with state := .testing (.medium .fail) 2 } }) ∧
    (∀ (v : SenseReading) (l : Judgement) (limit : Nat) (s : State), s.running = true →
      s.head.state = .testing (.medium l) limit →
      exec (.referenceReading v) s =
          .next
            { s with
              head :=
                { s.head with
                  state := .testing (.firm l (judgeMedium v)) 2
                  readings :=
                    { s.head.readings with medium := { value := v, updated := true, rewritten := true } } } } ∧
        exec .readingLimitExpiry s =
          .next { s with head := { s.head with state := .testing (.firm l .fail) 2 } }) ∧
    ∀ (v : SenseReading) (l m f : Judgement) (limit : Nat) (c : Instr) (s : State), s.running = true →
      s.head.state = .testing (.firm l m) limit → s.head.testWaiting = false →
      (c = .referenceReading v ∧ f = judgeFirm v ∨ c = .readingLimitExpiry ∧ f = .fail) →
      ∃ t, exec c s = .next t ∧
        (QueueHoldsWaiting s → Rescanned s.packs.bids s.link t ∧ OthersServed (fun _ => False) s t) ∧ t.testing = false ∧
        t.head.state ≠ .stopped ∧ IdleHeadServed t ∧ t.config = s.config ∧ t.head.arrivals = s.head.arrivals ∧
        t.ctl = s.ctl ∧ t.packs.entries = s.packs.entries ∧
        t.head.staples = s.head.staples ∧ t.rack = s.rack ∧ t.store = s.store ∧ t.part = s.part ∧
        t.head.readings =
          { s.head.readings with
            firm :=
              if c = .readingLimitExpiry then s.head.readings.firm
              else { value := v, updated := true, rewritten := true }
            outcome :=
              if l = .fail ∨ m = .fail ∨ f = .fail then .fail
              else if l = .marginal ∨ m = .marginal ∨ f = .marginal then .marginal
              else .pass }

/-! ### Supplies, bins, tray, jams -/

def Obligations.SuppliesAndEmptyingsAreTaken : Prop :=
  (∀ st : StationState, st.freezes = true ↔ st = .halting ∨ st = .safe) ∧
  (∀ (c : StationConfig) (s : State), s.running = true → s.config = some c →
    (∃ t, exec .cartridgeInserted s = .next t ∧
      t.head.staples = { remaining := c.cartridgeSize, committed := s.head.staples.committed, state := .ready } ∧
      StoreWritten s t ∧ t.config = s.config ∧ t.head.arrivals = s.head.arrivals ∧
      (QueueHoldsWaiting s → OthersServed (fun _ => False) s t) ∧ IdleHeadServed t ∧ t.rack = s.rack ∧ t.ctl = s.ctl ∧
      t.packs.entries = s.packs.entries ∧ t.head.readings = s.head.readings ∧
      t.part = { s.part with cartridgeSense := true } ∧ BlocksFresh s t ∧ Rescanned s.packs.bids s.link t ∧
      (s.ctl.station.freezes = true → t.head.queue = s.head.queue)) ∧
      (∀ n r, s.bin n = some r →
        ∃ t, exec (.binEmptied n) s = .next t ∧
          t.bin n = some { fillPacks := 0, fillSheets := 0, committed := r.committed, roster := [] } ∧
          (∀ k, k ≠ n → t.bin k = s.bin k) ∧ t.rack.tray = s.rack.tray ∧
          StoreWritten s t ∧ t.config = s.config ∧ t.head.arrivals = s.head.arrivals ∧
          (QueueHoldsWaiting s → OthersServed (fun _ => False) s t) ∧ IdleHeadServed t ∧
          t.head.readings = s.head.readings ∧ t.head.staples = s.head.staples ∧ t.packs.entries = s.packs.entries ∧
          t.part = s.part ∧ BlocksFresh s t ∧
          Rescanned s.packs.bids s.link t ∧ (s.ctl.station.freezes = true → t.head.queue = s.head.queue) ∧
          t.ctl =
            { s.ctl with
              rosterCursor :=
                match s.ctl.rosterCursor with
                | none => none
                | some (b, k) => if b = n then none else some (b, k) }) ∧
      (∀ n, s.bin n = none → exec (.binEmptied n) s = .next s) ∧
      ∃ t, exec .trayEmptied s = .next t ∧ t.rack = { s.rack with tray := 0 } ∧ StoreWritten s t ∧
        t.config = s.config ∧ t.head.arrivals = s.head.arrivals ∧
        (QueueHoldsWaiting s → OthersServed (fun _ => False) s t) ∧ IdleHeadServed t ∧
        t.head.readings = s.head.readings ∧ t.ctl = s.ctl ∧ t.packs = s.packs ∧ t.link = s.link ∧ t.part = s.part ∧
        t.head.staples = s.head.staples ∧ BlocksFresh s t ∧
        (s.ctl.station.freezes = true → t.head.queue = s.head.queue)) ∧
    ∀ (n : Nat) (s : State), s.running = true → s.config = none →
      if s.ctl.station = .loading then
        exec .cartridgeInserted s =
            .next
              { s with
                part := { s.part with cartridgeSense := true, held := { s.part.held with cartridge := true } } } ∧
          exec (.binEmptied n) s =
            .next { s with part := { s.part with held := { s.part.held with bins := s.part.held.bins ++ [n] } } } ∧
          exec .trayEmptied s = .next { s with part := { s.part with held := { s.part.held with tray := true } } }
      else
        exec .cartridgeInserted s = .next { s with part := { s.part with cartridgeSense := true } } ∧
          exec (.binEmptied n) s = .next s ∧ exec .trayEmptied s = .next s

/-- That a jam line is followed by a part in reset is the model's reading (log 10); that the divert selection stands at entry to
HALTING is its choice (log 32). -/
def Obligations.PocketJamIsTakenAtItsPassage : Prop :=
  ∀ (p : PocketId) (s : State),
    (∃ t, exec (.pocketJam p) s = .next t ∧ t.part = { s.part with jamLines := s.part.jamLines.set true p } ∧
      FaultKeeps s t ∧
      (s.running = true → s.part.jamLines.get p = false →
        FaultTaken .pocketJam s t ∧
          (s.ctl.station = .loading ∨ s.ctl.station = .joining →
            t.head =
              (match s.ctl.heldCause with
              | none => { s.head with state := .stopped, testWaiting := false }
              | some _ => s.head)) ∧
          (s.ctl.station = .halting ∨ s.ctl.station = .halted ∨ s.ctl.station = .safe ∨ s.ctl.station = .configFault →
            t.head = s.head)) ∧
      (s.running = false ∨ s.part.jamLines.get p = true →
        t = { s with part := { s.part with jamLines := s.part.jamLines.set true p } })) ∧
      exec (.pocketJamCleared p) s =
        .next { s with part := { s.part with jamLines := s.part.jamLines.set false p } }

/-! ### The intake rules and the delivery map -/

def Obligations.FirstDecidingChainGivesTheVerdict : Prop :=
  ∀ (c : StationConfig) (o : Offer) (v : Verdict),
    (ruleValue o .classCode = o.classCode ∧ ruleValue o .roll = o.roll ∧ ruleValue o .count = o.count ∧
      ruleValue o .finish =
        (match o.finish with
        | .loose => 0
        | .corner => 1
        | .edge => 2) ∧
      ruleValue o .lane =
        (match o.lane with
        | .normal => 0
        | .urgent => 1) ∧
      ruleValue o .feed = o.id.feed - 16) ∧
      (∀ (value entry mask : Byte),
      (compareHolds .eq mask value entry = true ↔ value &&& mask = entry &&& mask) ∧
        (compareHolds .ne mask value entry = true ↔ value &&& mask ≠ entry &&& mask) ∧
        (compareHolds .ge mask value entry = true ↔ entry.toNat ≤ value.toNat) ∧
        (compareHolds .lt mask value entry = true ↔ value.toNat < entry.toNat)) ∧
      (∀ (mask value : Byte) (field : RuleField) (relation : Relation) (join : Bool) (verdict : Verdict) (rest : List Rule),
        walkChain o mask (.compare field relation value join verdict :: rest) =
            (if compareHolds relation mask (BitVec.ofNat 8 (ruleValue o field)) value then
              if rest = [] then some verdict else walkChain o mask rest
            else none) ∧
          walkChain o mask (.setMask value join verdict :: rest) =
            if rest = [] then some verdict else walkChain o value rest) ∧
      (chainsOf c.rules).flatten = c.rules ∧
      (∀ chain ∈ chainsOf c.rules, chain ≠ [] ∧ ∀ r ∈ chain.dropLast, r.join = true) ∧
      (∀ before chain after, chainsOf c.rules = before ++ chain :: after → after ≠ [] →
        ∀ r, chain.getLast? = some r → r.join = false) ∧
      (intakeVerdict c o = v ↔
        (∃ before chain after, chainsOf c.rules = before ++ chain :: after ∧
            (∀ x ∈ before, walkChain o 255 x = none) ∧ walkChain o 255 chain = some v) ∨
          (∀ x ∈ chainsOf c.rules, walkChain o 255 x = none) ∧ c.defaultVerdict = v)

def Obligations.FirstMatchingMapEntryIsTheLookup : Prop :=
  (∀ (before : Option MapEntry) (e : MapEntry) (classCode roll : Nat),
    mapMatches before e classCode roll = true ↔
      e.classCode = classCode ∧
        match e.mode with
        | .off => False
        | .single => roll = e.rollBound
        | .upto =>
          (match before with
            | none => 1
            | some b => if b.mode ≠ .off ∧ b.classCode = e.classCode then b.rollBound + 1 else 1) ≤ roll ∧
            roll ≤ e.rollBound
        | .block => roll / 2 ^ e.exponent = e.rollBound / 2 ^ e.exponent) ∧
    ∀ (map : List MapEntry) (classCode roll : Nat) (e : MapEntry),
      (mapLookup map classCode roll = some e ↔
        ∃ n, map[n]? = some e ∧ mapMatches (if n = 0 then none else map[n - 1]?) e classCode roll = true ∧
          ∀ k x, k < n → map[k]? = some x →
            mapMatches (if k = 0 then none else map[k - 1]?) x classCode roll = false) ∧
        (mapLookup map classCode roll = none ↔
          ∀ k x, map[k]? = some x → mapMatches (if k = 0 then none else map[k - 1]?) x classCode roll = false)

/-! ### Invariants -/

def Obligations.InvariantsHoldAtReset : Prop :=
  TableSound State.reset ∧ TransmitSound State.reset ∧ RostersMatch State.reset ∧ TrayWithin State.reset ∧
    WorkAgrees State.reset

def Obligations.PackTableStaysSound : Prop := Kept TableSound

def Obligations.TransmitQueueStaysOrdered : Prop := Kept TransmitSound

def Obligations.RostersStayEqualToTheFills : Prop := Kept RostersMatch

def Obligations.TrayStaysWithinItsCapacity : Prop := Kept TrayWithin

def Obligations.PocketsQueueAndHeadStayInAgreement : Prop := Kept WorkAgrees
end

