-- ==== Sys2Proof/Laws/State.lean ====
section
/-!
SUPPORT. One lemma per block and block update, true by rfl: a block update changes its own block and leaves the nine others.
-/
namespace Sys2Proof.Machine

open Sys2Proof.Config

@[simp] theorem State.onPart_pending (f : Part → Part) (s : State) : (s.onPart f).pending = s.pending := rfl
@[simp] theorem State.onPart_part (f : Part → Part) (s : State) : (s.onPart f).part = f s.part := rfl
@[simp] theorem State.onPart_config (f : Part → Part) (s : State) : (s.onPart f).config = s.config := rfl
@[simp] theorem State.onPart_ctl (f : Part → Part) (s : State) : (s.onPart f).ctl = s.ctl := rfl
@[simp] theorem State.onPart_link (f : Part → Part) (s : State) : (s.onPart f).link = s.link := rfl
@[simp] theorem State.onPart_packs (f : Part → Part) (s : State) : (s.onPart f).packs = s.packs := rfl
@[simp] theorem State.onPart_pockets (f : Part → Part) (s : State) : (s.onPart f).pockets = s.pockets := rfl
@[simp] theorem State.onPart_head (f : Part → Part) (s : State) : (s.onPart f).head = s.head := rfl
@[simp] theorem State.onPart_rack (f : Part → Part) (s : State) : (s.onPart f).rack = s.rack := rfl
@[simp] theorem State.onPart_store (f : Part → Part) (s : State) : (s.onPart f).store = s.store := rfl

@[simp] theorem State.onCtl_pending (f : Controller → Controller) (s : State) : (s.onCtl f).pending = s.pending := rfl
@[simp] theorem State.onCtl_part (f : Controller → Controller) (s : State) : (s.onCtl f).part = s.part := rfl
@[simp] theorem State.onCtl_config (f : Controller → Controller) (s : State) : (s.onCtl f).config = s.config := rfl
@[simp] theorem State.onCtl_ctl (f : Controller → Controller) (s : State) : (s.onCtl f).ctl = f s.ctl := rfl
@[simp] theorem State.onCtl_link (f : Controller → Controller) (s : State) : (s.onCtl f).link = s.link := rfl
@[simp] theorem State.onCtl_packs (f : Controller → Controller) (s : State) : (s.onCtl f).packs = s.packs := rfl
@[simp] theorem State.onCtl_pockets (f : Controller → Controller) (s : State) : (s.onCtl f).pockets = s.pockets := rfl
@[simp] theorem State.onCtl_head (f : Controller → Controller) (s : State) : (s.onCtl f).head = s.head := rfl
@[simp] theorem State.onCtl_rack (f : Controller → Controller) (s : State) : (s.onCtl f).rack = s.rack := rfl
@[simp] theorem State.onCtl_store (f : Controller → Controller) (s : State) : (s.onCtl f).store = s.store := rfl

@[simp] theorem State.onLink_pending (f : BayLink → BayLink) (s : State) : (s.onLink f).pending = s.pending := rfl
@[simp] theorem State.onLink_part (f : BayLink → BayLink) (s : State) : (s.onLink f).part = s.part := rfl
@[simp] theorem State.onLink_config (f : BayLink → BayLink) (s : State) : (s.onLink f).config = s.config := rfl
@[simp] theorem State.onLink_ctl (f : BayLink → BayLink) (s : State) : (s.onLink f).ctl = s.ctl := rfl
@[simp] theorem State.onLink_link (f : BayLink → BayLink) (s : State) : (s.onLink f).link = f s.link := rfl
@[simp] theorem State.onLink_packs (f : BayLink → BayLink) (s : State) : (s.onLink f).packs = s.packs := rfl
@[simp] theorem State.onLink_pockets (f : BayLink → BayLink) (s : State) : (s.onLink f).pockets = s.pockets := rfl
@[simp] theorem State.onLink_head (f : BayLink → BayLink) (s : State) : (s.onLink f).head = s.head := rfl
@[simp] theorem State.onLink_rack (f : BayLink → BayLink) (s : State) : (s.onLink f).rack = s.rack := rfl
@[simp] theorem State.onLink_store (f : BayLink → BayLink) (s : State) : (s.onLink f).store = s.store := rfl

@[simp] theorem State.onPacks_pending (f : PackTable → PackTable) (s : State) : (s.onPacks f).pending = s.pending := rfl
@[simp] theorem State.onPacks_part (f : PackTable → PackTable) (s : State) : (s.onPacks f).part = s.part := rfl
@[simp] theorem State.onPacks_config (f : PackTable → PackTable) (s : State) : (s.onPacks f).config = s.config := rfl
@[simp] theorem State.onPacks_ctl (f : PackTable → PackTable) (s : State) : (s.onPacks f).ctl = s.ctl := rfl
@[simp] theorem State.onPacks_link (f : PackTable → PackTable) (s : State) : (s.onPacks f).link = s.link := rfl
@[simp] theorem State.onPacks_packs (f : PackTable → PackTable) (s : State) : (s.onPacks f).packs = f s.packs := rfl
@[simp] theorem State.onPacks_pockets (f : PackTable → PackTable) (s : State) : (s.onPacks f).pockets = s.pockets := rfl
@[simp] theorem State.onPacks_head (f : PackTable → PackTable) (s : State) : (s.onPacks f).head = s.head := rfl
@[simp] theorem State.onPacks_rack (f : PackTable → PackTable) (s : State) : (s.onPacks f).rack = s.rack := rfl
@[simp] theorem State.onPacks_store (f : PackTable → PackTable) (s : State) : (s.onPacks f).store = s.store := rfl

@[simp] theorem State.onPockets_pending (f : Pockets → Pockets) (s : State) : (s.onPockets f).pending = s.pending := rfl
@[simp] theorem State.onPockets_part (f : Pockets → Pockets) (s : State) : (s.onPockets f).part = s.part := rfl
@[simp] theorem State.onPockets_config (f : Pockets → Pockets) (s : State) : (s.onPockets f).config = s.config := rfl
@[simp] theorem State.onPockets_ctl (f : Pockets → Pockets) (s : State) : (s.onPockets f).ctl = s.ctl := rfl
@[simp] theorem State.onPockets_link (f : Pockets → Pockets) (s : State) : (s.onPockets f).link = s.link := rfl
@[simp] theorem State.onPockets_packs (f : Pockets → Pockets) (s : State) : (s.onPockets f).packs = s.packs := rfl
@[simp] theorem State.onPockets_pockets (f : Pockets → Pockets) (s : State) : (s.onPockets f).pockets = f s.pockets := rfl
@[simp] theorem State.onPockets_head (f : Pockets → Pockets) (s : State) : (s.onPockets f).head = s.head := rfl
@[simp] theorem State.onPockets_rack (f : Pockets → Pockets) (s : State) : (s.onPockets f).rack = s.rack := rfl
@[simp] theorem State.onPockets_store (f : Pockets → Pockets) (s : State) : (s.onPockets f).store = s.store := rfl

@[simp] theorem State.onHead_pending (f : FinishingHead → FinishingHead) (s : State) : (s.onHead f).pending = s.pending := rfl
@[simp] theorem State.onHead_part (f : FinishingHead → FinishingHead) (s : State) : (s.onHead f).part = s.part := rfl
@[simp] theorem State.onHead_config (f : FinishingHead → FinishingHead) (s : State) : (s.onHead f).config = s.config := rfl
@[simp] theorem State.onHead_ctl (f : FinishingHead → FinishingHead) (s : State) : (s.onHead f).ctl = s.ctl := rfl
@[simp] theorem State.onHead_link (f : FinishingHead → FinishingHead) (s : State) : (s.onHead f).link = s.link := rfl
@[simp] theorem State.onHead_packs (f : FinishingHead → FinishingHead) (s : State) : (s.onHead f).packs = s.packs := rfl
@[simp] theorem State.onHead_pockets (f : FinishingHead → FinishingHead) (s : State) : (s.onHead f).pockets = s.pockets := rfl
@[simp] theorem State.onHead_head (f : FinishingHead → FinishingHead) (s : State) : (s.onHead f).head = f s.head := rfl
@[simp] theorem State.onHead_rack (f : FinishingHead → FinishingHead) (s : State) : (s.onHead f).rack = s.rack := rfl
@[simp] theorem State.onHead_store (f : FinishingHead → FinishingHead) (s : State) : (s.onHead f).store = s.store := rfl

@[simp] theorem State.onRack_pending (f : Rack → Rack) (s : State) : (s.onRack f).pending = s.pending := rfl
@[simp] theorem State.onRack_part (f : Rack → Rack) (s : State) : (s.onRack f).part = s.part := rfl
@[simp] theorem State.onRack_config (f : Rack → Rack) (s : State) : (s.onRack f).config = s.config := rfl
@[simp] theorem State.onRack_ctl (f : Rack → Rack) (s : State) : (s.onRack f).ctl = s.ctl := rfl
@[simp] theorem State.onRack_link (f : Rack → Rack) (s : State) : (s.onRack f).link = s.link := rfl
@[simp] theorem State.onRack_packs (f : Rack → Rack) (s : State) : (s.onRack f).packs = s.packs := rfl
@[simp] theorem State.onRack_pockets (f : Rack → Rack) (s : State) : (s.onRack f).pockets = s.pockets := rfl
@[simp] theorem State.onRack_head (f : Rack → Rack) (s : State) : (s.onRack f).head = s.head := rfl
@[simp] theorem State.onRack_rack (f : Rack → Rack) (s : State) : (s.onRack f).rack = f s.rack := rfl
@[simp] theorem State.onRack_store (f : Rack → Rack) (s : State) : (s.onRack f).store = s.store := rfl

@[simp] theorem State.withStore_pending (r : RetainedStore) (s : State) : (s.withStore r).pending = s.pending := rfl
@[simp] theorem State.withStore_part (r : RetainedStore) (s : State) : (s.withStore r).part = s.part := rfl
@[simp] theorem State.withStore_config (r : RetainedStore) (s : State) : (s.withStore r).config = s.config := rfl
@[simp] theorem State.withStore_ctl (r : RetainedStore) (s : State) : (s.withStore r).ctl = s.ctl := rfl
@[simp] theorem State.withStore_link (r : RetainedStore) (s : State) : (s.withStore r).link = s.link := rfl
@[simp] theorem State.withStore_packs (r : RetainedStore) (s : State) : (s.withStore r).packs = s.packs := rfl
@[simp] theorem State.withStore_pockets (r : RetainedStore) (s : State) : (s.withStore r).pockets = s.pockets := rfl
@[simp] theorem State.withStore_head (r : RetainedStore) (s : State) : (s.withStore r).head = s.head := rfl
@[simp] theorem State.withStore_rack (r : RetainedStore) (s : State) : (s.withStore r).rack = s.rack := rfl
@[simp] theorem State.withStore_store (r : RetainedStore) (s : State) : (s.withStore r).store = r := rfl

@[simp] theorem State.withConfig_pending (c : Option StationConfig) (s : State) : (s.withConfig c).pending = s.pending := rfl
@[simp] theorem State.withConfig_part (c : Option StationConfig) (s : State) : (s.withConfig c).part = s.part := rfl
@[simp] theorem State.withConfig_config (c : Option StationConfig) (s : State) : (s.withConfig c).config = c := rfl
@[simp] theorem State.withConfig_ctl (c : Option StationConfig) (s : State) : (s.withConfig c).ctl = s.ctl := rfl
@[simp] theorem State.withConfig_link (c : Option StationConfig) (s : State) : (s.withConfig c).link = s.link := rfl
@[simp] theorem State.withConfig_packs (c : Option StationConfig) (s : State) : (s.withConfig c).packs = s.packs := rfl
@[simp] theorem State.withConfig_pockets (c : Option StationConfig) (s : State) : (s.withConfig c).pockets = s.pockets := rfl
@[simp] theorem State.withConfig_head (c : Option StationConfig) (s : State) : (s.withConfig c).head = s.head := rfl
@[simp] theorem State.withConfig_rack (c : Option StationConfig) (s : State) : (s.withConfig c).rack = s.rack := rfl
@[simp] theorem State.withConfig_store (c : Option StationConfig) (s : State) : (s.withConfig c).store = s.store := rfl

@[simp] theorem State.withPending_pending (cs : List Instr) (s : State) : (s.withPending cs).pending = cs := rfl
@[simp] theorem State.withPending_part (cs : List Instr) (s : State) : (s.withPending cs).part = s.part := rfl
@[simp] theorem State.withPending_config (cs : List Instr) (s : State) : (s.withPending cs).config = s.config := rfl
@[simp] theorem State.withPending_ctl (cs : List Instr) (s : State) : (s.withPending cs).ctl = s.ctl := rfl
@[simp] theorem State.withPending_link (cs : List Instr) (s : State) : (s.withPending cs).link = s.link := rfl
@[simp] theorem State.withPending_packs (cs : List Instr) (s : State) : (s.withPending cs).packs = s.packs := rfl
@[simp] theorem State.withPending_pockets (cs : List Instr) (s : State) : (s.withPending cs).pockets = s.pockets := rfl
@[simp] theorem State.withPending_head (cs : List Instr) (s : State) : (s.withPending cs).head = s.head := rfl
@[simp] theorem State.withPending_rack (cs : List Instr) (s : State) : (s.withPending cs).rack = s.rack := rfl
@[simp] theorem State.withPending_store (cs : List Instr) (s : State) : (s.withPending cs).store = s.store := rfl

/-! ### One pocket among the four -/

@[simp] theorem Pockets.get_set_self (ps : Pockets) (q : Pocket) (p : PocketId) : (ps.set q p).get p = q := by
  cases p <;> rfl

theorem Pockets.get_set_other (ps : Pockets) (q : Pocket) {p r : PocketId} (h : r ≠ p) :
    (ps.set q p).get r = ps.get r := by
  cases p <;> cases r <;> first | rfl | exact absurd rfl h

theorem Pockets.get_set (ps : Pockets) (q : Pocket) (p r : PocketId) :
    (ps.set q p).get r = if r = p then q else ps.get r := by
  cases p <;> cases r <;> rfl

/-- Two pocket sets with the same records are equal. -/
theorem Pockets.ext_get {ps qs : Pockets} (h : ∀ p, ps.get p = qs.get p) : ps = qs := by
  have h1 := h .p1
  have h2 := h .p2
  have h3 := h .p3
  have h4 := h .p4
  cases ps
  cases qs
  simp only [Pockets.get] at h1 h2 h3 h4
  subst h1 h2 h3 h4
  rfl

theorem PocketId.mem_all (p : PocketId) : p ∈ PocketId.all := by cases p <;> decide

/-! ### Counters -/

/-- A raised counter is its own successor or stands at 65535. -/
theorem raised_toNat (c : Count16) : (raised c).toNat = min 65535 (c.toNat + 1) := by
  unfold raised
  split
  · next h => subst h; decide
  · next h =>
    have hc := c.isLt
    have : c.toNat ≠ 65535 := fun e => h (BitVec.eq_of_toNat_eq (by simpa using e))
    rw [BitVec.toNat_add]
    have : (1 : Count16).toNat = 1 := by decide
    omega

/-- Raising a counter raises that counter. -/
theorem Counters.get_bump_self (k : Counters) (c : CounterName) : (k.bump c).get c = raised (k.get c) := by
  cases c with
  | setAside r => cases r <;> rfl
  | _ => rfl

/-- Raising a counter leaves the others. -/
theorem Counters.get_bump_other (k : Counters) {c d : CounterName} (h : d ≠ c) : (k.bump c).get d = k.get d := by
  cases c with
  | setAside r =>
    cases d with
    | setAside q => cases r <;> cases q <;> first | rfl | exact absurd rfl h
    | _ => cases r <;> rfl
  | _ =>
    cases d with
    | setAside q => cases q <;> rfl
    | _ => first | rfl | exact absurd rfl h

/-! ### The composite updates -/

@[simp] theorem State.count_counters (c : CounterName) (s : State) :
    (s.count c).ctl.counters = s.ctl.counters.bump c := rfl
@[simp] theorem State.count_station (c : CounterName) (s : State) : (s.count c).ctl.station = s.ctl.station := rfl
@[simp] theorem State.count_hold (c : CounterName) (s : State) : (s.count c).ctl.hold = s.ctl.hold := rfl
@[simp] theorem State.enter_station (st : StationState) (s : State) : (s.enter st).ctl.station = st := rfl
@[simp] theorem State.enter_hold (st : StationState) (s : State) : (s.enter st).ctl.hold = s.ctl.hold := rfl
@[simp] theorem State.headTo_state (st : HeadState) (s : State) : (s.headTo st).head.state = st := rfl
@[simp] theorem State.headTo_queue (st : HeadState) (s : State) : (s.headTo st).head.queue = s.head.queue := rfl
@[simp] theorem State.onStaples_staples (f : StapleBudget → StapleBudget) (s : State) :
    (s.onStaples f).head.staples = f s.head.staples := rfl
@[simp] theorem State.onStaples_queue (f : StapleBudget → StapleBudget) (s : State) :
    (s.onStaples f).head.queue = s.head.queue := rfl
@[simp] theorem State.onStaples_state (f : StapleBudget → StapleBudget) (s : State) :
    (s.onStaples f).head.state = s.head.state := rfl
@[simp] theorem State.onPocket_self (p : PocketId) (f : Pocket → Pocket) (s : State) :
    (s.onPocket p f).pockets.get p = f (s.pockets.get p) := by
  simp [State.onPocket]

theorem State.onPocket_other {p r : PocketId} (f : Pocket → Pocket) (s : State) (h : r ≠ p) :
    (s.onPocket p f).pockets.get r = s.pockets.get r := by
  simp [State.onPocket, Pockets.get_set_other _ _ h]

end Sys2Proof.Machine
end

