-- ==== Sys2Proof/Laws/OpsFrames.lean ====
section
/-!
SUPPORT. What each shared operation of Machine/Ops.lean leaves unchanged, one lemma per operation.
-/
namespace Sys2Proof.Machine

open Sys2Proof.Config

/-- What every step of a fold keeps, the fold keeps. -/
theorem foldl_keeps {α β : Type} (proj : State → β) (f : State → α → State) (h : ∀ s a, proj (f s a) = proj s) :
    ∀ (l : List α) (s : State), proj (l.foldl f s) = proj s
  | [], _ => rfl
  | a :: l, s => by rw [List.foldl_cons, foldl_keeps proj f h l, h]

@[simp] theorem State.count_frame (c : CounterName) (s : State) :
    (s.count c).pending = s.pending ∧
    (s.count c).part = s.part ∧
    (s.count c).config = s.config ∧
    (s.count c).link = s.link ∧
    (s.count c).packs = s.packs ∧
    (s.count c).pockets = s.pockets ∧
    (s.count c).head = s.head ∧
    (s.count c).rack = s.rack ∧
    (s.count c).store = s.store ∧
    (s.count c).ctl.station = s.ctl.station ∧
    (s.count c).ctl.hold = s.ctl.hold := by
  exact ⟨rfl, rfl, rfl, rfl, rfl, rfl, rfl, rfl, rfl, rfl, rfl⟩

@[simp] theorem State.enter_frame (st : StationState) (s : State) :
    (s.enter st).pending = s.pending ∧
    (s.enter st).part = s.part ∧
    (s.enter st).config = s.config ∧
    (s.enter st).link = s.link ∧
    (s.enter st).packs = s.packs ∧
    (s.enter st).pockets = s.pockets ∧
    (s.enter st).head = s.head ∧
    (s.enter st).rack = s.rack ∧
    (s.enter st).store = s.store ∧
    (s.enter st).ctl.counters = s.ctl.counters ∧
    (s.enter st).ctl.hold = s.ctl.hold := by
  exact ⟨rfl, rfl, rfl, rfl, rfl, rfl, rfl, rfl, rfl, rfl, rfl⟩

@[simp] theorem State.onPocket_frame (p : PocketId) (f : Pocket → Pocket) (s : State) :
    (s.onPocket p f).pending = s.pending ∧
    (s.onPocket p f).part = s.part ∧
    (s.onPocket p f).config = s.config ∧
    (s.onPocket p f).ctl = s.ctl ∧
    (s.onPocket p f).link = s.link ∧
    (s.onPocket p f).packs = s.packs ∧
    (s.onPocket p f).head = s.head ∧
    (s.onPocket p f).rack = s.rack ∧
    (s.onPocket p f).store = s.store := by
  exact ⟨rfl, rfl, rfl, rfl, rfl, rfl, rfl, rfl, rfl⟩

@[simp] theorem State.pocketTo_frame (p : PocketId) (st : PocketState) (s : State) :
    (s.pocketTo p st).pending = s.pending ∧
    (s.pocketTo p st).part = s.part ∧
    (s.pocketTo p st).config = s.config ∧
    (s.pocketTo p st).ctl = s.ctl ∧
    (s.pocketTo p st).link = s.link ∧
    (s.pocketTo p st).packs = s.packs ∧
    (s.pocketTo p st).head = s.head ∧
    (s.pocketTo p st).rack = s.rack ∧
    (s.pocketTo p st).store = s.store := by
  exact ⟨rfl, rfl, rfl, rfl, rfl, rfl, rfl, rfl, rfl⟩

@[simp] theorem State.pocketStops_frame (p : PocketId) (st : PocketState) (s : State) :
    (s.pocketStops p st).pending = s.pending ∧
    (s.pocketStops p st).part = s.part ∧
    (s.pocketStops p st).config = s.config ∧
    (s.pocketStops p st).ctl = s.ctl ∧
    (s.pocketStops p st).link = s.link ∧
    (s.pocketStops p st).packs = s.packs ∧
    (s.pocketStops p st).head = s.head ∧
    (s.pocketStops p st).rack = s.rack ∧
    (s.pocketStops p st).store = s.store := by
  exact ⟨rfl, rfl, rfl, rfl, rfl, rfl, rfl, rfl, rfl⟩

@[simp] theorem State.onBin_frame (n : Nat) (f : Bin → Bin) (s : State) :
    (s.onBin n f).pending = s.pending ∧
    (s.onBin n f).part = s.part ∧
    (s.onBin n f).config = s.config ∧
    (s.onBin n f).ctl = s.ctl ∧
    (s.onBin n f).link = s.link ∧
    (s.onBin n f).packs = s.packs ∧
    (s.onBin n f).pockets = s.pockets ∧
    (s.onBin n f).head = s.head ∧
    (s.onBin n f).store = s.store ∧
    (s.onBin n f).rack.tray = s.rack.tray := by
  unfold State.onBin
  split <;> simp

@[simp] theorem State.onStaples_frame (f : StapleBudget → StapleBudget) (s : State) :
    (s.onStaples f).pending = s.pending ∧
    (s.onStaples f).part = s.part ∧
    (s.onStaples f).config = s.config ∧
    (s.onStaples f).ctl = s.ctl ∧
    (s.onStaples f).link = s.link ∧
    (s.onStaples f).packs = s.packs ∧
    (s.onStaples f).pockets = s.pockets ∧
    (s.onStaples f).rack = s.rack ∧
    (s.onStaples f).store = s.store ∧
    (s.onStaples f).head.queue = s.head.queue ∧
    (s.onStaples f).head.state = s.head.state ∧
    (s.onStaples f).head.readings = s.head.readings := by
  exact ⟨rfl, rfl, rfl, rfl, rfl, rfl, rfl, rfl, rfl, rfl, rfl, rfl⟩

@[simp] theorem State.headTo_frame (st : HeadState) (s : State) :
    (s.headTo st).pending = s.pending ∧
    (s.headTo st).part = s.part ∧
    (s.headTo st).config = s.config ∧
    (s.headTo st).ctl = s.ctl ∧
    (s.headTo st).link = s.link ∧
    (s.headTo st).packs = s.packs ∧
    (s.headTo st).pockets = s.pockets ∧
    (s.headTo st).rack = s.rack ∧
    (s.headTo st).store = s.store ∧
    (s.headTo st).head.queue = s.head.queue ∧
    (s.headTo st).head.staples = s.head.staples ∧
    (s.headTo st).head.readings = s.head.readings := by
  exact ⟨rfl, rfl, rfl, rfl, rfl, rfl, rfl, rfl, rfl, rfl, rfl, rfl⟩

@[simp] theorem State.writeStore_frame (s : State) :
    (s.writeStore).pending = s.pending ∧
    (s.writeStore).part = s.part ∧
    (s.writeStore).config = s.config ∧
    (s.writeStore).ctl = s.ctl ∧
    (s.writeStore).link = s.link ∧
    (s.writeStore).packs = s.packs ∧
    (s.writeStore).pockets = s.pockets ∧
    (s.writeStore).head = s.head ∧
    (s.writeStore).rack = s.rack := by
  unfold State.writeStore
  split <;> simp

@[simp] theorem State.append_frame (f : TxFrame) (s : State) :
    (s.append f).pending = s.pending ∧
    (s.append f).part = s.part ∧
    (s.append f).config = s.config ∧
    (s.append f).ctl = s.ctl ∧
    (s.append f).packs = s.packs ∧
    (s.append f).pockets = s.pockets ∧
    (s.append f).head = s.head ∧
    (s.append f).rack = s.rack ∧
    (s.append f).store = s.store ∧
    (s.append f).link.recvRun = s.link.recvRun ∧
    (s.append f).link.sendRun = s.link.sendRun := by
  unfold State.append
  split <;> simp

@[simp] theorem State.dropFrame_frame (n : Nat) (s : State) :
    (s.dropFrame n).pending = s.pending ∧
    (s.dropFrame n).part = s.part ∧
    (s.dropFrame n).config = s.config ∧
    (s.dropFrame n).ctl = s.ctl ∧
    (s.dropFrame n).packs = s.packs ∧
    (s.dropFrame n).pockets = s.pockets ∧
    (s.dropFrame n).head = s.head ∧
    (s.dropFrame n).rack = s.rack ∧
    (s.dropFrame n).store = s.store ∧
    (s.dropFrame n).link.recvRun = s.link.recvRun ∧
    (s.dropFrame n).link.sendRun = s.link.sendRun := by
  exact ⟨rfl, rfl, rfl, rfl, rfl, rfl, rfl, rfl, rfl, rfl, rfl⟩

@[simp] theorem State.markFrame_frame (n : Nat) (m : TxMark) (s : State) :
    (s.markFrame n m).pending = s.pending ∧
    (s.markFrame n m).part = s.part ∧
    (s.markFrame n m).config = s.config ∧
    (s.markFrame n m).ctl = s.ctl ∧
    (s.markFrame n m).packs = s.packs ∧
    (s.markFrame n m).pockets = s.pockets ∧
    (s.markFrame n m).head = s.head ∧
    (s.markFrame n m).rack = s.rack ∧
    (s.markFrame n m).store = s.store ∧
    (s.markFrame n m).link.recvRun = s.link.recvRun ∧
    (s.markFrame n m).link.sendRun = s.link.sendRun := by
  exact ⟨rfl, rfl, rfl, rfl, rfl, rfl, rfl, rfl, rfl, rfl, rfl⟩

@[simp] theorem State.appendReport_frame (a : Ask) (s : State) :
    (s.appendReport a).pending = s.pending ∧
    (s.appendReport a).part = s.part ∧
    (s.appendReport a).config = s.config ∧
    (s.appendReport a).ctl = s.ctl ∧
    (s.appendReport a).packs = s.packs ∧
    (s.appendReport a).pockets = s.pockets ∧
    (s.appendReport a).rack = s.rack ∧
    (s.appendReport a).store = s.store ∧
    (s.appendReport a).head.queue = s.head.queue ∧
    (s.appendReport a).head.state = s.head.state ∧
    (s.appendReport a).head.staples = s.head.staples ∧
    (s.appendReport a).link.recvRun = s.link.recvRun ∧
    (s.appendReport a).link.sendRun = s.link.sendRun := by
  unfold State.appendReport
  split <;> simp

@[simp] theorem State.replaceReport_frame (a : Ask) (s : State) :
    (s.replaceReport a).pending = s.pending ∧
    (s.replaceReport a).part = s.part ∧
    (s.replaceReport a).config = s.config ∧
    (s.replaceReport a).ctl = s.ctl ∧
    (s.replaceReport a).packs = s.packs ∧
    (s.replaceReport a).pockets = s.pockets ∧
    (s.replaceReport a).rack = s.rack ∧
    (s.replaceReport a).store = s.store ∧
    (s.replaceReport a).head.queue = s.head.queue ∧
    (s.replaceReport a).head.state = s.head.state ∧
    (s.replaceReport a).head.staples = s.head.staples ∧
    (s.replaceReport a).link.recvRun = s.link.recvRun ∧
    (s.replaceReport a).link.sendRun = s.link.sendRun := by
  unfold State.replaceReport
  (repeat' split) <;> simp

@[simp] theorem State.takeAsk_frame (a : Ask) (s : State) :
    (s.takeAsk a).pending = s.pending ∧
    (s.takeAsk a).part = s.part ∧
    (s.takeAsk a).config = s.config ∧
    (s.takeAsk a).packs = s.packs ∧
    (s.takeAsk a).pockets = s.pockets ∧
    (s.takeAsk a).rack = s.rack ∧
    (s.takeAsk a).store = s.store ∧
    (s.takeAsk a).ctl.station = s.ctl.station ∧
    (s.takeAsk a).ctl.counters = s.ctl.counters ∧
    (s.takeAsk a).ctl.hold = s.ctl.hold ∧
    (s.takeAsk a).head.queue = s.head.queue ∧
    (s.takeAsk a).head.state = s.head.state ∧
    (s.takeAsk a).head.staples = s.head.staples ∧
    (s.takeAsk a).link.recvRun = s.link.recvRun ∧
    (s.takeAsk a).link.sendRun = s.link.sendRun := by
  unfold State.takeAsk
  split <;> simp

@[simp] theorem State.judgeDrain_frame (s : State) :
    (s.judgeDrain).pending = s.pending ∧
    (s.judgeDrain).part = s.part ∧
    (s.judgeDrain).config = s.config ∧
    (s.judgeDrain).link = s.link ∧
    (s.judgeDrain).packs = s.packs ∧
    (s.judgeDrain).pockets = s.pockets ∧
    (s.judgeDrain).head = s.head ∧
    (s.judgeDrain).rack = s.rack ∧
    (s.judgeDrain).store = s.store ∧
    (s.judgeDrain).ctl.counters = s.ctl.counters ∧
    (s.judgeDrain).ctl.hold = s.ctl.hold := by
  unfold State.judgeDrain
  split <;> simp

@[simp] theorem State.dropBid_frame (id : PackId) (s : State) :
    (s.dropBid id).pending = s.pending ∧
    (s.dropBid id).part = s.part ∧
    (s.dropBid id).config = s.config ∧
    (s.dropBid id).ctl = s.ctl ∧
    (s.dropBid id).link = s.link ∧
    (s.dropBid id).pockets = s.pockets ∧
    (s.dropBid id).head = s.head ∧
    (s.dropBid id).rack = s.rack ∧
    (s.dropBid id).store = s.store ∧
    (s.dropBid id).packs.entries = s.packs.entries := by
  exact ⟨rfl, rfl, rfl, rfl, rfl, rfl, rfl, rfl, rfl, rfl⟩

@[simp] theorem State.releaseBid_frame (id : PackId) (s : State) :
    (s.releaseBid id).pending = s.pending ∧
    (s.releaseBid id).part = s.part ∧
    (s.releaseBid id).config = s.config ∧
    (s.releaseBid id).link = s.link ∧
    (s.releaseBid id).pockets = s.pockets ∧
    (s.releaseBid id).head = s.head ∧
    (s.releaseBid id).rack = s.rack ∧
    (s.releaseBid id).store = s.store ∧
    (s.releaseBid id).ctl.counters = s.ctl.counters ∧
    (s.releaseBid id).ctl.hold = s.ctl.hold ∧
    (s.releaseBid id).packs.entries = s.packs.entries := by
  simp [State.releaseBid]

@[simp] theorem State.removeBid_frame (id : PackId) (s : State) :
    (s.removeBid id).pending = s.pending ∧
    (s.removeBid id).part = s.part ∧
    (s.removeBid id).config = s.config ∧
    (s.removeBid id).pockets = s.pockets ∧
    (s.removeBid id).head = s.head ∧
    (s.removeBid id).rack = s.rack ∧
    (s.removeBid id).store = s.store ∧
    (s.removeBid id).ctl.counters = s.ctl.counters ∧
    (s.removeBid id).ctl.hold = s.ctl.hold ∧
    (s.removeBid id).packs.entries = s.packs.entries ∧
    (s.removeBid id).link.recvRun = s.link.recvRun ∧
    (s.removeBid id).link.sendRun = s.link.sendRun := by
  unfold State.removeBid
  (repeat' split) <;> simp

@[simp] theorem State.withdrawUnsent_frame (s : State) :
    (s.withdrawUnsent).pending = s.pending ∧
    (s.withdrawUnsent).part = s.part ∧
    (s.withdrawUnsent).config = s.config ∧
    (s.withdrawUnsent).pockets = s.pockets ∧
    (s.withdrawUnsent).head = s.head ∧
    (s.withdrawUnsent).rack = s.rack ∧
    (s.withdrawUnsent).store = s.store ∧
    (s.withdrawUnsent).ctl.counters = s.ctl.counters ∧
    (s.withdrawUnsent).ctl.hold = s.ctl.hold ∧
    (s.withdrawUnsent).packs.entries = s.packs.entries ∧
    (s.withdrawUnsent).link.recvRun = s.link.recvRun ∧
    (s.withdrawUnsent).link.sendRun = s.link.sendRun := by
  unfold State.withdrawUnsent
  refine ⟨foldl_keeps (fun t => t.pending) _ (fun t b => by simp) _ s, foldl_keeps (fun t => t.part) _ (fun t b => by simp) _ s, foldl_keeps (fun t => t.config) _ (fun t b => by simp) _ s, foldl_keeps (fun t => t.pockets) _ (fun t b => by simp) _ s, foldl_keeps (fun t => t.head) _ (fun t b => by simp) _ s, foldl_keeps (fun t => t.rack) _ (fun t b => by simp) _ s, foldl_keeps (fun t => t.store) _ (fun t b => by simp) _ s, foldl_keeps (fun t => t.ctl.counters) _ (fun t b => by simp) _ s, foldl_keeps (fun t => t.ctl.hold) _ (fun t b => by simp) _ s, foldl_keeps (fun t => t.packs.entries) _ (fun t b => by simp) _ s, foldl_keeps (fun t => t.link.recvRun) _ (fun t b => by simp) _ s, foldl_keeps (fun t => t.link.sendRun) _ (fun t b => by simp) _ s⟩

@[simp] theorem State.reportRemoval_frame (f : TxFrame) (s : State) :
    (s.reportRemoval f).pending = s.pending ∧
    (s.reportRemoval f).part = s.part ∧
    (s.reportRemoval f).config = s.config ∧
    (s.reportRemoval f).link = s.link ∧
    (s.reportRemoval f).pockets = s.pockets ∧
    (s.reportRemoval f).head = s.head ∧
    (s.reportRemoval f).rack = s.rack ∧
    (s.reportRemoval f).store = s.store ∧
    (s.reportRemoval f).ctl.counters = s.ctl.counters ∧
    (s.reportRemoval f).ctl.hold = s.ctl.hold ∧
    (s.reportRemoval f).packs.entries = s.packs.entries := by
  unfold State.reportRemoval
  split <;> simp

@[simp] theorem State.endAttempt_frame (s : State) :
    s.endAttempt.pending = s.pending ∧
    s.endAttempt.part = s.part ∧
    s.endAttempt.config = s.config ∧
    s.endAttempt.pockets = s.pockets ∧
    s.endAttempt.rack = s.rack ∧
    s.endAttempt.store = s.store ∧
    s.endAttempt.packs.entries = s.packs.entries ∧
    s.endAttempt.ctl.counters = s.ctl.counters ∧
    s.endAttempt.ctl.hold = s.ctl.hold ∧
    s.endAttempt.ctl.reportSlot = s.ctl.reportSlot ∧
    s.endAttempt.head.queue = s.head.queue ∧
    s.endAttempt.head.state = s.head.state ∧
    s.endAttempt.head.staples = s.head.staples ∧
    s.endAttempt.link.recvRun = s.link.recvRun ∧
    s.endAttempt.link.sendRun = s.link.sendRun := by
  unfold State.endAttempt
  split
  · simp
  · next e _ =>
    cases e.mark with
    | none => simp
    | remove =>
      cases e.frame <;> simp [State.reportRemoval, State.releaseBid, State.judgeDrain]
      split <;> simp [State.enter]
    | replace =>
      simp only [State.onLink_ctl]
      split <;> simp

@[simp] theorem State.raiseHold_frame (s : State) :
    (s.raiseHold).pending = s.pending ∧
    (s.raiseHold).part = s.part ∧
    (s.raiseHold).config = s.config ∧
    (s.raiseHold).packs = s.packs ∧
    (s.raiseHold).pockets = s.pockets ∧
    (s.raiseHold).head = s.head ∧
    (s.raiseHold).rack = s.rack ∧
    (s.raiseHold).store = s.store ∧
    (s.raiseHold).ctl.station = s.ctl.station ∧
    (s.raiseHold).ctl.counters = s.ctl.counters ∧
    (s.raiseHold).link.recvRun = s.link.recvRun ∧
    (s.raiseHold).link.sendRun = s.link.sendRun := by
  unfold State.raiseHold
  (repeat' split) <;> simp

@[simp] theorem State.noteHold_frame (b : Bool) (s : State) :
    (s.noteHold b).pending = s.pending ∧
    (s.noteHold b).part = s.part ∧
    (s.noteHold b).config = s.config ∧
    (s.noteHold b).packs = s.packs ∧
    (s.noteHold b).pockets = s.pockets ∧
    (s.noteHold b).head = s.head ∧
    (s.noteHold b).rack = s.rack ∧
    (s.noteHold b).store = s.store ∧
    (s.noteHold b).ctl.station = s.ctl.station ∧
    (s.noteHold b).ctl.counters = s.ctl.counters ∧
    (s.noteHold b).link.recvRun = s.link.recvRun ∧
    (s.noteHold b).link.sendRun = s.link.sendRun := by
  unfold State.noteHold
  split <;> simp

@[simp] theorem State.judgeHold_frame (s : State) :
    (s.judgeHold).pending = s.pending ∧
    (s.judgeHold).part = s.part ∧
    (s.judgeHold).config = s.config ∧
    (s.judgeHold).packs = s.packs ∧
    (s.judgeHold).pockets = s.pockets ∧
    (s.judgeHold).head = s.head ∧
    (s.judgeHold).rack = s.rack ∧
    (s.judgeHold).store = s.store ∧
    (s.judgeHold).ctl.station = s.ctl.station ∧
    (s.judgeHold).ctl.counters = s.ctl.counters ∧
    (s.judgeHold).link.recvRun = s.link.recvRun ∧
    (s.judgeHold).link.sendRun = s.link.sendRun := by
  unfold State.judgeHold
  split <;> simp

@[simp] theorem State.endHold_frame (s : State) :
    (s.endHold).pending = s.pending ∧
    (s.endHold).part = s.part ∧
    (s.endHold).config = s.config ∧
    (s.endHold).link = s.link ∧
    (s.endHold).packs = s.packs ∧
    (s.endHold).pockets = s.pockets ∧
    (s.endHold).head = s.head ∧
    (s.endHold).rack = s.rack ∧
    (s.endHold).store = s.store ∧
    (s.endHold).ctl.station = s.ctl.station ∧
    (s.endHold).ctl.counters = s.ctl.counters := by
  exact ⟨rfl, rfl, rfl, rfl, rfl, rfl, rfl, rfl, rfl, rfl, rfl⟩

@[simp] theorem State.onEntry_frame (id : PackId) (f : Entry → Entry) (s : State) :
    (s.onEntry id f).pending = s.pending ∧
    (s.onEntry id f).part = s.part ∧
    (s.onEntry id f).config = s.config ∧
    (s.onEntry id f).ctl = s.ctl ∧
    (s.onEntry id f).link = s.link ∧
    (s.onEntry id f).pockets = s.pockets ∧
    (s.onEntry id f).head = s.head ∧
    (s.onEntry id f).rack = s.rack ∧
    (s.onEntry id f).store = s.store ∧
    (s.onEntry id f).packs.bids = s.packs.bids := by
  exact ⟨rfl, rfl, rfl, rfl, rfl, rfl, rfl, rfl, rfl, rfl⟩

@[simp] theorem State.retire_frame (id : PackId) (s : State) :
    (s.retire id).pending = s.pending ∧
    (s.retire id).part = s.part ∧
    (s.retire id).config = s.config ∧
    (s.retire id).ctl = s.ctl ∧
    (s.retire id).link = s.link ∧
    (s.retire id).pockets = s.pockets ∧
    (s.retire id).head = s.head ∧
    (s.retire id).rack = s.rack ∧
    (s.retire id).store = s.store ∧
    (s.retire id).packs.bids = s.packs.bids := by
  exact ⟨rfl, rfl, rfl, rfl, rfl, rfl, rfl, rfl, rfl, rfl⟩

@[simp] theorem State.requestEnd_frame (id : PackId) (f : TxFrame) (s : State) :
    (s.requestEnd id f).pending = s.pending ∧
    (s.requestEnd id f).part = s.part ∧
    (s.requestEnd id f).config = s.config ∧
    (s.requestEnd id f).ctl = s.ctl ∧
    (s.requestEnd id f).pockets = s.pockets ∧
    (s.requestEnd id f).head = s.head ∧
    (s.requestEnd id f).rack = s.rack ∧
    (s.requestEnd id f).store = s.store ∧
    (s.requestEnd id f).packs.bids = s.packs.bids ∧
    (s.requestEnd id f).link.recvRun = s.link.recvRun ∧
    (s.requestEnd id f).link.sendRun = s.link.sendRun := by
  unfold State.requestEnd
  (repeat' split) <;> simp

@[simp] theorem State.releaseCommitments_frame (p : PocketId) (s : State) :
    (s.releaseCommitments p).pending = s.pending ∧
    (s.releaseCommitments p).part = s.part ∧
    (s.releaseCommitments p).config = s.config ∧
    (s.releaseCommitments p).ctl = s.ctl ∧
    (s.releaseCommitments p).link = s.link ∧
    (s.releaseCommitments p).packs = s.packs ∧
    (s.releaseCommitments p).pockets = s.pockets ∧
    (s.releaseCommitments p).store = s.store ∧
    (s.releaseCommitments p).head.queue = s.head.queue ∧
    (s.releaseCommitments p).head.state = s.head.state ∧
    (s.releaseCommitments p).head.readings = s.head.readings ∧
    (s.releaseCommitments p).rack.tray = s.rack.tray := by
  unfold State.releaseCommitments
  split <;> simp

@[simp] theorem State.accountAside_frame (p : PocketId) (r : AsideReason) (s : State) :
    (s.accountAside p r).pending = s.pending ∧
    (s.accountAside p r).part = s.part ∧
    (s.accountAside p r).config = s.config ∧
    (s.accountAside p r).link = s.link ∧
    (s.accountAside p r).packs = s.packs ∧
    (s.accountAside p r).pockets = s.pockets ∧
    (s.accountAside p r).store = s.store ∧
    (s.accountAside p r).ctl.station = s.ctl.station ∧
    (s.accountAside p r).ctl.hold = s.ctl.hold ∧
    (s.accountAside p r).head.queue = s.head.queue ∧
    (s.accountAside p r).head.state = s.head.state ∧
    (s.accountAside p r).head.readings = s.head.readings ∧
    (s.accountAside p r).rack.tray = s.rack.tray := by
  simp [State.accountAside]

@[simp] theorem State.retireUngathered_frame (p : PocketId) (r : AsideReason) (s : State) :
    (s.retireUngathered p r).pending = s.pending ∧
    (s.retireUngathered p r).part = s.part ∧
    (s.retireUngathered p r).config = s.config ∧
    (s.retireUngathered p r).store = s.store ∧
    (s.retireUngathered p r).ctl.station = s.ctl.station ∧
    (s.retireUngathered p r).ctl.hold = s.ctl.hold ∧
    (s.retireUngathered p r).packs.bids = s.packs.bids ∧
    (s.retireUngathered p r).head.queue = s.head.queue ∧
    (s.retireUngathered p r).head.state = s.head.state ∧
    (s.retireUngathered p r).head.readings = s.head.readings ∧
    (s.retireUngathered p r).link.recvRun = s.link.recvRun ∧
    (s.retireUngathered p r).link.sendRun = s.link.sendRun ∧
    (s.retireUngathered p r).rack.tray = s.rack.tray := by
  unfold State.retireUngathered
  split <;> simp

@[simp] theorem State.placeBid_frame (b : PendingBid) (l : Nat) (s : State) :
    (s.placeBid b l).pending = s.pending ∧
    (s.placeBid b l).part = s.part ∧
    (s.placeBid b l).config = s.config ∧
    (s.placeBid b l).ctl = s.ctl ∧
    (s.placeBid b l).pockets = s.pockets ∧
    (s.placeBid b l).head = s.head ∧
    (s.placeBid b l).rack = s.rack ∧
    (s.placeBid b l).store = s.store ∧
    (s.placeBid b l).packs.entries = s.packs.entries ∧
    (s.placeBid b l).link.recvRun = s.link.recvRun ∧
    (s.placeBid b l).link.sendRun = s.link.sendRun := by
  simp [State.placeBid]

@[simp] theorem State.considerNew_frame (e : Entry) (s : State) :
    (s.considerNew e).pending = s.pending ∧
    (s.considerNew e).part = s.part ∧
    (s.considerNew e).config = s.config ∧
    (s.considerNew e).ctl = s.ctl ∧
    (s.considerNew e).pockets = s.pockets ∧
    (s.considerNew e).head = s.head ∧
    (s.considerNew e).rack = s.rack ∧
    (s.considerNew e).store = s.store ∧
    (s.considerNew e).packs.entries = s.packs.entries ∧
    (s.considerNew e).link.recvRun = s.link.recvRun ∧
    (s.considerNew e).link.sendRun = s.link.sendRun := by
  unfold State.considerNew
  (repeat' split) <;> simp

@[simp] theorem rescanOver_frame (es : List Entry) (s : State) :
    (rescanOver es s).pending = s.pending ∧
    (rescanOver es s).part = s.part ∧
    (rescanOver es s).config = s.config ∧
    (rescanOver es s).ctl = s.ctl ∧
    (rescanOver es s).pockets = s.pockets ∧
    (rescanOver es s).head = s.head ∧
    (rescanOver es s).rack = s.rack ∧
    (rescanOver es s).store = s.store ∧
    (rescanOver es s).packs.entries = s.packs.entries ∧
    (rescanOver es s).link.recvRun = s.link.recvRun ∧
    (rescanOver es s).link.sendRun = s.link.sendRun := by
  induction es generalizing s with
  | nil => simp [rescanOver]
  | cons e es ih =>
    unfold rescanOver
    (repeat' split) <;> simp [ih]

@[simp] theorem State.rescan_frame (s : State) :
    (s.rescan).pending = s.pending ∧
    (s.rescan).part = s.part ∧
    (s.rescan).config = s.config ∧
    (s.rescan).ctl = s.ctl ∧
    (s.rescan).pockets = s.pockets ∧
    (s.rescan).head = s.head ∧
    (s.rescan).rack = s.rack ∧
    (s.rescan).store = s.store ∧
    (s.rescan).packs.entries = s.packs.entries ∧
    (s.rescan).link.recvRun = s.link.recvRun ∧
    (s.rescan).link.sendRun = s.link.sendRun := by
  simp [State.rescan]

end Sys2Proof.Machine
end

