-- ==== Sys2Proof/Laws/QueueFrames.lean ====
section
/-!
SUPPORT. What each operation of Machine/FinishQueue.lean leaves unchanged, one lemma per operation.
-/
namespace Sys2Proof.Machine

open Sys2Proof.Config

@[simp] theorem State.reevaluate_frame (s : State) :
    (s.reevaluate).pending = s.pending ∧
    (s.reevaluate).part = s.part ∧
    (s.reevaluate).config = s.config ∧
    (s.reevaluate).ctl = s.ctl ∧
    (s.reevaluate).link = s.link ∧
    (s.reevaluate).packs = s.packs ∧
    (s.reevaluate).pockets = s.pockets ∧
    (s.reevaluate).rack = s.rack ∧
    (s.reevaluate).store = s.store ∧
    (s.reevaluate).head.state = s.head.state ∧
    (s.reevaluate).head.testWaiting = s.head.testWaiting ∧
    (s.reevaluate).head.arrivals = s.head.arrivals ∧
    (s.reevaluate).head.staples = s.head.staples ∧
    (s.reevaluate).head.readings = s.head.readings := by
  unfold State.reevaluate
  split <;> simp

@[simp] theorem State.startPhase_frame (op : Operation) (ph : Phase) (s : State) :
    (s.startPhase op ph).pending = s.pending ∧
    (s.startPhase op ph).part = s.part ∧
    (s.startPhase op ph).config = s.config ∧
    (s.startPhase op ph).ctl = s.ctl ∧
    (s.startPhase op ph).link = s.link ∧
    (s.startPhase op ph).packs = s.packs ∧
    (s.startPhase op ph).pockets = s.pockets ∧
    (s.startPhase op ph).rack = s.rack ∧
    (s.startPhase op ph).store = s.store ∧
    (s.startPhase op ph).head.queue = s.head.queue ∧
    (s.startPhase op ph).head.staples = s.head.staples ∧
    (s.startPhase op ph).head.readings = s.head.readings := by
  exact ⟨rfl, rfl, rfl, rfl, rfl, rfl, rfl, rfl, rfl, rfl, rfl, rfl⟩

@[simp] theorem State.grant_frame (e : QueueEntry) (s : State) :
    (s.grant e).pending = s.pending ∧
    (s.grant e).part = s.part ∧
    (s.grant e).config = s.config ∧
    (s.grant e).ctl = s.ctl ∧
    (s.grant e).link = s.link ∧
    (s.grant e).packs = s.packs ∧
    (s.grant e).rack = s.rack ∧
    (s.grant e).store = s.store ∧
    (s.grant e).head.staples = s.head.staples ∧
    (s.grant e).head.readings = s.head.readings := by
  exact ⟨rfl, rfl, rfl, rfl, rfl, rfl, rfl, rfl, rfl, rfl⟩

@[simp] theorem State.select_frame (s : State) :
    (s.select).pending = s.pending ∧
    (s.select).part = s.part ∧
    (s.select).config = s.config ∧
    (s.select).ctl = s.ctl ∧
    (s.select).link = s.link ∧
    (s.select).packs = s.packs ∧
    (s.select).rack = s.rack ∧
    (s.select).store = s.store ∧
    (s.select).head.staples = s.head.staples ∧
    (s.select).head.readings = s.head.readings := by
  unfold State.select
  (repeat' split) <;> simp

@[simp] theorem State.startTest_frame (s : State) :
    (s.startTest).pending = s.pending ∧
    (s.startTest).part = s.part ∧
    (s.startTest).config = s.config ∧
    (s.startTest).ctl = s.ctl ∧
    (s.startTest).link = s.link ∧
    (s.startTest).packs = s.packs ∧
    (s.startTest).pockets = s.pockets ∧
    (s.startTest).rack = s.rack ∧
    (s.startTest).store = s.store ∧
    (s.startTest).head.queue = s.head.queue ∧
    (s.startTest).head.staples = s.head.staples ∧
    (s.startTest).head.readings = s.head.readings := by
  exact ⟨rfl, rfl, rfl, rfl, rfl, rfl, rfl, rfl, rfl, rfl, rfl, rfl⟩

@[simp] theorem State.serve_frame (s : State) :
    (s.serve).pending = s.pending ∧
    (s.serve).part = s.part ∧
    (s.serve).config = s.config ∧
    (s.serve).ctl = s.ctl ∧
    (s.serve).link = s.link ∧
    (s.serve).packs = s.packs ∧
    (s.serve).rack = s.rack ∧
    (s.serve).store = s.store ∧
    (s.serve).head.staples = s.head.staples ∧
    (s.serve).head.readings = s.head.readings := by
  unfold State.serve
  (repeat' split) <;> simp

@[simp] theorem State.reevaluateAndServe_frame (s : State) :
    (s.reevaluateAndServe).pending = s.pending ∧
    (s.reevaluateAndServe).part = s.part ∧
    (s.reevaluateAndServe).config = s.config ∧
    (s.reevaluateAndServe).ctl = s.ctl ∧
    (s.reevaluateAndServe).link = s.link ∧
    (s.reevaluateAndServe).packs = s.packs ∧
    (s.reevaluateAndServe).rack = s.rack ∧
    (s.reevaluateAndServe).store = s.store ∧
    (s.reevaluateAndServe).head.staples = s.head.staples ∧
    (s.reevaluateAndServe).head.readings = s.head.readings := by
  simp [State.reevaluateAndServe]

@[simp] theorem State.headIdle_frame (s : State) :
    (s.headIdle).pending = s.pending ∧
    (s.headIdle).part = s.part ∧
    (s.headIdle).config = s.config ∧
    (s.headIdle).ctl = s.ctl ∧
    (s.headIdle).link = s.link ∧
    (s.headIdle).packs = s.packs ∧
    (s.headIdle).rack = s.rack ∧
    (s.headIdle).store = s.store ∧
    (s.headIdle).head.staples = s.head.staples ∧
    (s.headIdle).head.readings = s.head.readings := by
  simp [State.headIdle]

@[simp] theorem State.enqueue_frame (p : PocketId) (j : Job) (l : Lane) (s : State) :
    (s.enqueue p j l).pending = s.pending ∧
    (s.enqueue p j l).part = s.part ∧
    (s.enqueue p j l).config = s.config ∧
    (s.enqueue p j l).packs = s.packs ∧
    (s.enqueue p j l).pockets = s.pockets ∧
    (s.enqueue p j l).rack = s.rack ∧
    (s.enqueue p j l).store = s.store ∧
    (s.enqueue p j l).ctl.station = s.ctl.station ∧
    (s.enqueue p j l).ctl.counters = s.ctl.counters ∧
    (s.enqueue p j l).head.state = s.head.state ∧
    (s.enqueue p j l).head.staples = s.head.staples ∧
    (s.enqueue p j l).head.readings = s.head.readings ∧
    (s.enqueue p j l).link.recvRun = s.link.recvRun ∧
    (s.enqueue p j l).link.sendRun = s.link.sendRun := by
  simp [State.enqueue]

@[simp] theorem State.putBack_frame (op : Operation) (j : Job) (l : Lane) (k : Option StrokesDone) (s : State) :
    (s.putBack op j l k).pending = s.pending ∧
    (s.putBack op j l k).part = s.part ∧
    (s.putBack op j l k).config = s.config ∧
    (s.putBack op j l k).packs = s.packs ∧
    (s.putBack op j l k).rack = s.rack ∧
    (s.putBack op j l k).store = s.store ∧
    (s.putBack op j l k).ctl.station = s.ctl.station ∧
    (s.putBack op j l k).ctl.counters = s.ctl.counters ∧
    (s.putBack op j l k).head.staples = s.head.staples ∧
    (s.putBack op j l k).head.readings = s.head.readings ∧
    (s.putBack op j l k).link.recvRun = s.link.recvRun ∧
    (s.putBack op j l k).link.sendRun = s.link.sendRun := by
  simp [State.putBack]

@[simp] theorem State.closePocket_frame (p : PocketId) (j : Job) (s : State) :
    (s.closePocket p j).pending = s.pending ∧
    (s.closePocket p j).part = s.part ∧
    (s.closePocket p j).config = s.config ∧
    (s.closePocket p j).packs = s.packs ∧
    (s.closePocket p j).store = s.store ∧
    (s.closePocket p j).ctl.station = s.ctl.station ∧
    (s.closePocket p j).head.readings = s.head.readings ∧
    (s.closePocket p j).link.recvRun = s.link.recvRun ∧
    (s.closePocket p j).link.sendRun = s.link.sendRun ∧
    (s.closePocket p j).rack.tray = s.rack.tray := by
  unfold State.closePocket
  split <;> simp

@[simp] theorem State.convertWaiting_frame (p : PocketId) (r : AsideReason) (s : State) :
    (s.convertWaiting p r).pending = s.pending ∧
    (s.convertWaiting p r).part = s.part ∧
    (s.convertWaiting p r).config = s.config ∧
    (s.convertWaiting p r).link = s.link ∧
    (s.convertWaiting p r).packs = s.packs ∧
    (s.convertWaiting p r).store = s.store ∧
    (s.convertWaiting p r).ctl.station = s.ctl.station ∧
    (s.convertWaiting p r).ctl.hold = s.ctl.hold ∧
    (s.convertWaiting p r).head.readings = s.head.readings ∧
    (s.convertWaiting p r).rack.tray = s.rack.tray := by
  simp [State.convertWaiting]

@[simp] theorem State.checkPocket_frame (p : PocketId) (b : Bool) (s : State) :
    (s.checkPocket p b).pending = s.pending ∧
    (s.checkPocket p b).part = s.part ∧
    (s.checkPocket p b).config = s.config ∧
    (s.checkPocket p b).packs = s.packs ∧
    (s.checkPocket p b).rack = s.rack ∧
    (s.checkPocket p b).store = s.store ∧
    (s.checkPocket p b).ctl.station = s.ctl.station ∧
    (s.checkPocket p b).ctl.counters = s.ctl.counters ∧
    (s.checkPocket p b).head.state = s.head.state ∧
    (s.checkPocket p b).head.staples = s.head.staples ∧
    (s.checkPocket p b).head.readings = s.head.readings ∧
    (s.checkPocket p b).link.recvRun = s.link.recvRun ∧
    (s.checkPocket p b).link.sendRun = s.link.sendRun := by
  unfold State.checkPocket
  split <;> simp

end Sys2Proof.Machine
end

