-- ==== Sys2Proof/Laws/RecoveryFrames.lean ====
section
/-!
SUPPORT. What each operation of Machine/Recovery.lean and Machine/Link.lean leaves unchanged, one lemma per operation.
-/
namespace Sys2Proof.Machine

open Sys2Proof.Config

@[simp] theorem State.stopHead_frame (s : State) :
    (s.stopHead).pending = s.pending ∧
    (s.stopHead).part = s.part ∧
    (s.stopHead).config = s.config ∧
    (s.stopHead).ctl = s.ctl ∧
    (s.stopHead).link = s.link ∧
    (s.stopHead).packs = s.packs ∧
    (s.stopHead).pockets = s.pockets ∧
    (s.stopHead).rack = s.rack ∧
    (s.stopHead).store = s.store ∧
    (s.stopHead).head.queue = s.head.queue ∧
    (s.stopHead).head.staples = s.head.staples ∧
    (s.stopHead).head.readings = s.head.readings := by
  exact ⟨rfl, rfl, rfl, rfl, rfl, rfl, rfl, rfl, rfl, rfl, rfl, rfl⟩

@[simp] theorem State.enterHalting_frame (c : HaltCause) (s : State) :
    (s.enterHalting c).pending = s.pending ∧
    (s.enterHalting c).part = s.part ∧
    (s.enterHalting c).config = s.config ∧
    (s.enterHalting c).pockets = s.pockets ∧
    (s.enterHalting c).rack = s.rack ∧
    (s.enterHalting c).store = s.store ∧
    (s.enterHalting c).ctl.counters = s.ctl.counters ∧
    (s.enterHalting c).packs.entries = s.packs.entries ∧
    (s.enterHalting c).head.queue = s.head.queue ∧
    (s.enterHalting c).head.staples = s.head.staples ∧
    (s.enterHalting c).head.readings = s.head.readings ∧
    (s.enterHalting c).link.recvRun = s.link.recvRun ∧
    (s.enterHalting c).link.sendRun = s.link.sendRun := by
  simp [State.enterHalting]

@[simp] theorem State.holdFault_frame (c : HaltCause) (s : State) :
    (s.holdFault c).pending = s.pending ∧
    (s.holdFault c).part = s.part ∧
    (s.holdFault c).config = s.config ∧
    (s.holdFault c).link = s.link ∧
    (s.holdFault c).packs = s.packs ∧
    (s.holdFault c).pockets = s.pockets ∧
    (s.holdFault c).rack = s.rack ∧
    (s.holdFault c).store = s.store ∧
    (s.holdFault c).ctl.station = s.ctl.station ∧
    (s.holdFault c).ctl.hold = s.ctl.hold ∧
    (s.holdFault c).head.queue = s.head.queue ∧
    (s.holdFault c).head.staples = s.head.staples ∧
    (s.holdFault c).head.readings = s.head.readings := by
  unfold State.holdFault
  split <;> simp

@[simp] theorem State.takeFault_frame (c : HaltCause) (s : State) :
    (s.takeFault c).pending = s.pending ∧
    (s.takeFault c).part = s.part ∧
    (s.takeFault c).config = s.config ∧
    (s.takeFault c).pockets = s.pockets ∧
    (s.takeFault c).rack = s.rack ∧
    (s.takeFault c).store = s.store ∧
    (s.takeFault c).packs.entries = s.packs.entries ∧
    (s.takeFault c).head.queue = s.head.queue ∧
    (s.takeFault c).head.staples = s.head.staples ∧
    (s.takeFault c).head.readings = s.head.readings ∧
    (s.takeFault c).link.recvRun = s.link.recvRun ∧
    (s.takeFault c).link.sendRun = s.link.sendRun := by
  unfold State.takeFault
  split <;> simp

@[simp] theorem State.headFault_frame (c : HaltCause) (s : State) :
    (s.headFault c).pending = s.pending ∧
    (s.headFault c).part = s.part ∧
    (s.headFault c).config = s.config ∧
    (s.headFault c).pockets = s.pockets ∧
    (s.headFault c).rack = s.rack ∧
    (s.headFault c).store = s.store ∧
    (s.headFault c).packs.entries = s.packs.entries ∧
    (s.headFault c).head.queue = s.head.queue ∧
    (s.headFault c).head.staples = s.head.staples ∧
    (s.headFault c).head.readings = s.head.readings ∧
    (s.headFault c).link.recvRun = s.link.recvRun ∧
    (s.headFault c).link.sendRun = s.link.sendRun := by
  simp [State.headFault]

@[simp] theorem State.enterSafe_frame (s : State) :
    (s.enterSafe).pending = s.pending ∧
    (s.enterSafe).part = s.part ∧
    (s.enterSafe).config = s.config ∧
    (s.enterSafe).pockets = s.pockets ∧
    (s.enterSafe).rack = s.rack ∧
    (s.enterSafe).store = s.store ∧
    (s.enterSafe).ctl.counters = s.ctl.counters ∧
    (s.enterSafe).packs.entries = s.packs.entries ∧
    (s.enterSafe).head.queue = s.head.queue ∧
    (s.enterSafe).head.staples = s.head.staples ∧
    (s.enterSafe).head.readings = s.head.readings ∧
    (s.enterSafe).link.recvRun = s.link.recvRun ∧
    (s.enterSafe).link.sendRun = s.link.sendRun := by
  exact ⟨rfl, rfl, rfl, rfl, rfl, rfl, rfl, rfl, rfl, rfl, rfl, rfl, rfl⟩

@[simp] theorem State.linkLoss_frame (s : State) :
    (s.linkLoss).pending = s.pending ∧
    (s.linkLoss).part = s.part ∧
    (s.linkLoss).config = s.config ∧
    (s.linkLoss).pockets = s.pockets ∧
    (s.linkLoss).rack = s.rack ∧
    (s.linkLoss).store = s.store ∧
    (s.linkLoss).ctl.counters = s.ctl.counters ∧
    (s.linkLoss).packs.entries = s.packs.entries ∧
    (s.linkLoss).head.queue = s.head.queue ∧
    (s.linkLoss).head.staples = s.head.staples ∧
    (s.linkLoss).head.readings = s.head.readings ∧
    (s.linkLoss).link.recvRun = s.link.recvRun ∧
    (s.linkLoss).link.sendRun = s.link.sendRun := by
  unfold State.linkLoss
  split <;> simp

@[simp] theorem State.forgetStation_frame (n : Nat) (s : State) :
    (s.forgetStation n).pending = s.pending ∧
    (s.forgetStation n).part = s.part ∧
    (s.forgetStation n).config = s.config ∧
    (s.forgetStation n).ctl = s.ctl ∧
    (s.forgetStation n).link = s.link ∧
    (s.forgetStation n).pockets = s.pockets ∧
    (s.forgetStation n).head = s.head ∧
    (s.forgetStation n).rack = s.rack ∧
    (s.forgetStation n).store = s.store ∧
    (s.forgetStation n).packs.bids = s.packs.bids := by
  exact ⟨rfl, rfl, rfl, rfl, rfl, rfl, rfl, rfl, rfl, rfl⟩

@[simp] theorem State.forgetSelf_frame (s : State) :
    (s.forgetSelf).pending = s.pending ∧
    (s.forgetSelf).part = s.part ∧
    (s.forgetSelf).config = s.config ∧
    (s.forgetSelf).ctl = s.ctl ∧
    (s.forgetSelf).pockets = s.pockets ∧
    (s.forgetSelf).head = s.head ∧
    (s.forgetSelf).rack = s.rack ∧
    (s.forgetSelf).store = s.store ∧
    (s.forgetSelf).packs.bids = s.packs.bids ∧
    (s.forgetSelf).link.recvRun = s.link.recvRun ∧
    (s.forgetSelf).link.sendRun = s.link.sendRun := by
  exact ⟨rfl, rfl, rfl, rfl, rfl, rfl, rfl, rfl, rfl, rfl, rfl⟩

@[simp] theorem State.giveBack_frame (p : PocketId) (s : State) :
    (s.giveBack p).pending = s.pending ∧
    (s.giveBack p).part = s.part ∧
    (s.giveBack p).config = s.config ∧
    (s.giveBack p).ctl = s.ctl ∧
    (s.giveBack p).link = s.link ∧
    (s.giveBack p).packs = s.packs ∧
    (s.giveBack p).pockets = s.pockets ∧
    (s.giveBack p).store = s.store ∧
    (s.giveBack p).head.queue = s.head.queue ∧
    (s.giveBack p).head.state = s.head.state ∧
    (s.giveBack p).head.readings = s.head.readings ∧
    (s.giveBack p).rack.tray = s.rack.tray := by
  unfold State.giveBack
  split <;> simp

@[simp] theorem State.haltEchoed_frame (s : State) :
    (s.haltEchoed).pending = s.pending ∧
    (s.haltEchoed).part = s.part ∧
    (s.haltEchoed).config = s.config ∧
    (s.haltEchoed).store = s.store ∧
    (s.haltEchoed).ctl.counters = s.ctl.counters ∧
    (s.haltEchoed).ctl.hold = s.ctl.hold ∧
    (s.haltEchoed).head.state = s.head.state ∧
    (s.haltEchoed).head.readings = s.head.readings ∧
    (s.haltEchoed).link.recvRun = s.link.recvRun ∧
    (s.haltEchoed).link.sendRun = s.link.sendRun ∧
    (s.haltEchoed).rack.tray = s.rack.tray := by
  refine ⟨?_, ?_, ?_, ?_, ?_, ?_, ?_, ?_, ?_, ?_, ?_⟩
  · simp [State.haltEchoed, foldl_keeps (fun t => t.pending) (fun u p => State.giveBack p u) (fun t p => by simp)]
  · simp [State.haltEchoed, foldl_keeps (fun t => t.part) (fun u p => State.giveBack p u) (fun t p => by simp)]
  · simp [State.haltEchoed, foldl_keeps (fun t => t.config) (fun u p => State.giveBack p u) (fun t p => by simp)]
  · simp [State.haltEchoed, foldl_keeps (fun t => t.store) (fun u p => State.giveBack p u) (fun t p => by simp)]
  · simp [State.haltEchoed, foldl_keeps (fun t => t.ctl.counters) (fun u p => State.giveBack p u) (fun t p => by simp)]
  · simp [State.haltEchoed, foldl_keeps (fun t => t.ctl.hold) (fun u p => State.giveBack p u) (fun t p => by simp)]
  · simp [State.haltEchoed, foldl_keeps (fun t => t.head.state) (fun u p => State.giveBack p u) (fun t p => by simp)]
  · simp [State.haltEchoed, foldl_keeps (fun t => t.head.readings) (fun u p => State.giveBack p u) (fun t p => by simp)]
  · simp [State.haltEchoed, foldl_keeps (fun t => t.link.recvRun) (fun u p => State.giveBack p u) (fun t p => by simp)]
  · simp [State.haltEchoed, foldl_keeps (fun t => t.link.sendRun) (fun u p => State.giveBack p u) (fun t p => by simp)]
  · simp [State.haltEchoed, foldl_keeps (fun t => t.rack.tray) (fun u p => State.giveBack p u) (fun t p => by simp)]

@[simp] theorem State.enterDrain_frame (s : State) :
    (s.enterDrain).pending = s.pending ∧
    (s.enterDrain).part = s.part ∧
    (s.enterDrain).config = s.config ∧
    (s.enterDrain).pockets = s.pockets ∧
    (s.enterDrain).head = s.head ∧
    (s.enterDrain).rack = s.rack ∧
    (s.enterDrain).store = s.store ∧
    (s.enterDrain).ctl.counters = s.ctl.counters ∧
    (s.enterDrain).ctl.hold = s.ctl.hold ∧
    (s.enterDrain).packs.entries = s.packs.entries ∧
    (s.enterDrain).link.recvRun = s.link.recvRun ∧
    (s.enterDrain).link.sendRun = s.link.sendRun := by
  simp [State.enterDrain]

@[simp] theorem State.enterRun_frame (s : State) :
    (s.enterRun).pending = s.pending ∧
    (s.enterRun).part = s.part ∧
    (s.enterRun).config = s.config ∧
    (s.enterRun).pockets = s.pockets ∧
    (s.enterRun).head = s.head ∧
    (s.enterRun).rack = s.rack ∧
    (s.enterRun).store = s.store ∧
    (s.enterRun).ctl.counters = s.ctl.counters ∧
    (s.enterRun).ctl.hold = s.ctl.hold ∧
    (s.enterRun).packs.entries = s.packs.entries ∧
    (s.enterRun).link.recvRun = s.link.recvRun ∧
    (s.enterRun).link.sendRun = s.link.sendRun := by
  simp [State.enterRun]

@[simp] theorem State.resumePocket_frame (o : PocketLevels) (p : PocketId) (s : State) :
    (State.resumePocket o s p).pending = s.pending ∧
    (State.resumePocket o s p).part = s.part ∧
    (State.resumePocket o s p).config = s.config ∧
    (State.resumePocket o s p).packs = s.packs ∧
    (State.resumePocket o s p).rack = s.rack ∧
    (State.resumePocket o s p).store = s.store ∧
    (State.resumePocket o s p).ctl.station = s.ctl.station ∧
    (State.resumePocket o s p).ctl.counters = s.ctl.counters ∧
    (State.resumePocket o s p).head.state = s.head.state ∧
    (State.resumePocket o s p).head.staples = s.head.staples ∧
    (State.resumePocket o s p).head.readings = s.head.readings ∧
    (State.resumePocket o s p).link.recvRun = s.link.recvRun ∧
    (State.resumePocket o s p).link.sendRun = s.link.sendRun := by
  unfold State.resumePocket
  split <;> simp

@[simp] theorem State.resume_frame (o : PocketLevels) (s : State) :
    (s.resume o).pending = s.pending ∧
    (s.resume o).part = s.part ∧
    (s.resume o).config = s.config ∧
    (s.resume o).rack = s.rack ∧
    (s.resume o).store = s.store ∧
    (s.resume o).ctl.counters = s.ctl.counters ∧
    (s.resume o).packs.entries = s.packs.entries ∧
    (s.resume o).head.staples = s.head.staples ∧
    (s.resume o).head.readings = s.head.readings ∧
    (s.resume o).link.recvRun = s.link.recvRun ∧
    (s.resume o).link.sendRun = s.link.sendRun := by
  refine ⟨?_, ?_, ?_, ?_, ?_, ?_, ?_, ?_, ?_, ?_, ?_⟩
  · simp [State.resume, foldl_keeps (fun t => t.pending) (State.resumePocket o) (fun t p => by simp)]
  · simp [State.resume, foldl_keeps (fun t => t.part) (State.resumePocket o) (fun t p => by simp)]
  · simp [State.resume, foldl_keeps (fun t => t.config) (State.resumePocket o) (fun t p => by simp)]
  · simp [State.resume, foldl_keeps (fun t => t.rack) (State.resumePocket o) (fun t p => by simp)]
  · simp [State.resume, foldl_keeps (fun t => t.store) (State.resumePocket o) (fun t p => by simp)]
  · simp [State.resume, foldl_keeps (fun t => t.ctl.counters) (State.resumePocket o) (fun t p => by simp)]
  · simp [State.resume, foldl_keeps (fun t => t.packs.entries) (State.resumePocket o) (fun t p => by simp)]
  · simp [State.resume, foldl_keeps (fun t => t.head.staples) (State.resumePocket o) (fun t p => by simp)]
  · simp [State.resume, foldl_keeps (fun t => t.head.readings) (State.resumePocket o) (fun t p => by simp)]
  · simp [State.resume, foldl_keeps (fun t => t.link.recvRun) (State.resumePocket o) (fun t p => by simp)]
  · simp [State.resume, foldl_keeps (fun t => t.link.sendRun) (State.resumePocket o) (fun t p => by simp)]

@[simp] theorem State.readSensors_frame (r : ResumeReadings) (s : State) :
    (s.readSensors r).pending = s.pending ∧
    (s.readSensors r).config = s.config ∧
    (s.readSensors r).ctl = s.ctl ∧
    (s.readSensors r).link = s.link ∧
    (s.readSensors r).packs = s.packs ∧
    (s.readSensors r).pockets = s.pockets ∧
    (s.readSensors r).head = s.head ∧
    (s.readSensors r).rack = s.rack ∧
    (s.readSensors r).store = s.store := by
  exact ⟨rfl, rfl, rfl, rfl, rfl, rfl, rfl, rfl, rfl⟩

/-- All that a received frame of another member does on its own (R171). -/
theorem State.received_eq (s : State) : s.received = { s with link := { s.link with recvRun := 0 } } := rfl

@[simp] theorem State.received_frame (s : State) :
    s.received.pending = s.pending ∧
    s.received.part = s.part ∧
    s.received.config = s.config ∧
    s.received.ctl = s.ctl ∧
    s.received.packs = s.packs ∧
    s.received.pockets = s.pockets ∧
    s.received.head = s.head ∧
    s.received.rack = s.rack ∧
    s.received.store = s.store ∧
    s.received.link.queue = s.link.queue ∧
    s.received.link.nextNumber = s.link.nextNumber ∧
    s.received.link.lastEnded = s.link.lastEnded ∧
    s.received.link.sendRun = s.link.sendRun ∧
    s.received.link.recvRun = 0 := by
  exact ⟨rfl, rfl, rfl, rfl, rfl, rfl, rfl, rfl, rfl, rfl, rfl, rfl, rfl, rfl⟩

@[simp] theorem State.echoed_frame (e : TxEntry) (s : State) :
    (s.echoed e).pending = s.pending ∧
    (s.echoed e).part = s.part ∧
    (s.echoed e).config = s.config ∧
    (s.echoed e).ctl = s.ctl ∧
    (s.echoed e).packs = s.packs ∧
    (s.echoed e).pockets = s.pockets ∧
    (s.echoed e).head = s.head ∧
    (s.echoed e).rack = s.rack ∧
    (s.echoed e).store = s.store ∧
    (s.echoed e).link.recvRun = s.link.recvRun := by
  exact ⟨rfl, rfl, rfl, rfl, rfl, rfl, rfl, rfl, rfl, rfl⟩

end Sys2Proof.Machine
end

