-- ==== Sys2Proof/Laws/Lookups.lean ====
section
/-!
SUPPORT. What the lookups of State answer after each operation that changes what they read: entries, pending bids, bins,
transmit queue elements.
-/
namespace Sys2Proof.Machine

open Sys2Proof.Config

/-! ### Lookups read only what they name -/

theorem State.entry_congr {s t : State} (h : t.packs.entries = s.packs.entries) (id : PackId) : t.entry id = s.entry id := by
  simp [State.entry, h]

theorem State.pendingBid_congr {s t : State} (h : t.packs.bids = s.packs.bids) (id : PackId) :
    t.pendingBid id = s.pendingBid id := by
  simp [State.pendingBid, h]

theorem State.bin_congr {s t : State} (h : t.rack.bins = s.rack.bins) (n : Nat) : t.bin n = s.bin n := by
  simp [State.bin, h]

theorem State.undriven_congr {s t : State} {p : PocketId} (hp : t.pockets.get p = s.pockets.get p)
    (he : t.packs.entries = s.packs.entries) : t.undriven p = s.undriven p := by
  simp [State.undriven, hp, State.entry_congr he]

theorem State.targetBin_congr {s t : State} {p : PocketId} (hp : t.pockets.get p = s.pockets.get p)
    (he : t.packs.entries = s.packs.entries) : t.targetBin p = s.targetBin p := by
  simp [State.targetBin, hp, State.entry_congr he]

/-! ### Entries -/

/-- The entry found carries the id asked for. -/
theorem State.entry_id {s : State} {id : PackId} {e : Entry} (h : s.entry id = some e) : e.offer.id = id := by
  have := List.find?_some h
  simpa using this

theorem State.entry_mem {s : State} {id : PackId} {e : Entry} (h : s.entry id = some e) : e ∈ s.packs.entries :=
  List.mem_of_find?_eq_some h

/-- A change of an entry that keeps its offer's id changes what that id finds, and nothing else. -/
theorem State.entry_onEntry (id i : PackId) (f : Entry → Entry) (s : State) (hf : ∀ e, (f e).offer.id = e.offer.id) :
    (s.onEntry id f).entry i = if i = id then (s.entry i).map f else s.entry i := by
  have key : ∀ l : List Entry,
      (l.map fun e => if e.offer.id = id then f e else e).find? (fun e => decide (e.offer.id = i)) =
        if i = id then (l.find? fun e => decide (e.offer.id = i)).map f
        else l.find? fun e => decide (e.offer.id = i) := by
    intro l
    induction l with
    | nil => simp
    | cons x xs ih =>
      rw [List.map_cons, List.find?_cons, List.find?_cons, ih]
      by_cases hx : x.offer.id = id <;> by_cases hi : x.offer.id = i <;> by_cases hid : i = id <;> simp_all
  exact key s.packs.entries

theorem State.entry_retire (id i : PackId) (s : State) :
    (s.retire id).entry i = if i = id then none else s.entry i := by
  have key : ∀ l : List Entry,
      (l.filter fun e => decide (e.offer.id ≠ id)).find? (fun e => decide (e.offer.id = i)) =
        if i = id then none else l.find? fun e => decide (e.offer.id = i) := by
    intro l
    induction l with
    | nil => simp
    | cons x xs ih =>
      rw [List.filter_cons]
      by_cases hx : x.offer.id = id <;> by_cases hi : x.offer.id = i <;> by_cases hid : i = id <;>
        simp_all
  exact key s.packs.entries

/-! ### Pending bids -/

/-! ### The table keeps its order (R5) -/

theorem State.retire_entries (id : PackId) (s : State) :
    (s.retire id).packs.entries = entriesRetired id s.packs.entries := rfl

theorem State.placeEntry_entries (id : PackId) (owner : Nat) (a : Option Annex) (s : State) :
    (s.placeEntry id owner a).packs.entries = entriesPlaced id owner a s.packs.entries := rfl

theorem State.recordBid_entries (id : PackId) (r : BidRecord) (s : State) :
    (s.recordBid id r).packs.entries = entriesWithBid id r s.packs.entries := rfl

theorem State.pendingBid_dropBid (id i : PackId) (s : State) :
    (s.dropBid id).pendingBid i = if i = id then none else s.pendingBid i := by
  have key : ∀ l : List PendingBid,
      (l.filter fun b => decide (b.id ≠ id)).find? (fun b => decide (b.id = i)) =
        if i = id then none else l.find? fun b => decide (b.id = i) := by
    intro l
    induction l with
    | nil => simp
    | cons x xs ih =>
      rw [List.filter_cons]
      by_cases hx : x.id = id <;> by_cases hi : x.id = i <;> by_cases hid : i = id <;> simp_all
  exact key s.packs.bids

/-- Judging a drain changes the station state alone. -/
theorem State.judgeDrain_packs (s : State) : s.judgeDrain.packs = s.packs ∧ s.judgeDrain.link = s.link := by
  unfold State.judgeDrain
  split <;> simp

theorem State.releaseBid_bids (id : PackId) (s : State) :
    (s.releaseBid id).packs.bids = s.packs.bids.filter fun b => decide (b.id ≠ id) := by
  simp [State.releaseBid, State.dropBid]

/-! ### Bins -/

theorem State.bin_onBin (n k : Nat) (f : Bin → Bin) (s : State) :
    (s.onBin n f).bin k = if k = n then (s.bin k).map f else s.bin k := by
  unfold State.onBin State.bin
  by_cases hk : k = 0
  · subst hk
    by_cases hn : n = 0 <;> simp [hn]
  · by_cases hn : n = 0
    · subst hn
      simp [hk]
    · by_cases h : k = n
      · subst h
        simp [hn]
      · have : ¬ n - 1 = k - 1 := by omega
        simp [hn, hk, h, this]

/-- The commitments that R75 and R145 give back. -/
theorem State.releaseCommitments_spec (p : PocketId) (s : State) : CommitmentsReleased p s (s.releaseCommitments p) := by
  unfold CommitmentsReleased State.releaseCommitments
  have hb : ∀ (g : StapleBudget → StapleBudget) n, (s.onStaples g).bin n = s.bin n := fun g n => rfl
  cases h : s.targetBin p with
  | none =>
    refine ⟨rfl, fun n => ?_⟩
    cases hn : s.bin n <;> simp [hb, hn]
  | some k =>
    refine ⟨by simp, fun n => ?_⟩
    rw [State.bin_onBin, hb]
    by_cases hk : n = k
    · subst hk
      cases hn : s.bin n <;> simp
    · have : ¬ k = n := fun e => hk e.symm
      cases hn : s.bin n <;> simp [hk, this]

/-! ### The transmit queue -/

/-- Entering a frame adds it and keeps the others. -/
theorem mem_insertFrame {e x : TxEntry} {q : List TxEntry} : x ∈ insertFrame e q ↔ x = e ∨ x ∈ q := by
  induction q with
  | nil => simp [insertFrame]
  | cons y ys ih =>
    unfold insertFrame
    split
    · simp only [List.mem_cons, ih]
      tauto
    · simp

theorem insertFrame_perm (e : TxEntry) (q : List TxEntry) : (insertFrame e q).Perm (e :: q) := by
  induction q with
  | nil => exact List.Perm.refl _
  | cons y ys ih =>
    unfold insertFrame
    split
    · exact (ih.cons y).trans (List.Perm.swap e y ys)
    · exact List.Perm.refl _

/-- Outside SAFE an append queues the frame, unattempted and unmarked, and keeps the others. -/
theorem State.mem_append_queue {f : TxFrame} {x : TxEntry} {s : State} (h : s.ctl.station ≠ .safe) :
    x ∈ (s.append f).link.queue ↔
      x = { number := s.link.nextNumber, frame := f, attempting := false, mark := .none } ∨ x ∈ s.link.queue := by
  simp [State.append, h, mem_insertFrame]

theorem State.append_keeps {f : TxFrame} {x : TxEntry} {s : State} (h : x ∈ s.link.queue) :
    x ∈ (s.append f).link.queue := by
  unfold State.append
  split
  · exact h
  · simp [mem_insertFrame, h]

theorem State.append_queues (f : TxFrame) {s : State} (h : s.ctl.station ≠ .safe) :
    ∃ x ∈ (s.append f).link.queue, x.frame = f :=
  ⟨_, (State.mem_append_queue h).2 (Or.inl rfl), rfl⟩

/-- In SAFE nothing is queued (R172). -/
theorem State.append_safe {f : TxFrame} {s : State} (h : s.ctl.station = .safe) : s.append f = s := by
  simp [State.append, h]

end Sys2Proof.Machine
end

