-- ==== Sys2Proof/Laws/Serve.lean ====
section
/-!
SUPPORT. Everything a selection can do (R90, R91), and what the operations that end in one do: serving an IDLE head, appending an
entry (R85), closing a pocket (R74).
-/
namespace Sys2Proof.Machine

open Sys2Proof.Config

/-! ### The choice (R91) -/

theorem earliest_none {q : List QueueEntry} : earliest q = none ↔ q = [] := by
  cases q with
  | nil => simp [earliest]
  | cons e rest =>
    unfold earliest
    split
    · simp
    · split <;> simp

theorem earliest_some {q : List QueueEntry} {e : QueueEntry} (h : earliest q = some e) :
    e ∈ q ∧ ∀ x ∈ q, e.stamp ≤ x.stamp := by
  induction q generalizing e with
  | nil => simp [earliest] at h
  | cons y ys ih =>
    unfold earliest at h
    split at h
    · next hn =>
      have : ys = [] := earliest_none.1 hn
      subst this
      simp_all
    · next z hz =>
      obtain ⟨hm, hle⟩ := ih hz
      split at h
      · next hlt =>
        cases h
        refine ⟨by simp, fun x hx => ?_⟩
        rcases List.mem_cons.1 hx with rfl | hx
        · exact Nat.le_refl _
        · exact Nat.le_trans hlt (hle x hx)
      · next hlt =>
        cases h
        refine ⟨by simp [hm], fun x hx => ?_⟩
        rcases List.mem_cons.1 hx with rfl | hx
        · omega
        · exact hle x hx

/-- A candidate is a ready entry, and of the first class when some ready entry is. -/
theorem mem_candidates {q : List QueueEntry} {e : QueueEntry} :
    e ∈ candidates q ↔
      e ∈ q ∧ e.ready = true ∧
        ((∃ x ∈ q, x.ready = true ∧ x.firstClass = true) → e.firstClass = true) := by
  unfold candidates
  simp only
  split
  · next h =>
    simp only [List.isEmpty_iff, List.filter_eq_nil_iff, List.mem_filter] at h
    simp only [List.mem_filter]
    constructor
    · rintro ⟨h1, h2⟩
      exact ⟨h1, h2, fun ⟨x, hx, hr, hf⟩ => absurd hf (h x ⟨hx, hr⟩)⟩
    · rintro ⟨h1, h2, _⟩
      exact ⟨h1, h2⟩
  · next h =>
    simp only [List.isEmpty_iff, List.filter_eq_nil_iff, List.mem_filter, not_forall] at h
    obtain ⟨x, ⟨hx, hr⟩, hf⟩ := h
    simp only [List.mem_filter]
    constructor
    · rintro ⟨⟨h1, h2⟩, h3⟩
      exact ⟨h1, h2, fun _ => h3⟩
    · rintro ⟨h1, h2, h3⟩
      exact ⟨⟨h1, h2⟩, h3 ⟨x, hx, hr, by simpa using hf⟩⟩

theorem chosen_mem {q : List QueueEntry} {e : QueueEntry} (h : chosen q = some e) : e ∈ q ∧ e.blocked = none := by
  have := (mem_candidates.1 (earliest_some h).1)
  exact ⟨this.1, by simpa [QueueEntry.ready] using this.2.1⟩

/-! ### Serving the head (R90, R116) -/

/-- The record of a pocket after a change of its state alone. -/
theorem State.pocketTo_get (p : PocketId) (st : PocketState) (s : State) :
    (s.pocketTo p st).pockets.get p = { s.pockets.get p with state := st } := by simp [State.pocketTo]

theorem State.pocketTo_other {p r : PocketId} (st : PocketState) (s : State) (h : r ≠ p) :
    (s.pocketTo p st).pockets.get r = s.pockets.get r := State.onPocket_other _ _ h

/-- A grant moves its entry's pocket to AT_HEAD with the job (R77), and no other. -/
theorem State.grant_pocket (e : QueueEntry) (s : State) (p : PocketId) :
    (s.grant e).pockets.get p =
      if p = e.pocket then { s.pockets.get p with state := .atHead e.job } else s.pockets.get p := by
  have h : (s.grant e).pockets = (s.pocketTo e.pocket (.atHead e.job)).pockets := rfl
  rw [h]
  split
  · next hp => subst hp; exact State.pocketTo_get _ _ _
  · next hp => exact State.pocketTo_other _ _ hp

/-- Serving does nothing, starts a waiting self-test, or grants the chosen entry to an IDLE head. -/
theorem State.serve_cases (s : State) :
    s.serve = s ∨ (s.head.state = .idle ∧ s.head.testWaiting = true ∧ s.serve = s.startTest) ∨
      ∃ e ∈ s.head.queue, e.blocked = none ∧ chosen s.head.queue = some e ∧ s.head.state = .idle ∧
        s.ctl.station.selects = true ∧ s.serve = s.grant e := by
  unfold State.serve State.select
  split
  · next hi =>
    split
    · next ht => exact Or.inr (Or.inl ⟨hi, ht, rfl⟩)
    · split
      · next hs =>
        split
        · exact Or.inl rfl
        · next e he => exact Or.inr (Or.inr ⟨e, (chosen_mem he).1, (chosen_mem he).2, he, hi, hs, rfl⟩)
      · exact Or.inl rfl
  · exact Or.inl rfl
  · exact Or.inl rfl
  · exact Or.inl rfl

/-- A pocket that no queue entry names keeps its record. -/
theorem State.serve_pocket {s : State} {p : PocketId} (h : ∀ x ∈ s.head.queue, x.pocket ≠ p) :
    s.serve.pockets.get p = s.pockets.get p := by
  rcases s.serve_cases with e | ⟨-, -, e⟩ | ⟨x, hx, -, -, -, -, e⟩
  · rw [e]
  · rw [e]; rfl
  · rw [e, State.grant_pocket, if_neg fun hp => h x hx hp.symm]

/-- Where queue entries agree with their pockets, serving moves at most one pocket from WAITING to AT_HEAD with its job. -/
theorem State.serve_pockets {s : State} (h : ∀ x ∈ s.head.queue, (s.pockets.get x.pocket).state = .waiting x.job)
    (p : PocketId) :
    s.serve.pockets.get p = s.pockets.get p ∨
      ∃ j, (s.pockets.get p).state = .waiting j ∧
        s.serve.pockets.get p = { s.pockets.get p with state := .atHead j } := by
  rcases s.serve_cases with e | ⟨-, -, e⟩ | ⟨x, hx, -, -, -, -, e⟩
  · exact Or.inl (by rw [e])
  · exact Or.inl (by rw [e]; rfl)
  · rw [e, State.grant_pocket]
    split
    · next hp =>
      subst hp
      exact Or.inr ⟨x.job, h x hx, rfl⟩
    · exact Or.inl rfl

/-- Serving keeps the job, the pack and the sheets of every pocket. -/
theorem State.serve_pocket_parts {s : State}
    (h : ∀ x ∈ s.head.queue, (s.pockets.get x.pocket).state = .waiting x.job) (p : PocketId) :
    (s.serve.pockets.get p).job = (s.pockets.get p).job ∧ (s.serve.pockets.get p).bound = (s.pockets.get p).bound ∧
      (s.serve.pockets.get p).sheets = (s.pockets.get p).sheets ∧
      (s.serve.pockets.get p).timer = (s.pockets.get p).timer ∧
      (s.serve.pockets.get p).driven = (s.pockets.get p).driven := by
  rcases State.serve_pockets h p with e | ⟨j, hj, e⟩
  · simp [e]
  · simp [e, Pocket.job, hj]

theorem State.serve_arrivals (s : State) : s.serve.head.arrivals = s.head.arrivals := by
  rcases s.serve_cases with e | ⟨-, -, e⟩ | ⟨x, -, -, -, -, -, e⟩ <;> rw [e] <;> rfl

/-- A head that is not IDLE is not served. -/
theorem State.serve_busy {s : State} (h : s.head.state ≠ .idle) : s.serve = s := by
  rcases s.serve_cases with e | ⟨hi, -⟩ | ⟨x, -, -, -, hi, -⟩
  · exact e
  · exact absurd hi h
  · exact absurd hi h

/-- Serving leaves no STOPPED head where there was none. -/
theorem State.serve_not_stopped {s : State} (h : s.head.state ≠ .stopped) : s.serve.head.state ≠ .stopped := by
  rcases s.serve_cases with e | ⟨-, -, e⟩ | ⟨x, -, -, -, -, -, e⟩ <;> rw [e]
  · exact h
  · simp [State.startTest]
  · simp [State.grant]

/-- Without a ready entry nothing is chosen, and with one something is. -/
theorem chosen_none {q : List QueueEntry} : chosen q = none ↔ ∀ e ∈ q, e.blocked ≠ none := by
  unfold chosen
  rw [earliest_none]
  constructor
  · intro h e he hb
    by_cases hf : ∃ x ∈ q, x.ready = true ∧ x.firstClass = true
    · obtain ⟨x, hx, hr, hc⟩ := hf
      have : x ∈ candidates q := mem_candidates.2 ⟨hx, hr, fun _ => hc⟩
      simp [h] at this
    · have : e ∈ candidates q := mem_candidates.2 ⟨he, by simp [QueueEntry.ready, hb], fun h => absurd h hf⟩
      simp [h] at this
  · intro h
    refine List.eq_nil_iff_forall_not_mem.2 fun e he => ?_
    have := mem_candidates.1 he
    exact h e this.1 (by simpa [QueueEntry.ready] using this.2.1)

/-- Serving leaves an IDLE head with nothing to do (R90, R116). -/
theorem State.serve_served (s : State) : IdleHeadServed s.serve := by
  rcases s.serve_cases with e | ⟨-, -, e⟩ | ⟨x, -, -, -, -, -, e⟩
  · intro hi
    rw [e] at hi ⊢
    have ht : s.head.testWaiting = false := by
      by_contra ht
      have h : s.serve.head.state = .testing .light readingLimit := by
        simp [State.serve, hi, Bool.eq_true_of_not_eq_false ht, State.startTest]
      rw [e, hi] at h
      exact absurd h nofun
    refine ⟨ht, fun hst => chosen_none.1 ?_⟩
    have hsel : s.ctl.station.selects = true := by
      rcases hst with h | h | h | h | h <;> rw [h] <;> rfl
    cases hc : chosen s.head.queue with
    | none => rfl
    | some x =>
      have h : s.serve = s.grant x := by simp [State.serve, State.select, hi, ht, hsel, hc]
      rw [e] at h
      rw [h] at hi
      exact absurd hi (by simp [State.grant])
  · intro hi
    rw [e] at hi
    exact absurd hi (by simp [State.startTest])
  · intro hi
    rw [e] at hi
    exact absurd hi (by simp [State.grant])

theorem passOver_parts (n : Nat) (e : QueueEntry) :
    (passOver n e).pocket = e.pocket ∧ (passOver n e).job = e.job ∧ (passOver n e).lane = e.lane ∧
      (passOver n e).stamp = e.stamp ∧ (passOver n e).blocked = e.blocked ∧ (passOver n e).strokes = e.strokes := by
  unfold passOver
  split <;> simp

theorem passOver_blocked {n : Nat} {e : QueueEntry} (h : e.blocked ≠ none) : passOver n e = e := by
  unfold passOver
  split
  · next hc =>
    simp [QueueEntry.ready] at hc
    exact absurd hc.1 h
  · rfl

/-- Every entry left by serving stood in the queue, with at most its pass-over count changed. -/
theorem State.serve_queue {s : State} {x : QueueEntry} (h : x ∈ s.serve.head.queue) :
    ∃ y ∈ s.head.queue, x = y ∨ ∃ n, x = passOver n y := by
  rcases s.serve_cases with e | ⟨-, -, e⟩ | ⟨z, -, -, -, -, -, e⟩ <;> rw [e] at h
  · exact ⟨x, h, Or.inl rfl⟩
  · exact ⟨x, h, Or.inl rfl⟩
  · simp only [State.grant, State.headTo_queue, State.pocketTo_frame, State.onHead_head, List.mem_map] at h
    obtain ⟨y, hy, rfl⟩ := h
    exact ⟨y, List.mem_of_mem_erase hy, Or.inr ⟨_, rfl⟩⟩

/-- A blocked entry stays as it is. -/
theorem State.serve_keeps_blocked {s : State} {x : QueueEntry} (h : x ∈ s.head.queue) (hb : x.blocked ≠ none) :
    x ∈ s.serve.head.queue := by
  rcases s.serve_cases with e | ⟨-, -, e⟩ | ⟨z, -, hz, -, -, -, e⟩ <;> rw [e]
  · exact h
  · exact h
  · simp only [State.grant, State.headTo_queue, State.pocketTo_frame, State.onHead_head, List.mem_map]
    exact ⟨x, (List.mem_erase_of_ne fun hx => hb (by rw [hx]; exact hz)).2 h, passOver_blocked hb⟩

/-- A grant makes the head BUSY with the entry's pocket, job, lane, stamp and pass-over count. -/
theorem State.grant_busy (z : QueueEntry) (s : State) :
    ∃ op, (s.grant z).head.state = .busy op ∧ op.pocket = z.pocket ∧ op.job = z.job ∧ op.lane = z.lane ∧
      op.stamp = z.stamp ∧ op.passOvers = z.passOvers :=
  ⟨_, rfl, rfl, rfl, rfl, rfl, rfl⟩

/-- Serving after a change of the pockets that are `own` and of reasons and pass-overs alone (R77, R87, R90, R91). -/
theorem State.serve_others {own : PocketId → Prop} {s u : State}
    (hw : ∀ x ∈ u.head.queue, (u.pockets.get x.pocket).state = .waiting x.job)
    (hp : ∀ q, ¬ own q → u.pockets.get q = s.pockets.get q)
    (hto : ∀ y ∈ s.head.queue, ¬ own y.pocket →
      ∃ x ∈ u.head.queue, x = { y with passOvers := x.passOvers, blocked := x.blocked })
    (hof : ∀ x ∈ u.head.queue, own x.pocket ∨
      ∃ y ∈ s.head.queue, x = { y with passOvers := x.passOvers, blocked := x.blocked }) :
    OthersServed own s u.serve := by
  rcases u.serve_cases with e | ⟨-, -, e⟩ | ⟨z, hz, -, -, -, -, e⟩ <;> rw [e]
  · exact ⟨fun q hq => Or.inl (hp q hq), fun y hy hn => Or.inl (hto y hy hn), hof⟩
  · exact ⟨fun q hq => Or.inl (hp q hq), fun y hy hn => Or.inl (hto y hy hn), hof⟩
  · obtain ⟨op, h0, h1, h2, h3, h4, -⟩ := u.grant_busy z
    have hqueue : (u.grant z).head.queue = (u.head.queue.erase z).map (passOver z.stamp) := by
      simp [State.grant]
    have hpass : ∀ x y : QueueEntry, x = { y with passOvers := x.passOvers, blocked := x.blocked } →
        passOver z.stamp x =
          { y with passOvers := (passOver z.stamp x).passOvers, blocked := (passOver z.stamp x).blocked } := by
      intro x y hxy
      obtain ⟨a, b, c, d, -, f⟩ := passOver_parts z.stamp x
      generalize passOver z.stamp x = w at *
      cases w
      simp only at a b c d f
      rw [a, b, c, d, f, hxy]
    refine ⟨fun q hq => ?_, fun y hy hn => ?_, fun x hx => ?_⟩
    · rw [State.grant_pocket]
      split
      · next h =>
        subst h
        exact Or.inr ⟨z.job, hp _ hq ▸ hw z hz, by rw [hp _ hq], op, h0, h1, h2⟩
      · exact Or.inl (hp q hq)
    · obtain ⟨x, hx, hxy⟩ := hto y hy hn
      by_cases hxz : x = z
      · refine Or.inr ⟨op, h0, ?_⟩
        rw [h1, h2, h3, h4, ← hxz, hxy]
        exact ⟨rfl, rfl, rfl, rfl⟩
      · exact Or.inl ⟨_, by rw [hqueue]; exact List.mem_map_of_mem ((List.mem_erase_of_ne hxz).2 hx), hpass x y hxy⟩
    · rw [hqueue] at hx
      obtain ⟨w, hw', rfl⟩ := List.mem_map.1 hx
      rw [(passOver_parts z.stamp w).1]
      exact (hof w (List.mem_of_mem_erase hw')).imp_right fun ⟨y, hy, h⟩ => ⟨y, hy, hpass w y h⟩

/-- A head that becomes IDLE is served (R87, R90, R116). -/
theorem State.headIdle_freed (s : State) : HeadFreed s s.headIdle := by
  have hs : s.headIdle = ((s.headTo .idle).reevaluate).serve := rfl
  generalize hu : (s.headTo .idle).reevaluate = u at hs
  have hi : u.head.state = .idle := by simp [← hu]
  have ht : u.head.testWaiting = s.head.testWaiting := by simp [← hu, State.headTo, State.onHead]
  rw [hs]
  refine ⟨State.serve_not_stopped (by rw [hi]; nofun), fun h => ?_, fun h => ?_, State.serve_served _⟩
  · simp [State.serve, hi, ht, h, State.startTest, readingLimit]
  · rcases u.serve_cases with e | ⟨-, hw, -⟩ | ⟨z, -, -, -, -, -, e⟩
    · simp [e, State.testing, hi, ht, h]
    · rw [ht, h] at hw
      exact absurd hw (by decide)
    · obtain ⟨op, hb, -⟩ := u.grant_busy z
      have hg : (u.grant z).head.testWaiting = u.head.testWaiting := rfl
      simp [e, State.testing, hg, ht, h, hb]

/-! ### Appending and closing (R74, R85) -/

/-- The hold judgement leaves the head as it is. -/
theorem State.noteHold_head (b : Bool) (s : State) : (s.noteHold b).head = s.head := by simp

/-- An append puts the pocket's entry at the end of the queue with the next stamp. -/
theorem State.enqueue_queue (p : PocketId) (j : Job) (l : Lane) (s : State) :
    (s.enqueue p j l).head =
      { s.head with queue := s.head.queue ++ [s.newEntry p j l], arrivals := s.head.arrivals + 1 } := by
  simp [State.enqueue]

theorem State.pocketStops_get (p : PocketId) (st : PocketState) (s : State) :
    (s.pocketStops p st).pockets.get p = { s.pockets.get p with state := st, timer := none } := by simp [State.pocketStops]

theorem State.pocketStops_other {p r : PocketId} (st : PocketState) (s : State) (h : r ≠ p) :
    (s.pocketStops p st).pockets.get r = s.pockets.get r := State.onPocket_other _ _ h

/-- A pocket that no entry names, closing with a job: it ends WAITING or AT_HEAD with the job, the other pockets keep their jobs,
packs and sheets, the commitments are released by a set-aside alone, and an IDLE head is served. -/
theorem State.closePocket_spec {p : PocketId} (j : Job) {s : State} (hq : ∀ x ∈ s.head.queue, x.pocket ≠ p)
    (hw : ∀ x ∈ s.head.queue, (s.pockets.get x.pocket).state = .waiting x.job) :
    ClosedAs p j s.ctl.counters s (s.closePocket p j) ∧
      ((s.closePocket p j).pockets.get p).sheets = (s.pockets.get p).sheets ∧
      ((s.closePocket p j).pockets.get p).bound = (s.pockets.get p).bound ∧
      (∀ r, r ≠ p →
        ((s.closePocket p j).pockets.get r).job = (s.pockets.get r).job ∧
          ((s.closePocket p j).pockets.get r).bound = (s.pockets.get r).bound ∧
          ((s.closePocket p j).pockets.get r).sheets = (s.pockets.get r).sheets) ∧
      OthersServed (fun q => q = p) s (s.closePocket p j) ∧ IdleHeadServed (s.closePocket p j) := by
  let u : State :=
    match j with
    | .setAside r => s.accountAside p r
    | .finish => s
    | .clear => s
  let t : State := (u.pocketStops p (.waiting j)).enqueue p j (s.laneFor p j)
  have hc : s.closePocket p j = t.serve := rfl
  have hup : u.pockets = s.pockets := by
    simp only [u]; cases j <;> simp
  have huq : u.head.queue = s.head.queue := by
    simp only [u]; cases j <;> simp
  have hua : u.head.arrivals = s.head.arrivals := by
    simp only [u]; cases j <;> simp [State.accountAside, State.releaseCommitments]
    split <;> simp [State.onStaples]
  have htp : ∀ r, t.pockets.get r = (u.pocketStops p (.waiting j)).pockets.get r := fun r => by simp [t]
  have htq : t.head.queue = s.head.queue ++ [(u.pocketStops p (.waiting j)).newEntry p j (s.laneFor p j)] := by
    simp [t, State.enqueue_queue, huq]
  have hwait : ∀ x ∈ t.head.queue, (t.pockets.get x.pocket).state = .waiting x.job := by
    intro x hx
    rw [htq] at hx
    rcases List.mem_append.1 hx with hx | hx
    · rw [htp, State.pocketStops_other _ _ (hq x hx), hup]
      exact hw x hx
    · simp only [List.mem_singleton] at hx
      subst hx
      rw [htp]
      simp [State.newEntry, State.pocketStops_get]
  have parts := State.serve_pocket_parts hwait
  have hself : t.pockets.get p = { s.pockets.get p with state := .waiting j, timer := none } := by
    rw [htp, State.pocketStops_get, hup]
  have hother : ∀ r, r ≠ p → t.pockets.get r = s.pockets.get r := fun r hr => by
    rw [htp, State.pocketStops_other _ _ hr, hup]
  rw [hc]
  refine ⟨⟨?_, ?_, ?_, ?_⟩, ?_, ?_, fun r hr => ?_, State.serve_others hwait hother ?_ ?_, t.serve_served⟩
  · rw [(parts p).1, hself]; rfl
  · rw [(parts p).2.2.2.1, hself]
  · rw [State.serve_arrivals]
    simp [t, State.enqueue_queue, State.pocketStops, State.onPocket, hua]
  · cases j with
    | setAside r =>
      refine ⟨?_, by simp [t, u, State.accountAside]⟩
      have h := State.releaseCommitments_spec p s
      refine ⟨?_, fun n => ?_⟩
      · simpa [t, u, State.accountAside] using h.1
      · rw [← h.2 n]
        exact State.bin_congr (by simp [t, u, State.accountAside]) n
    | finish => exact ⟨by simp [t, u], by simp [t, u], by simp [t, u]⟩
    | clear => exact ⟨by simp [t, u], by simp [t, u], by simp [t, u]⟩
  · rw [(parts p).2.2.1, hself]
  · rw [(parts p).2.1, hself]
  · rw [(parts r).1, (parts r).2.1, (parts r).2.2.1, hother r hr]
    exact ⟨rfl, rfl, rfl⟩
  · exact fun y hy _ => ⟨y, by rw [htq]; exact List.mem_append_left _ hy, rfl⟩
  · intro x hx
    rw [htq] at hx
    rcases List.mem_append.1 hx with hx | hx
    · exact Or.inr ⟨x, hx, rfl⟩
    · rw [List.mem_singleton.1 hx]
      exact Or.inl rfl

end Sys2Proof.Machine
end

