-- ==== Sys2Proof/Laws/Endings.lean ====
section
/-!
SUPPORT. Everything that ending a pack can do: the end message (R13), a pocket that retires without a head operation (R72, R79), a
pocket that closes after its record has changed (R74).
-/
namespace Sys2Proof.Machine

open Sys2Proof.Config

/-- An event at a part that takes events is its effect. -/
theorem event_running {f : State → State} {s : State} (h : s.running = true) : event f s = .next (f s) := by
  simp [event, h]

/-! ### End messages (R13) -/

theorem Entry.ending_offer (e : Entry) : e.ending.offer = e.offer := by
  unfold Entry.ending
  split <;> rfl

/-- The annex of a pack becomes ENDING, the table keeping its order. -/
theorem State.onEntry_ending (id : PackId) (s : State) :
    (s.onEntry id Entry.ending).packs.entries = entriesEnding id s.packs.entries := by
  refine List.map_congr_left fun e _ => ?_
  by_cases h : e.offer.id = id
  · simp only [h, if_true]
    unfold Entry.ending
    split <;> simp_all
  · simp only [h, if_false]

/-- The end message of an owned pack with a LIVE annex is queued and the annex becomes ENDING, the table keeping its order. -/
theorem State.requestEnd_live {id : PackId} {f : TxFrame} {e : Entry} {a : Annex} {s : State}
    (he : s.entry id = some e) (hp : e.state = .placed s.address (some a)) (hl : a.stage = .live)
    (hs : s.ctl.station ≠ .safe) :
    (∃ x ∈ (s.requestEnd id f).link.queue, x.frame = f) ∧
      (s.requestEnd id f).entry id = some { e with state := .placed s.address (some { a with stage := .ending }) } ∧
      (s.requestEnd id f).packs.entries = entriesEnding id s.packs.entries := by
  have hend : e.endable s.address = true := by simp [Entry.endable, hp, hl]
  have hreq : s.requestEnd id f = (s.append f).onEntry id Entry.ending := by simp [State.requestEnd, he, hend]
  have hent : ∀ i, (s.append f).entry i = s.entry i := State.entry_congr (by simp)
  have hid : ∀ x : Entry, x.ending.offer.id = x.offer.id := fun x => by rw [Entry.ending_offer]
  rw [hreq]
  refine ⟨by simpa using State.append_queues f hs, ?_, by rw [State.onEntry_ending]; simp⟩
  rw [State.entry_onEntry _ _ _ _ hid, if_pos rfl, hent, he]
  simp [Entry.ending, hp]

/-- An end message for a pack without an entry is discarded. -/
theorem State.requestEnd_none {id : PackId} {f : TxFrame} {s : State} (he : s.entry id = none) :
    s.requestEnd id f = s := by simp [State.requestEnd, he]

/-! ### Commitments are found through the bound pack alone -/

theorem State.undriven_bound {s u : State} {p : PocketId}
    (hb : (u.pockets.get p).bound.map Binding.pack = (s.pockets.get p).bound.map Binding.pack)
    (hd : (u.pockets.get p).driven = (s.pockets.get p).driven) (he : u.packs.entries = s.packs.entries) :
    u.undriven p = s.undriven p := by
  unfold State.undriven
  cases h1 : (u.pockets.get p).bound <;> cases h2 : (s.pockets.get p).bound <;> simp_all [State.entry_congr he]

theorem State.targetBin_bound {s u : State} {p : PocketId}
    (hb : (u.pockets.get p).bound.map Binding.pack = (s.pockets.get p).bound.map Binding.pack)
    (he : u.packs.entries = s.packs.entries) : u.targetBin p = s.targetBin p := by
  unfold State.targetBin
  cases h1 : (u.pockets.get p).bound <;> cases h2 : (s.pockets.get p).bound <;> simp_all [State.entry_congr he]

/-- A release judged in a state that agrees on the budget, the rack and the pack's commitments. -/
theorem CommitmentsReleased.transfer {p : PocketId} {s u t : State} (h : CommitmentsReleased p u t)
    (hs : u.head.staples = s.head.staples) (hr : u.rack.bins = s.rack.bins)
    (hb : (u.pockets.get p).bound.map Binding.pack = (s.pockets.get p).bound.map Binding.pack)
    (hd : (u.pockets.get p).driven = (s.pockets.get p).driven) (he : u.packs.entries = s.packs.entries) :
    CommitmentsReleased p s t := by
  refine ⟨?_, fun n => ?_⟩
  · rw [h.1, hs, State.undriven_bound hb hd he]
  · rw [h.2 n, State.targetBin_bound hb he, State.bin_congr hr]

/-- A closing judged in a state that agrees on the head, the rack and the pack's commitments. -/
theorem ClosedAs.transfer {p : PocketId} {j : Job} {k : Counters} {s u t : State} (h : ClosedAs p j k u t)
    (hh : u.head = s.head) (hr : u.rack = s.rack)
    (hb : (u.pockets.get p).bound.map Binding.pack = (s.pockets.get p).bound.map Binding.pack)
    (hd : (u.pockets.get p).driven = (s.pockets.get p).driven) (he : u.packs.entries = s.packs.entries) :
    ClosedAs p j k s t := by
  obtain ⟨h1, h2, h3, h4⟩ := h
  refine ⟨h1, h2, by rw [h3, hh], ?_⟩
  cases j with
  | setAside r => exact ⟨h4.1.transfer (by rw [hh]) (by rw [hr]) hb hd he, h4.2⟩
  | finish => simpa [hh, hr] using h4
  | clear => simpa [hh, hr] using h4

/-- A pocket of `s` that no entry names closes after its own record (`u`) has changed: the closing as it looks from `s`. -/
theorem State.closePocket_from {p : PocketId} (j : Job) {s u : State} (hq : ∀ x ∈ s.head.queue, x.pocket ≠ p)
    (hw : ∀ x ∈ s.head.queue, (s.pockets.get x.pocket).state = .waiting x.job) (hh : u.head = s.head)
    (hr : u.rack = s.rack) (ho : ∀ r, r ≠ p → u.pockets.get r = s.pockets.get r)
    (hb : (u.pockets.get p).bound.map Binding.pack = (s.pockets.get p).bound.map Binding.pack)
    (hd : (u.pockets.get p).driven = (s.pockets.get p).driven) (he : u.packs = s.packs) :
    ClosedAs p j u.ctl.counters s (u.closePocket p j) ∧ (u.closePocket p j).packs = s.packs ∧
      (u.closePocket p j).store = u.store ∧ (u.closePocket p j).config = u.config ∧
      (u.closePocket p j).rack.tray = s.rack.tray ∧ (u.closePocket p j).head.readings = s.head.readings ∧
      (u.closePocket p j).part = u.part ∧ ((u.closePocket p j).pockets.get p).sheets = (u.pockets.get p).sheets ∧
      (∀ r, r ≠ p →
        ((u.closePocket p j).pockets.get r).bound = (s.pockets.get r).bound ∧
          ((u.closePocket p j).pockets.get r).sheets = (s.pockets.get r).sheets ∧
          ((u.closePocket p j).pockets.get r).job = (s.pockets.get r).job) ∧
      OthersServed (fun q => q = p) s (u.closePocket p j) ∧ IdleHeadServed (u.closePocket p j) := by
  have h := State.closePocket_spec (p := p) j (s := u) (by rw [hh]; exact hq) (by
    rw [hh]
    intro x hx
    rw [ho _ (hq x hx)]
    exact hw x hx)
  refine ⟨h.1.transfer hh hr hb hd (by rw [he]), by simp [he], by simp, by simp, by simp [hr], by simp [hh], by simp,
    h.2.1, fun r hrp => ?_, ⟨fun q hq => ?_, by rw [← hh]; exact h.2.2.2.2.1.2.1, by rw [← hh]; exact h.2.2.2.2.1.2.2⟩,
    h.2.2.2.2.2⟩
  · have hp := h.2.2.2.1 r hrp
    rw [ho r hrp] at hp
    exact ⟨hp.2.1, hp.2.2, hp.1⟩
  · have hp := h.2.2.2.2.1.1 q hq
    rwa [ho q hq] at hp

/-! ### A pocket that retires without an operation (R72, R79) -/

/-- The pocket is RETIRING with its timer ended, the commitments are back, the reason is counted, and the ASIDE of an owned pack
with a LIVE annex is queued. -/
theorem State.retireUngathered_spec (p : PocketId) (r : AsideReason) (s : State) :
    (s.retireUngathered p r).pockets.get p =
        { s.pockets.get p with state := .retiring (.setAside r), timer := none } ∧
      OtherPocketsUnchanged p s (s.retireUngathered p r) ∧ CommitmentsReleased p s (s.retireUngathered p r) ∧
      (s.retireUngathered p r).ctl = { s.ctl with counters := s.ctl.counters.bump (.setAside r) } ∧
      (s.ctl.station ≠ .safe →
        ∀ b e a, (s.pockets.get p).bound = some b → s.entry b.pack = some e → e.state = .placed s.address (some a) →
          a.stage = .live →
          (∃ x ∈ (s.retireUngathered p r).link.queue, x.frame = .aside b.pack r) ∧
            (s.retireUngathered p r).entry b.pack =
              some { e with state := .placed s.address (some { a with stage := .ending }) } ∧
            (s.retireUngathered p r).packs.entries = entriesEnding b.pack s.packs.entries) := by
  let t := (s.accountAside p r).pocketStops p (.retiring (.setAside r))
  have hcase : s.retireUngathered p r = t ∨ ∃ id f, s.retireUngathered p r = t.requestEnd id f := by
    unfold State.retireUngathered
    cases (s.pockets.get p).bound with
    | none => exact Or.inl rfl
    | some b => exact Or.inr ⟨_, _, rfl⟩
  have hpk : (s.retireUngathered p r).pockets = t.pockets := by
    rcases hcase with h | ⟨i, f, h⟩ <;> rw [h]
    simp
  have hst : (s.retireUngathered p r).head.staples = t.head.staples := by
    rcases hcase with h | ⟨i, f, h⟩ <;> rw [h]
    simp
  have hrk : (s.retireUngathered p r).rack = t.rack := by
    rcases hcase with h | ⟨i, f, h⟩ <;> rw [h]
    simp
  have hct : (s.retireUngathered p r).ctl = t.ctl := by
    rcases hcase with h | ⟨i, f, h⟩ <;> rw [h]
    simp
  refine ⟨?_, fun q hq => ?_, ⟨?_, fun n => ?_⟩, ?_, ?_⟩
  · rw [hpk]
    simp [t, State.pocketStops_get]
  · rw [hpk]
    simp [t, State.pocketStops_other _ _ hq]
  · rw [hst]
    simpa [t, State.accountAside] using (State.releaseCommitments_spec p s).1
  · rw [State.bin_congr (s := s.releaseCommitments p) (by rw [hrk]; simp [t, State.accountAside])]
    exact (State.releaseCommitments_spec p s).2 n
  · rw [hct]
    simp [t, State.accountAside, State.count]
  · intro hs b e a hb he hp hl
    have hreq : s.retireUngathered p r = t.requestEnd b.pack (.aside b.pack r) := by
      simp [State.retireUngathered, hb, t]
    have hent : ∀ i, t.entry i = s.entry i := State.entry_congr (by simp [t])
    have hadr : t.address = s.address := by simp [State.address, t]
    have h := State.requestEnd_live (f := .aside b.pack r) (hent b.pack ▸ he) (hadr.symm ▸ hp) hl
      (by simpa [t] using hs)
    rw [hadr] at h
    rw [hreq]
    exact ⟨h.1, h.2.1, h.2.2.trans (by simp [t])⟩

end Sys2Proof.Machine
end

