-- ==== Sys2Proof/Laws/Requests.lean ====
section
/-!
SUPPORT. Everything that an append, a report, a removal, a replace, the end of an attempt, a change of the hold condition and a
re-evaluation can do (R34, R36, R39, R86, R87, R157, R165, R169, R176 to R178).
-/
namespace Sys2Proof.Machine

open Sys2Proof.Config

/-! ### Appends (R168, R172) -/

/-- Outside SAFE an append queues the frame beside the others. -/
theorem State.append_queued (f : TxFrame) {s : State} (h : s.ctl.station ≠ .safe) :
    FrameQueued f (fun _ => True) s.link (s.append f).link := by
  refine ⟨by simp [State.append, h], fun x => ?_⟩
  rw [State.mem_append_queue h, and_true]

/-- Outside SAFE a requested end message is queued for an owned pack with a LIVE annex, and discarded otherwise (R13). -/
theorem State.requestEnd_requested (id : PackId) (f : TxFrame) {s : State} (h : s.ctl.station ≠ .safe) :
    EndRequested id f s.link s (s.requestEnd id f) := by
  refine ⟨fun e a he hp hl => ?_, fun hno => ?_⟩
  · have hreq : s.requestEnd id f = (s.append f).onEntry id Entry.ending := by
      simp [State.requestEnd, he, Entry.endable, hp, hl]
    obtain ⟨-, hent, hents⟩ := State.requestEnd_live (f := f) he hp hl h
    refine ⟨by rw [hreq]; exact State.append_queued f h, ?_, hent⟩
    rw [← hents, hreq]
    simp [State.onEntry, State.onPacks]
  · have : s.requestEnd id f = s := by
      unfold State.requestEnd
      split
      · rfl
      · next e he =>
        split
        · next hend =>
          exfalso
          unfold Entry.endable at hend
          split at hend
          · next o a hp =>
            simp at hend
            have := hno e a he (by rw [hp, hend.1])
            rw [hend.2] at this
            cases this
          · exact absurd hend (by decide)
          · exact absurd hend (by decide)
        · rfl
    rw [this]
    exact ⟨rfl, rfl⟩

/-- A write of the retained values (R188). -/
theorem State.writeStore_written (s : State) : StoreWritten s s.writeStore := by
  unfold State.writeStore
  cases h : s.config with
  | none => exact ⟨fun _ => rfl, fun c hc => absurd (h.symm.trans hc) nofun⟩
  | some c =>
    refine ⟨fun hc => absurd (h.symm.trans hc) nofun, fun k hk => ?_⟩
    obtain rfl : c = k := Option.some.inj (h.symm.trans hk)
    rfl

/-- Judging a drain, wherever it is judged (R190). -/
theorem State.judgeDrain_judged (s : State) : DrainJudged True s s.judgeDrain := by
  have hd : s.drained = true ↔ (∀ p, (s.pockets.get p).isBound = false) ∧ s.packs.bids = [] := by
    simp only [State.drained, Bool.and_eq_true, List.all_eq_true, Bool.not_eq_true', List.isEmpty_iff]
    exact and_congr_left fun _ => ⟨fun h p => h p (by cases p <;> decide), fun h p _ => h p⟩
  unfold State.judgeDrain
  split
  · next h =>
    exact ⟨rfl, Or.inr ⟨h.1, rfl, (hd.1 h.2).1, (hd.1 h.2).2⟩, fun _ _ _ _ => rfl⟩
  · next h =>
    exact ⟨rfl, Or.inl rfl, fun _ hs hp hb => absurd ⟨hs, hd.2 ⟨hp, hb⟩⟩ h⟩

theorem State.judgeDrain_eq (s : State) : s.judgeDrain = { s with ctl := s.judgeDrain.ctl } := by
  unfold State.judgeDrain
  split <;> rfl

/-! ### The contents of a REPORT (R177, R178) -/

theorem State.testing_iff (s : State) :
    s.testing = true ↔ s.head.testWaiting = true ∨ ∃ level limit, s.head.state = .testing level limit := by
  unfold State.testing
  cases s.head.state <;> simp

theorem State.trayFull_iff (s : State) : s.trayFull = true ↔ ∃ c, s.config = some c ∧ s.rack.tray = c.trayCapacity := by
  unfold State.trayFull
  cases s.config <;> simp

theorem State.holdCondition_iff (s : State) :
    s.holdCondition = true ↔ HoldWanted s.head.queue.length s.rack.tray s := by
  unfold State.holdCondition State.trayFull HoldWanted
  cases s.config <;> simp

theorem State.summary_shows (s : State) : SummaryShows s s.summary :=
  ⟨rfl, s.testing_iff, s.holdCondition_iff, s.trayFull_iff⟩

theorem State.pocketContent_shows (s : State) (p : PocketId) : PocketShows s p (s.pocketContent p) := by
  refine ⟨?_, fun r => ?_, fun j => ?_, fun v => ?_, fun ph => ?_⟩
  · unfold State.pocketContent
    simp only [PocketContent.mk.injEq, true_and, and_true]
    cases (s.pockets.get p).timer with
    | none => rfl
    | some t => cases t <;> rfl
  · simp only [State.pocketContent, Pocket.reason]
    split <;> simp_all
  · simp only [State.pocketContent, Pocket.job]
    split <;> simp_all
  · simp only [State.pocketContent, State.queueView]
    split
    · next j hj => simp [hj, eq_comm]
    · next h =>
      refine ⟨nofun, ?_⟩
      rintro ⟨⟨j, hj⟩, -⟩
      exact (h j hj).elim
  · simp only [State.pocketContent, State.phaseView]
    split
    · next j hj =>
      split
      · next op hop =>
        rw [hop]
        split <;> simp_all
      · next h =>
        refine ⟨nofun, ?_⟩
        rintro ⟨-, op, hop, -⟩
        exact (h op hop).elim
    · next h =>
      refine ⟨nofun, ?_⟩
      rintro ⟨⟨j, hj⟩, -⟩
      exact (h j hj).elim

theorem State.binContent_shows {s : State} {n : Nat} {r : Bin} (h : s.bin n = some r) : BinShows s n r (s.binContent n r) := by
  simp only [BinShows, State.binContent, State.hasPlace, h, State.tentative, State.sectionStart, rosterSection]
  rfl

/-- The content built for an ask shows what the rules name. -/
theorem State.reportContent_shows (s : State) (a : Ask) : ReportShows s a (s.reportContent a) := by
  cases a with
  | summary =>
    simp only [ReportShows, State.reportContent]
    split
    · next h => rw [h]
    · next h =>
      refine ⟨_, ?_, s.summary_shows⟩
      split
      · next hc => exact absurd hc h
      · rfl
  | pack w =>
    simp only [ReportShows, State.reportContent]
    cases readPackId w with
    | none => rfl
    | some id => cases h : s.entry id <;> simp only [h]
  | pocket b =>
    refine ⟨fun p hp => ⟨_, ?_, s.pocketContent_shows p⟩, fun hb => ?_⟩
    · cases p <;> simp [State.reportContent, pocketSelected, hp, PocketId.number]
    · have h : pocketSelected b = none := by
        unfold pocketSelected
        split <;> first | rfl | omega
      simp only [State.reportContent, h]
  | bin b =>
    simp only [ReportShows, State.reportContent]
    cases h : s.bin b.toNat with
    | none => rfl
    | some r => exact ⟨_, rfl, State.binContent_shows h⟩
  | head => exact ⟨_, rfl, rfl⟩
  | counters => rfl

/-- What a REPORT shows does not turn on the transmit queue. -/
theorem State.reportContent_onLink (f : BayLink → BayLink) (a : Ask) (s : State) :
    (s.onLink f).reportContent a = s.reportContent a := by
  cases a <;> rfl

/-- Outside SAFE the REPORT of an ask is built and queued beside the others. -/
theorem State.appendReport_queued (a : Ask) {s : State} (h : s.ctl.station ≠ .safe) :
    s.appendReport a = { s with link := (s.appendReport a).link, head := (s.appendReport a).head } ∧
      ReportQueued a (fun _ => True) s.link s (s.appendReport a) := by
  have e : (s.appendReport a).link = (s.append (.report a (s.reportContent a))).link := by cases a <;> rfl
  refine ⟨?_, ?_, _, s.reportContent_shows a, ?_⟩
  · cases a <;> simp [State.appendReport, State.append, h, State.onLink, State.onHead]
  · cases a <;> simp [State.appendReport, State.append, h, watchedBy]
  · rw [e]
    exact State.append_queued _ h

/-- The REPORT of an ask takes the place of the frame of number `n` in the link `l`. -/
theorem State.appendReport_queuedWithout (a : Ask) (n : Nat) (l : BayLink) {s u : State} (h : s.ctl.station ≠ .safe)
    (hu : u = s.onLink fun _ => { l with queue := l.queue.filter fun x => decide (x.number ≠ n) }) :
    u.appendReport a = { s with link := (u.appendReport a).link, head := (u.appendReport a).head } ∧
      ReportQueued a (fun x => x.number ≠ n) l s (u.appendReport a) := by
  subst hu
  obtain ⟨he, hh, -⟩ := State.appendReport_queued a
    (s := s.onLink fun _ => { l with queue := l.queue.filter fun x => decide (x.number ≠ n) }) h
  refine ⟨he, hh, _, s.reportContent_shows a, ?_⟩
  have hf := State.append_queued (.report a (s.reportContent a))
    (s := s.onLink fun _ => { l with queue := l.queue.filter fun x => decide (x.number ≠ n) }) h
  have e : ((s.onLink fun _ => { l with queue := l.queue.filter fun x => decide (x.number ≠ n) }).appendReport a).link =
      ((s.onLink fun _ => { l with queue := l.queue.filter fun x => decide (x.number ≠ n) }).append
        (.report a (s.reportContent a))).link := by
    cases a <;> rfl
  rw [e]
  refine ⟨hf.1, fun x => (hf.2 x).trans ?_⟩
  simp

/-! ### The end of an attempt (R165, R169) -/

/-- Without the entry of number `n`, a queue is the same whatever happened to that entry. -/
theorem filter_number_map (n : Nat) (f : TxEntry → TxEntry) (q : List TxEntry) (hf : ∀ x, (f x).number = x.number) :
    (q.map fun x => if x.number = n then f x else x).filter (fun x => decide (x.number ≠ n)) =
      q.filter fun x => decide (x.number ≠ n) := by
  induction q with
  | nil => rfl
  | cons x xs ih => by_cases hx : x.number = n <;> simp_all

/-- The end of an attempt settles the frame by its mark. -/
theorem State.endAttempt_ended {e : TxEntry} {s : State} (h : s.attempt = some e) : AttemptEnded e s s.endAttempt := by
  have hf := filter_number_map e.number (fun x => { x with attempting := false, mark := .none }) s.link.queue fun _ => rfl
  cases hm : e.mark with
  | none => simp only [AttemptEnded, State.endAttempt, h, hm, State.onLink]
  | remove =>
    simp only [AttemptEnded, State.endAttempt, h, hm]
    intro id fit load hb
    simp only [hb, State.reportRemoval, State.releaseBid]
    refine ⟨?_, ?_⟩
    · rw [State.judgeDrain_eq]
      simp only [State.onLink, State.dropFrame, State.dropBid, State.onPacks, hf]
    · exact State.judgeDrain_judged _
  | replace =>
    simp only [AttemptEnded, State.endAttempt, h, hm]
    intro a ha hs
    simp only [State.onLink_ctl, ha]
    have hd : (s.onLink fun l =>
          { l with
            queue :=
              l.queue.map fun x => if x.number = e.number then { x with attempting := false, mark := .none } else x
            lastEnded := some e.number }).dropFrame e.number =
          s.onLink fun _ =>
            { s.link with
              queue := s.link.queue.filter fun x => decide (x.number ≠ e.number)
              lastEnded := some e.number } := by
      simp only [State.onLink, State.dropFrame, hf]
    exact State.appendReport_queuedWithout a e.number { s.link with lastEnded := some e.number } hs hd

/-! ### A removal requested (R34, R36, R39) -/

theorem State.releaseBid_eq (id : PackId) (s : State) :
    s.releaseBid id =
      { s with
        ctl := (s.releaseBid id).ctl
        packs := { s.packs with bids := s.packs.bids.filter fun b => decide (b.id ≠ id) } } := by
  unfold State.releaseBid
  rw [State.judgeDrain_eq]
  rfl

/-- A removal touches the link, the pending bids and, by the drain it may complete, the station state alone. -/
theorem State.removeBid_requested (id : PackId) (s : State) :
    BidRemovalRequested id s (s.removeBid id) ∧
      s.removeBid id =
        { s with
          link := (s.removeBid id).link
          ctl := (s.removeBid id).ctl
          packs := { s.packs with bids := (s.removeBid id).packs.bids } } := by
  unfold BidRemovalRequested
  generalize hx : List.find? _ s.link.queue = o
  have hy : (s.link.queue.find? fun e => e.frame.isBidFor id) = o := hx
  unfold State.removeBid
  rw [hy]
  cases o with
  | none =>
    simp only []
    rw [State.releaseBid_eq]
    exact ⟨⟨rfl, rfl⟩, rfl⟩
  | some e =>
    simp only []
    split
    · exact ⟨⟨rfl, rfl⟩, rfl⟩
    · rw [State.releaseBid_eq]
      exact ⟨⟨rfl, rfl⟩, rfl⟩

theorem State.resolveRetired_resolved (id : PackId) (s : State) :
    BidResolved id s (s.resolveRetired id) ∧
      s.resolveRetired id =
        { s with
          link := (s.resolveRetired id).link
          ctl := (s.resolveRetired id).ctl
          packs := { s.packs with bids := (s.resolveRetired id).packs.bids } } := by
  unfold BidResolved State.resolveRetired
  cases s.pendingBid id with
  | none => exact ⟨⟨rfl, rfl⟩, rfl⟩
  | some b =>
    cases h : b.stage with
    | queued => simpa only [h] using s.removeBid_requested id
    | sent =>
      simp only [h]
      rw [State.releaseBid_eq]
      exact ⟨⟨rfl, rfl⟩, rfl⟩

/-! ### The hold (R157) -/

/-- A change of the hold condition raises the hold where it became true in a hold state with the hold INACTIVE. -/
theorem State.noteHold_raised (before : Bool) (s : State) (raised : Prop)
    (h : raised ↔
      s.ctl.station.holds = true ∧ s.ctl.hold.active = false ∧ before = false ∧
        HoldWanted s.head.queue.length s.rack.tray s) :
    s.noteHold before = { s with ctl := { s.ctl with hold := (s.noteHold before).ctl.hold }, link := (s.noteHold before).link } ∧
      HoldRaised raised s.ctl.hold (s.noteHold before).ctl.hold ∧
      HoldQueued raised s.ctl.hold s.cfg.holdTime s.link (s.noteHold before).link := by
  rw [← s.holdCondition_iff] at h
  by_cases hr : raised
  · unfold State.noteHold State.raiseHold HoldRaised HoldQueued
    obtain ⟨hs, ha, hb, hc⟩ := h.1 hr
    have hn : s.ctl.station ≠ .safe := by
      intro e
      simp [e, StationState.holds] at hs
    simp only [hb, hc, hs, ha, and_self, if_true]
    by_cases hq : s.ctl.hold.queued = true
    · simp only [hq, if_true]
      simp [hr, hq, State.onCtl]
    · have hf := State.append_queued (.hold s.cfg.holdTime) hn
      simp only [hq]
      simp [hr, State.onCtl, hf]
  · have e : s.noteHold before = s := by
      unfold State.noteHold State.raiseHold
      split
      · next h1 =>
        split
        · next h2 => exact absurd (h.2 ⟨h2.1, h2.2, h1⟩) hr
        · rfl
      · rfl
    rw [e]
    exact ⟨rfl, ⟨fun x => absurd x hr, fun _ => rfl⟩, fun x => absurd x.1 hr, fun _ => rfl⟩

/-! ### Blocked reasons (R86, R87) -/

theorem State.blockedReason_blockedBy (p : PocketId) (j : Job) (s : State) : BlockedBy p j (s.blockedReason p j) s := by
  cases j with
  | finish =>
    have hb : s.binBlocks p = true ↔
        ∃ n r, s.targetBin p = some n ∧ s.bin n = some r ∧ s.cfg.binSheetCapacity < r.fillSheets + (s.pockets.get p).sheets := by
      unfold State.binBlocks
      cases s.targetBin p with
      | none => simp
      | some n => cases h : s.bin n <;> simp [h]
    simp only [BlockedBy, State.blockedReason, ← hb]
    split
    · simp_all
    · split <;> simp_all
  | setAside r =>
    simp only [BlockedBy, State.blockedReason, ← State.trayFull_iff]
    split <;> simp_all
  | clear =>
    simp only [BlockedBy, State.blockedReason, ← State.trayFull_iff]
    split <;> simp_all

theorem BlockedBy.congr {p : PocketId} {j : Job} {b : Option BlockedReason} {s t : State} (h : BlockedBy p j b s)
    (hs : t.head.staples = s.head.staples) (hu : t.undriven p = s.undriven p) (ht : t.targetBin p = s.targetBin p)
    (hr : t.rack = s.rack) (hc : t.config = s.config) (hq : (t.pockets.get p).sheets = (s.pockets.get p).sheets) :
    BlockedBy p j b t := by
  have hcfg : t.cfg = s.cfg := by simp only [State.cfg, hc]
  have hb : ∀ n, t.bin n = s.bin n := State.bin_congr (by rw [hr])
  cases j <;> simpa only [BlockedBy, hs, hu, ht, hr, hc, hq, hcfg, hb] using h

/-- A re-evaluation leaves every entry with the reason of the state it leaves. -/
theorem State.reevaluate_fresh (s : State) : BlocksFresh s s.reevaluate := by
  intro h x hx
  simp only [State.reevaluate, h, Bool.false_eq_true, if_false, State.onHead, List.mem_map] at hx
  obtain ⟨y, -, rfl⟩ := hx
  refine (s.blockedReason_blockedBy y.pocket y.job).congr ?_ ?_ ?_ ?_ ?_ ?_ <;>
    simp [State.reevaluate, h, State.undriven, State.targetBin, State.entry, State.onHead]

end Sys2Proof.Machine
end

