-- ==== Sys2Proof/Laws/Faults.lean ====
section
/-!
SUPPORT. Everything that withdrawing the bids not sent (R34, R41, R42), a fault (R139 to R141) and entry to SAFE (R150) can do.
-/
namespace Sys2Proof.Machine

open Sys2Proof.Config

/-! ### Bids not sent are withdrawn (R34, R41, R42) -/

theorem TxFrame.isBidFor_iff {id : PackId} {f : TxFrame} : f.isBidFor id = true ↔ ∃ fit load, f = .bid id fit load := by
  cases f <;> simp [TxFrame.isBidFor, eq_comm]

/-- A removal finds no BID, marks the one under attempt, or drops it. -/
theorem State.removeBid_cases (id : PackId) (s : State) :
    ((∀ x ∈ s.link.queue, x.frame.isBidFor id = false) ∧ (s.removeBid id).link = s.link ∧
        (s.removeBid id).packs.bids = s.packs.bids.filter fun b => decide (b.id ≠ id)) ∨
      ∃ e ∈ s.link.queue, e.frame.isBidFor id = true ∧
        (e.attempting = true ∧ (s.removeBid id).packs.bids = s.packs.bids ∧
            (s.removeBid id).link =
              { s.link with
                queue := s.link.queue.map fun y => if y.number = e.number then { y with mark := .remove } else y } ∨
          e.attempting = false ∧
            (s.removeBid id).link =
              { s.link with queue := s.link.queue.filter fun y => decide (y.number ≠ e.number) } ∧
            (s.removeBid id).packs.bids = s.packs.bids.filter fun b => decide (b.id ≠ id)) := by
  unfold State.removeBid
  cases ho : s.link.queue.find? fun e => e.frame.isBidFor id with
  | none =>
    simp only []
    rw [State.releaseBid_eq]
    exact Or.inl ⟨fun x hx => by simpa using List.find?_eq_none.1 ho x hx, rfl, rfl⟩
  | some e =>
    refine Or.inr ⟨e, List.mem_of_find?_eq_some ho, by simpa using List.find?_some ho, ?_⟩
    cases ha : e.attempting with
    | true =>
      simp only [ha, if_true]
      exact Or.inl ⟨trivial, rfl, rfl⟩
    | false =>
      simp only [ha, Bool.false_eq_true, if_false]
      rw [State.releaseBid_eq]
      exact Or.inr ⟨trivial, rfl, rfl⟩

/-- The numbers of a queue identify its frames. -/
theorem number_inj {q : List TxEntry} (h : (q.map TxEntry.number).Nodup) {x y : TxEntry} (hx : x ∈ q) (hy : y ∈ q)
    (e : x.number = y.number) : x = y := List.inj_on_of_nodup_map h hx hy e

/-- What requesting the removal of the BIDs of `ids` does to the pending bids and, in a queue of distinct numbers, to its frames. -/
structure Removed (ids : List PackId) (s u : State) : Prop where
  link : u.link = { s.link with queue := u.link.queue }
  fewer : u.packs.bids.Sublist s.packs.bids
  others : ∀ b ∈ s.packs.bids, b.id ∉ ids → b ∈ u.packs.bids
  unattempted : (∀ x ∈ s.link.queue, x.attempting = false) →
    (∀ x ∈ u.link.queue, x.attempting = false) ∧ ∀ b ∈ u.packs.bids, b.id ∉ ids
  numbers : (s.link.queue.map TxEntry.number).Nodup → (u.link.queue.map TxEntry.number).Nodup
  marked : (s.link.queue.map TxEntry.number).Nodup → ∀ b ∈ u.packs.bids, b.id ∈ ids →
    ∃ x ∈ u.link.queue, x.frame.isBidFor b.id = true ∧ x.attempting = true ∧ x.mark = .remove
  source : (s.link.queue.map TxEntry.number).Nodup → ∀ x ∈ u.link.queue,
    x ∈ s.link.queue ∨ ∃ y ∈ s.link.queue, y.attempting = true ∧ x = { y with mark := .remove }
  kept : (s.link.queue.map TxEntry.number).Nodup → ∀ x ∈ s.link.queue,
    (∀ id ∈ ids, x.frame.isBidFor id = false) ∨ x.attempting = true ∧ x.mark = .remove → x ∈ u.link.queue
  only : (s.link.queue.map TxEntry.number).Nodup → ∀ id ∈ ids,
    (∀ x ∈ s.link.queue, ∀ y ∈ s.link.queue, x.frame.isBidFor id = true → y.frame.isBidFor id = true → x = y) →
    ∀ x ∈ u.link.queue, x.frame.isBidFor id = true → x.attempting = true ∧ x.mark = .remove

theorem Removed.nil (s : State) : Removed [] s s where
  link := rfl
  fewer := List.Sublist.refl _
  others := fun _ h _ => h
  unattempted := fun h => ⟨h, fun _ _ => by simp⟩
  numbers := fun h => h
  marked := by simp
  source := fun _ _ h => Or.inl h
  kept := fun _ _ h _ => h
  only := by simp

/-- The removal of one BID. -/
theorem State.removeBid_removed (id : PackId) (s : State) : Removed [id] s (s.removeBid id) := by
  have dropped : ∀ {b : PendingBid} {l : List PendingBid},
      b ∈ l.filter (fun b => decide (b.id ≠ id)) ↔ b ∈ l ∧ b.id ≠ id := by
    simp [List.mem_filter]
  rcases s.removeBid_cases id with ⟨hno, hl, hb⟩ | ⟨e, he, hid, ⟨ha, hb, hl⟩ | ⟨ha, hl, hb⟩⟩
  · exact
      { link := by rw [hl]
        fewer := hb ▸ List.filter_sublist
        others := fun b h hn => by rw [hb, dropped]; exact ⟨h, by simpa using hn⟩
        unattempted := fun h => ⟨by rwa [hl], fun b h => by rw [hb, dropped] at h; simpa using h.2⟩
        numbers := by rw [hl]; exact fun h => h
        marked := fun _ b h hi => by rw [hb, dropped] at h; exact absurd (by simpa using hi) h.2
        source := by rw [hl]; exact fun _ x h => Or.inl h
        kept := by rw [hl]; exact fun _ x h _ => h
        only := by
          rw [hl]
          intro _ i hi _ x hx h
          rw [List.mem_singleton.1 hi, hno x hx] at h
          exact absurd h (by decide) }
  · have hq : ∀ x, x ∈ (s.removeBid id).link.queue ↔
        ∃ y ∈ s.link.queue, (if y.number = e.number then { y with mark := .remove } else y) = x := by
      rw [hl]
      simp
    exact
      { link := by rw [hl]
        fewer := hb ▸ List.Sublist.refl _
        others := fun b h _ => by rwa [hb]
        unattempted := fun h => absurd (h e he) (by simp [ha])
        numbers := fun h => by
          rw [hl]
          have : (fun y : TxEntry => (if y.number = e.number then { y with mark := .remove } else y : TxEntry).number) =
              TxEntry.number := by
            funext y
            split <;> rfl
          simpa [List.map_map, Function.comp_def, this] using h
        marked := fun _ b _ hi => by
          rw [List.mem_singleton.1 hi]
          exact ⟨{ e with mark := .remove }, (hq _).2 ⟨e, he, by simp⟩, hid, ha, rfl⟩
        source := fun hn x hx => by
          obtain ⟨y, hy, rfl⟩ := (hq x).1 hx
          split
          · next h => exact Or.inr ⟨y, hy, number_inj hn hy he h ▸ ha, rfl⟩
          · exact Or.inl hy
        kept := fun hn x hx h => by
          refine (hq x).2 ⟨x, hx, ?_⟩
          split
          · next h' =>
            rcases h with h | h
            · have := h id (by simp)
              rw [number_inj hn hx he h', hid] at this
              exact absurd this (by decide)
            · rw [← h.2]
          · rfl
        only := fun hn i hi h1 x hx h => by
          obtain ⟨y, hy, rfl⟩ := (hq x).1 hx
          rw [List.mem_singleton.1 hi] at h h1
          have hy' : y = e := h1 y hy e he (by split at h <;> exact h) hid
          rw [hy']
          simp [ha] }
  · have hq : ∀ x, x ∈ (s.removeBid id).link.queue ↔ x ∈ s.link.queue ∧ x.number ≠ e.number := by
      rw [hl]
      simp
    exact
      { link := by rw [hl]
        fewer := hb ▸ List.filter_sublist
        others := fun b h hn => by rw [hb, dropped]; exact ⟨h, by simpa using hn⟩
        unattempted := fun h =>
          ⟨fun x hx => h x ((hq x).1 hx).1, fun b h => by rw [hb, dropped] at h; simpa using h.2⟩
        numbers := fun h => by
          rw [hl]
          exact h.sublist (List.Sublist.map _ List.filter_sublist)
        marked := fun _ b h hi => by rw [hb, dropped] at h; exact absurd (by simpa using hi) h.2
        source := fun _ x hx => Or.inl ((hq x).1 hx).1
        kept := fun hn x hx h => by
          refine (hq x).2 ⟨hx, fun h' => ?_⟩
          rw [number_inj hn hx he h'] at h
          simp [hid, ha] at h
        only := fun hn i hi h1 x hx h => by
          rw [List.mem_singleton.1 hi] at h h1
          exact absurd (congrArg TxEntry.number (h1 x ((hq x).1 hx).1 e he h hid)) ((hq x).1 hx).2 }

/-- Removals one after another. -/
theorem Removed.trans {l k : List PackId} {s t u : State} (h1 : Removed l s t) (h2 : Removed k t u) : Removed (l ++ k) s u where
  link := by rw [h2.link, h1.link]
  fewer := h2.fewer.trans h1.fewer
  others := fun b hb hn => by
    rw [List.mem_append, not_or] at hn
    exact h2.others b (h1.others b hb hn.1) hn.2
  unattempted := fun h => by
    obtain ⟨a, b⟩ := h1.unattempted h
    obtain ⟨c, d⟩ := h2.unattempted a
    refine ⟨c, fun x hx hm => ?_⟩
    rcases List.mem_append.1 hm with hm | hm
    · exact b x (h2.fewer.subset hx) hm
    · exact d x hx hm
  numbers := fun h => h2.numbers (h1.numbers h)
  marked := fun hn b hb hm => by
    by_cases hk : b.id ∈ k
    · exact h2.marked (h1.numbers hn) b hb hk
    · have hl := (List.mem_append.1 hm).resolve_right hk
      obtain ⟨x, hx, h⟩ := h1.marked hn b (h2.fewer.subset hb) hl
      exact ⟨x, h2.kept (h1.numbers hn) x hx (Or.inr h.2), h⟩
  source := fun hn x hx => by
    rcases h2.source (h1.numbers hn) x hx with h | ⟨y, hy, ha, rfl⟩
    · exact h1.source hn x h
    · rcases h1.source hn y hy with h | ⟨z, hz, hb, rfl⟩
      · exact Or.inr ⟨y, h, ha, rfl⟩
      · exact Or.inr ⟨z, hz, hb, rfl⟩
  kept := fun hn x hx h => by
    refine h2.kept (h1.numbers hn) x (h1.kept hn x hx ?_) ?_ <;>
      exact h.imp_left fun h i hi => h i (List.mem_append.2 (by simp [hi]))
  only := fun hn i hi huniq x hx hb => by
    have back : ∀ y ∈ t.link.queue, y.frame.isBidFor i = true →
        ∃ z ∈ s.link.queue, z.number = y.number ∧ z.frame.isBidFor i = true := by
      intro y hy hyb
      rcases h1.source hn y hy with h | ⟨z, hz, _, rfl⟩
      · exact ⟨y, h, rfl, hyb⟩
      · exact ⟨z, hz, rfl, hyb⟩
    by_cases hk : i ∈ k
    · refine h2.only (h1.numbers hn) i hk (fun y hy w hw hyb hwb => ?_) x hx hb
      obtain ⟨y', hy', ey, by'⟩ := back y hy hyb
      obtain ⟨w', hw', ew, bw'⟩ := back w hw hwb
      have : y' = w' := huniq y' hy' w' hw' by' bw'
      exact number_inj (h1.numbers hn) hy hw (by rw [← ey, ← ew, this])
    · have hl := (List.mem_append.1 hi).resolve_right hk
      rcases h2.source (h1.numbers hn) x hx with h | ⟨y, _, ha, rfl⟩
      · exact h1.only hn i hl huniq x h hb
      · exact ⟨ha, rfl⟩

/-- The removal of the BID of every QUEUED pending bid is requested. -/
theorem State.withdrawUnsent_spec (s : State) :
    UnsentWithdrawn s.packs.bids s.link s.withdrawUnsent.packs.bids s.withdrawUnsent.link := by
  have key : ∀ (l : List PendingBid) (t : State), Removed (l.map PendingBid.id) t (l.foldl (fun u b => u.removeBid b.id) t) := by
    intro l
    induction l with
    | nil => exact fun t => Removed.nil t
    | cons x xs ih => exact fun t => (t.removeBid_removed x.id).trans (ih (t.removeBid x.id))
  have h : Removed ((s.packs.bids.filter fun b => decide (b.stage = .queued)).map PendingBid.id) s s.withdrawUnsent := key _ s
  have hid : ∀ b ∈ s.packs.bids, b.stage = .queued →
      b.id ∈ (s.packs.bids.filter fun b => decide (b.stage = .queued)).map PendingBid.id := fun b hb hq =>
    List.mem_map.2 ⟨b, List.mem_filter.2 ⟨hb, by simp [hq]⟩, rfl⟩
  have hback : ∀ i ∈ (s.packs.bids.filter fun b => decide (b.stage = .queued)).map PendingBid.id,
      ∃ b ∈ s.packs.bids, b.stage = .queued ∧ b.id = i := by
    intro i hi
    obtain ⟨b, hb, rfl⟩ := List.mem_map.1 hi
    obtain ⟨hb, hq⟩ := List.mem_filter.1 hb
    exact ⟨b, hb, by simpa using hq, rfl⟩
  have hst : ∀ b : PendingBid, b.stage = .sent ∨ b.stage = .queued := fun b => by cases b.stage <;> simp
  refine ⟨h.link, h.fewer, fun hn b hb hs => h.others b hb fun hm => ?_, fun ha b hb => ?_,
    fun hn => ⟨?_, h.source hn, ?_, ?_⟩⟩
  · obtain ⟨c, hc, hq, e⟩ := hback _ hm
    have : c = b := List.inj_on_of_nodup_map hn hc hb e
    rw [this, hs] at hq
    cases hq
  · exact (hst b).resolve_right fun hq => (h.unattempted ha).2 b hb (hid b (h.fewer.subset hb) hq)
  · intro b hb
    refine (hst b).imp_right fun hq => ?_
    obtain ⟨x, hx, hbid, hm⟩ := h.marked hn b hb (hid b (h.fewer.subset hb) hq)
    exact ⟨x, hx, TxFrame.isBidFor_iff.1 hbid, hm⟩
  · intro x hx hno
    refine h.kept hn x hx (Or.inl fun i hi => ?_)
    obtain ⟨b, hb, hq, rfl⟩ := hback i hi
    cases hbid : x.frame.isBidFor b.id with
    | false => rfl
    | true =>
      obtain ⟨fit, load, e⟩ := TxFrame.isBidFor_iff.1 hbid
      exact absurd e (hno b hb hq fit load)
  · intro b hb hq huniq x hx hbid
    refine h.only hn b.id (hid b hb hq) (fun y hy w hw hy' hw' => ?_) x hx (TxFrame.isBidFor_iff.2 hbid)
    exact huniq y hy w hw (TxFrame.isBidFor_iff.1 hy') (TxFrame.isBidFor_iff.1 hw')

/-! ### Faults (R139 to R141) -/

/-- Entry to HALTING. -/
theorem State.enterHalting_spec (c : HaltCause) (s : State) :
    (s.enterHalting c).head.state = .stopped ∧ (s.enterHalting c).head.testWaiting = false ∧
      (s.enterHalting c).packs.entries = s.packs.entries ∧
      (s.enterHalting c).ctl =
        { s.ctl with
          station := .halting
          haltCause := some c
          hold := { s.ctl.hold with active := false, timer := none } } ∧
      ∃ l,
        UnsentWithdrawn s.packs.bids s.link (s.enterHalting c).packs.bids l ∧
          FrameQueued (.halt c) (fun _ => True) l (s.enterHalting c).link := by
  let t := ((s.onCtl fun k => { k with station := .halting, haltCause := some c }).stopHead).endHold
  have hj : ∀ u : State, u.ctl.station = .halting → u.judgeDrain = u := by
    intro u hu
    simp [State.judgeDrain, hu]
  have hr : ∀ (id : PackId) (u : State), u.ctl.station = .halting → (u.removeBid id).ctl = u.ctl := by
    intro id u hu
    unfold State.removeBid State.releaseBid
    split
    · rw [hj _ (by simpa [State.dropBid] using hu)]
      simp [State.dropBid]
    · split
      · simp [State.markFrame]
      · rw [hj _ (by simpa [State.dropBid, State.dropFrame] using hu)]
        simp [State.dropBid, State.dropFrame]
  have hc : t.withdrawUnsent.ctl = t.ctl := by
    unfold State.withdrawUnsent
    have : ∀ (l : List PendingBid) (u : State), u.ctl.station = .halting →
        (l.foldl (fun v b => v.removeBid b.id) u).ctl = u.ctl := by
      intro l
      induction l with
      | nil => intro u _; rfl
      | cons x xs ih =>
        intro u hu
        rw [List.foldl_cons, ih _ (by rw [hr _ _ hu]; exact hu), hr _ _ hu]
    exact this _ t rfl
  have he : s.enterHalting c = t.withdrawUnsent.append (.halt c) := rfl
  rw [he]
  refine ⟨by simp [t, State.stopHead, State.endHold], by simp [t, State.stopHead, State.endHold],
    by simp [t, State.stopHead, State.endHold], ?_, t.withdrawUnsent.link, ?_, ?_⟩
  · simp only [State.append_frame, hc]
    rfl
  · have h := t.withdrawUnsent_spec
    simpa [t, State.endHold, State.stopHead] using h
  · exact State.append_queued _ (by rw [hc]; simp [t, State.endHold, State.stopHead])

/-- A fault is taken by the state of the station. -/
theorem State.takeFault_spec (c : HaltCause) (s : State) : FaultTaken c s (s.takeFault c) := by
  unfold FaultTaken State.takeFault
  cases h : s.ctl.station <;>
    first
      | exact s.enterHalting_spec c
      | exact ⟨rfl, rfl, rfl⟩
      | (unfold State.holdFault
         cases hc : s.ctl.heldCause <;> exact ⟨rfl, rfl, rfl⟩)

/-- A head fault stops the head and is taken by the state of the station. -/
theorem State.headFault_spec (c : HaltCause) (s : State) :
    (s.headFault c).head.state = .stopped ∧ (s.headFault c).head.testWaiting = false ∧ FaultTaken c s (s.headFault c) := by
  have h := s.stopHead.takeFault_spec c
  have hst : (s.headFault c).head.state = .stopped ∧ (s.headFault c).head.testWaiting = false := by
    unfold State.headFault State.takeFault State.holdFault
    have e : s.stopHead.ctl.station = s.ctl.station := rfl
    split <;> first | exact ⟨(s.stopHead.enterHalting_spec c).1, (s.stopHead.enterHalting_spec c).2.1⟩ | exact ⟨rfl, rfl⟩ | skip
    all_goals split <;> exact ⟨rfl, rfl⟩
  exact ⟨hst.1, hst.2, h⟩

/-! ### SAFE (R150) -/

/-- Entry to SAFE. -/
theorem State.enterSafe_entered (s : State) : SafeEntered s s.enterSafe := rfl

/-- A report of link loss: held in LOADING, nothing in SAFE, entry to SAFE elsewhere. -/
theorem State.linkLoss_spec (s : State) :
    (s.ctl.station ≠ .loading → s.ctl.station ≠ .safe → SafeEntered s s.linkLoss) ∧
      (s.ctl.station = .safe → s.linkLoss = s) ∧
      (s.ctl.station = .loading → s.linkLoss = { s with ctl := { s.ctl with linkLossHeld := true } }) := by
  unfold State.linkLoss
  cases h : s.ctl.station <;> simp [SafeEntered, State.onCtl] <;> exact s.enterSafe_entered

end Sys2Proof.Machine
end

