-- ==== Sys2Proof/Laws/Image.lean ====
section
/-!
SUPPORT. Everything that the check of R163, the damage test of R166 and the validation of an image (R185, R186) can answer.
-/
namespace Sys2Proof.Machine

open Sys2Proof.Config

/-! ### The check (R163, R166) -/

theorem placesOf_eq (width : Nat) (x : BitVec width) : placesOf width x.toNat = sentPlaces width x := rfl

theorem bytePlaces_eq (bytes : List Byte) : bytePlaces bytes = bytes.flatMap (sentPlaces 8) := rfl

theorem crcPlaces_eq (places : List Bool) : crcPlaces places = remainderOver places := by
  have h : crcPlace = fun (r : BitVec 16) place => if r.msb = place then r <<< 1 else (r <<< 1) ^^^ 0x1021#16 := by
    funext r place
    unfold crcPlace
    cases hr : r.msb <;> cases place <;> simp
  unfold crcPlaces remainderOver
  rw [h]

/-- The damage test is R166's. -/
theorem receptionDamaged_iff (r : Reception) :
    receptionDamaged r = true ↔
      81 ≤ r.length.toNat ∨ r.check ≠ checkOver r ∨ r.complete = false ∨ r.readable = false := by
  have h : crcPlaces r.places = checkOver r := crcPlaces_eq _
  unfold receptionDamaged
  rw [h]
  simp only [Bool.or_eq_true, decide_eq_true_eq, Bool.not_eq_true']
  tauto

/-! ### Code 4 (R186) -/

theorem verdictByteFits_iff (b : Nat) : verdictByteFits b = true ↔ ¬ VerdictFails b := by
  unfold verdictByteFits VerdictFails
  split <;> simp <;> omega

theorem not_within_iff (low high n : Nat) : (!within low high n) = true ↔ ¬ (low ≤ n ∧ n ≤ high) := by
  rw [Bool.not_eq_true', within, decide_eq_false_iff_not]

theorem not_verdictByteFits_iff (b : Nat) : (!verdictByteFits b) = true ↔ VerdictFails b := by
  rw [Bool.not_eq_true', ← Bool.not_eq_true, verdictByteFits_iff, not_not]

/-- `x` answers the least number with `P`, none where there is none; `P` holds from `low` on alone. -/
def Answers (low : Nat) (x : Option Nat) (P : Nat → Prop) : Prop :=
  (∀ o, x = some o → FirstOf P o) ∧ (x = none → ∀ o, ¬ P o) ∧ ∀ o, P o → low ≤ o

theorem Answers.none (low : Nat) : Answers low .none fun _ => False :=
  ⟨nofun, fun _ _ h => h, fun _ h => h.elim⟩

theorem Answers.congr {low : Nat} {x : Option Nat} {P Q : Nat → Prop} (h : Answers low x P) (hq : ∀ o, Q o ↔ P o) :
    Answers low x Q := by
  obtain rfl : P = Q := funext fun o => propext (hq o).symm
  exact h

theorem Answers.weaken {low a : Nat} {x : Option Nat} {P : Nat → Prop} (h : Answers low x P) (ha : a ≤ low) :
    Answers a x P :=
  ⟨h.1, h.2.1, fun o ho => Nat.le_trans ha (h.2.2 o ho)⟩

/-- A check ahead of the others. -/
theorem Answers.step {low a : Nat} {x : Option Nat} {c c' : Prop} [Decidable c] {Q : Nat → Prop} (h : Answers low x Q)
    (hc : c ↔ c') (ha : a < low) : Answers a (if c then some a else x) fun o => o = a ∧ c' ∨ Q o := by
  refine ⟨fun o ho => ?_, fun hn o => ?_, ?_⟩
  · split at ho
    · next hcc =>
      obtain rfl : a = o := by simpa using ho
      refine ⟨Or.inl ⟨rfl, hc.1 hcc⟩, fun m hm => ?_⟩
      rintro (⟨rfl, -⟩ | hq)
      · exact absurd hm (Nat.lt_irrefl _)
      · exact absurd (h.2.2 m hq) (by omega)
    · next hcc =>
      refine ⟨Or.inr (h.1 o ho).1, fun m hm => ?_⟩
      rintro (⟨-, hx⟩ | hq)
      · exact hcc (hc.2 hx)
      · exact (h.1 o ho).2 m hm hq
  · split at hn
    · exact absurd hn (by simp)
    · next hcc =>
      rintro (⟨-, hx⟩ | hq)
      · exact hcc (hc.2 hx)
      · exact h.2.1 hn o hq
  · rintro o (⟨rfl, -⟩ | hq)
    · exact Nat.le_refl _
    · exact Nat.le_of_lt (Nat.lt_of_lt_of_le ha (h.2.2 o hq))

/-- A scan that goes on where another has found nothing. -/
theorem Answers.orElse {a low : Nat} {x y : Option Nat} {P Q : Nat → Prop} (hx : Answers a x P) (hy : Answers low y Q)
    (hb : ∀ o, P o → o < low) (ha : a ≤ low) :
    Answers a (match (generalizing := false) x with | some o => some o | .none => y) fun o => P o ∨ Q o := by
  refine ⟨fun o ho => ?_, fun hn o => ?_, ?_⟩
  · cases x with
    | some n =>
      obtain rfl : n = o := by simpa using ho
      refine ⟨Or.inl (hx.1 n rfl).1, fun m hm => ?_⟩
      rintro (hp | hq)
      · exact (hx.1 n rfl).2 m hm hp
      · exact absurd (hy.2.2 m hq) (by have := hb n (hx.1 n rfl).1; omega)
    | none =>
      refine ⟨Or.inr (hy.1 o ho).1, fun m hm => ?_⟩
      rintro (hp | hq)
      · exact hx.2.1 rfl m hp
      · exact (hy.1 o ho).2 m hm hq
  · cases x with
    | some n => exact absurd hn (by simp)
    | none =>
      rintro (hp | hq)
      · exact hx.2.1 rfl o hp
      · exact hy.2.1 hn o hq
  · rintro o (hp | hq)
    · exact hx.2.2 o hp
    · exact Nat.le_trans ha (hy.2.2 o hq)

theorem headerFault_answers (i : List Byte) : Answers 0 (headerFault i) (HeaderFails i) := by
  have w := not_within_iff
  have last : Answers 20 (if 16 < byteAt i 20 then some 20 else .none) fun o => o = 20 ∧ 16 < byteAt i 20 :=
    ((Answers.none 21).step Iff.rfl (by omega)).congr fun o => (or_iff_left not_false).symm
  exact (((((((((((((((last.step (not_verdictByteFits_iff _) (by omega)).step (w _ _ _) (by omega)).step (w _ _ _)
    (by omega)).step (w _ _ _) (by omega)).step (w _ _ _) (by omega)).step (w _ _ _) (by omega)).step (w _ _ _)
    (by omega)).step (w _ _ _) (by omega)).step (w _ _ _) (by omega)).step (w _ _ _) (by omega)).step (w _ _ _)
    (by omega)).step (w _ _ _) (by omega)).step (w _ _ _) (by omega)).step (w _ _ _) (by omega)).step Iff.rfl (by omega))

theorem headerFails_below {i : List Byte} {o : Nat} (h : HeaderFails i o) : o < 21 := by
  unfold HeaderFails at h
  rcases h with ⟨h, -⟩ | ⟨h, -⟩ | ⟨h, -⟩ | ⟨h, -⟩ | ⟨h, -⟩ | ⟨h, -⟩ | ⟨h, -⟩ | ⟨h, -⟩ | ⟨h, -⟩ | ⟨h, -⟩ | ⟨h, -⟩ | ⟨h, -⟩ |
    ⟨h, -⟩ | ⟨h, -⟩ | ⟨h, -⟩ | ⟨h, -⟩ <;> omega

theorem ruleFails_succ (i : List Byte) (start n o : Nat) :
    RuleFails i start (n + 1) o ↔
      byteAt i start / 64 ≠ 0 ∧
        (o = start ∧ (byteAt i start / 64 = 3 ∨ byteAt i start / 64 = 1 ∧ 6 ≤ byteAt i start / 8 % 8) ∨
          o = start + 2 ∧ (byteAt i start % 2 = 0 ∧ VerdictFails (byteAt i (start + 2))) ∨
          RuleFails i (start + 3) n o) := by
  constructor
  · rintro ⟨k, hk, ha, h⟩
    refine ⟨ha 0 (Nat.zero_le _), ?_⟩
    cases k with
    | zero =>
      rcases h with ⟨rfl, h⟩ | ⟨rfl, h⟩
      · exact Or.inl ⟨rfl, h⟩
      · exact Or.inr (Or.inl ⟨rfl, h⟩)
    | succ k =>
      refine Or.inr (Or.inr ⟨k, by omega, fun j hj => ?_, ?_⟩)
      · have := ha (j + 1) (by omega)
        rwa [show start + 3 * (j + 1) = start + 3 + 3 * j by omega] at this
      · rwa [show start + 3 * (k + 1) = start + 3 + 3 * k by omega] at h
  · rintro ⟨h0, ⟨rfl, h⟩ | ⟨rfl, h⟩ | ⟨k, hk, ha, h⟩⟩
    · refine ⟨0, by omega, fun j hj => ?_, Or.inl ⟨rfl, h⟩⟩
      obtain rfl : j = 0 := by omega
      exact h0
    · refine ⟨0, by omega, fun j hj => ?_, Or.inr ⟨rfl, h⟩⟩
      obtain rfl : j = 0 := by omega
      exact h0
    · refine ⟨k + 1, by omega, fun j hj => ?_, ?_⟩
      · cases j with
        | zero => exact h0
        | succ j =>
          rw [show start + 3 * (j + 1) = start + 3 + 3 * j by omega]
          exact ha j (by omega)
      · rwa [show start + 3 * (k + 1) = start + 3 + 3 * k by omega]

theorem ite_twice {α : Type} {c d : Prop} [Decidable c] [Decidable d] (a b : α) :
    (if c then a else if d then a else b) = if c ∨ d then a else b := by
  by_cases hc : c <;> by_cases hd : d <;> simp [hc, hd]

theorem rulesFault_answers (i : List Byte) (n start : Nat) :
    Answers start (rulesFault i start n) (RuleFails i start n) := by
  induction n generalizing start with
  | zero => exact (Answers.none start).congr fun o => ⟨fun ⟨k, hk, _⟩ => absurd hk (Nat.not_lt_zero k), False.elim⟩
  | succ n ih =>
    unfold rulesFault ruleKindCode
    simp only []
    by_cases h0 : byteAt i start / 64 = 0
    · rw [if_pos h0]
      exact (Answers.none start).congr fun o => by simp [ruleFails_succ, h0]
    · rw [if_neg h0, ite_twice]
      have hv := not_verdictByteFits_iff (byteAt i (start + 2))
      rw [Bool.not_eq_true'] at hv
      refine ((((ih (start + 3)).step (and_congr_right fun _ => hv) (by omega)).step Iff.rfl (by omega)).congr fun o => ?_)
      rw [ruleFails_succ]
      exact and_iff_right h0

theorem ruleFails_below {i : List Byte} {start n o : Nat} (h : RuleFails i start n o) : o < start + 3 * n := by
  obtain ⟨k, hk, -, ⟨rfl, -⟩ | ⟨rfl, -⟩⟩ := h <;> omega

theorem mapFails_succ (i : List Byte) (start n o : Nat) :
    MapFails i start (n + 1) o ↔
      byteAt i start / 64 ≠ 0 ∧
          (o = start ∧
              (byteAt i start / 8 % 8 ≠ 0 ∨
                byteAt i start / 64 = 3 ∧ ¬ (1 ≤ byteAt i start % 8 ∧ byteAt i start % 8 ≤ 5)) ∨
            o = start + 1 ∧ ¬ (1 ≤ byteAt i (start + 1) ∧ byteAt i (start + 1) ≤ 250) ∨
            o = start + 2 ∧ ¬ (1 ≤ byteAt i (start + 2) ∧ byteAt i (start + 2) ≤ 60) ∨
            o = start + 3 ∧ byteAt i (start + 3) = 0) ∨
        MapFails i (start + 5) n o := by
  constructor
  · rintro ⟨k, hk, ha, h⟩
    cases k with
    | zero =>
      refine Or.inl ⟨ha, ?_⟩
      rcases h with ⟨rfl, h⟩ | ⟨rfl, h⟩ | ⟨rfl, h⟩ | ⟨rfl, h⟩
      · exact Or.inl ⟨rfl, h⟩
      · exact Or.inr (Or.inl ⟨rfl, h⟩)
      · exact Or.inr (Or.inr (Or.inl ⟨rfl, h⟩))
      · exact Or.inr (Or.inr (Or.inr ⟨rfl, h⟩))
    | succ k =>
      rw [show start + 5 * (k + 1) = start + 5 + 5 * k by omega] at ha h
      exact Or.inr ⟨k, by omega, ha, h⟩
  · rintro (⟨h0, h⟩ | ⟨k, hk, ha, h⟩)
    · refine ⟨0, by omega, h0, ?_⟩
      rcases h with ⟨rfl, h⟩ | ⟨rfl, h⟩ | ⟨rfl, h⟩ | ⟨rfl, h⟩
      · exact Or.inl ⟨rfl, h⟩
      · exact Or.inr (Or.inl ⟨rfl, h⟩)
      · exact Or.inr (Or.inr (Or.inl ⟨rfl, h⟩))
      · exact Or.inr (Or.inr (Or.inr ⟨rfl, h⟩))
    · refine ⟨k + 1, by omega, ?_, ?_⟩ <;> rwa [show start + 5 * (k + 1) = start + 5 + 5 * k by omega]

theorem mapFault_answers (i : List Byte) (n start : Nat) : Answers start (mapFault i start n) (MapFails i start n) := by
  induction n generalizing start with
  | zero => exact (Answers.none start).congr fun o => ⟨fun ⟨k, hk, _⟩ => absurd hk (Nat.not_lt_zero k), False.elim⟩
  | succ n ih =>
    unfold mapFault
    simp only []
    by_cases h0 : byteAt i start / 64 = 0
    · rw [if_pos h0]
      exact ((ih (start + 5)).weaken (by omega)).congr fun o => by simp [mapFails_succ, h0]
    · rw [if_neg h0, ite_twice]
      have hw : ¬ (within 1 5 (byteAt i start % 8)) = true ↔ ¬ (1 ≤ byteAt i start % 8 ∧ byteAt i start % 8 ≤ 5) := by
        simp [within]
      rw [Bool.not_eq_true] at hw
      refine ((((((ih (start + 5)).step Iff.rfl (by omega : start + 3 < start + 5)).step (not_within_iff _ _ _)
        (by omega)).step (not_within_iff _ _ _) (by omega)).step (or_congr Iff.rfl (and_congr_right fun _ => hw))
        (by omega)).congr fun o => ?_)
      rw [mapFails_succ, and_iff_right h0]
      simp only [or_assoc]

/-- The byte named by code 4 is the first that fails. -/
theorem rangeFault_answers (i : List Byte) : Answers 0 (rangeFault i) (ByteFails i) :=
  (headerFault_answers i).orElse
    ((rulesFault_answers i 24 21).orElse (mapFault_answers i (byteAt i 20) 93) (fun _ h => ruleFails_below h) (by omega))
    (fun _ h => headerFails_below h) (by omega)

/-! ### The values (R185) -/

theorem readVerdict_of (b : Nat) : VerdictOf b (readVerdict b) :=
  ⟨fun h => by simp [readVerdict, h], fun h => by simp [readVerdict, Nat.not_le.2 h]⟩

/-- The active entries are those before the first EMPTY, each read from its three bytes; a field code of 6 or 7 is refused
(code 4). -/
theorem readRules_spec (i : List Byte) (n start : Nat) :
    (readRules i start n).length ≤ n ∧
      (∀ k, k < (readRules i start n).length → byteAt i (start + 3 * k) / 64 ≠ 0) ∧
      ((readRules i start n).length = n ∨ byteAt i (start + 3 * (readRules i start n).length) / 64 = 0) ∧
      ∀ k r, (readRules i start n)[k]? = some r →
        (byteAt i (start + 3 * k) / 64 = 1 → byteAt i (start + 3 * k) / 8 % 8 < 6) → RuleAt i (start + 3 * k) r := by
  induction n generalizing start with
  | zero => simp [readRules]
  | succ n ih =>
    obtain ⟨h1, h2, h3, h4⟩ := ih (start + 3)
    have hs : ∀ k, start + 3 * (k + 1) = start + 3 + 3 * k := fun k => by omega
    by_cases h0 : byteAt i start / 64 = 0
    · have e : readRules i start (n + 1) = [] := by simp [readRules, ruleKindCode, h0]
      rw [e]
      exact ⟨Nat.zero_le _, nofun, Or.inr h0, nofun⟩
    · obtain ⟨r, e, hr⟩ : ∃ r, readRules i start (n + 1) = r :: readRules i (start + 3) n ∧
          ((byteAt i start / 64 = 1 → byteAt i start / 8 % 8 < 6) → RuleAt i start r) := by
        by_cases hk : byteAt i start / 64 = 1
        · refine ⟨_, by simp only [readRules, ruleKindCode, hk]; rfl, fun hf => ⟨_, readVerdict_of _, ?_⟩⟩
          rw [if_pos hk]
          refine ⟨_, _, ?_, ?_, rfl⟩
          · have := hf hk
            generalize byteAt i start / 8 % 8 = f at *
            interval_cases f <;> simp [readRuleField]
          · have : byteAt i start / 2 % 4 < 4 := Nat.mod_lt _ (by omega)
            generalize byteAt i start / 2 % 4 = f at *
            interval_cases f <;> simp [readRelation]
        · refine ⟨_, by simp only [readRules, ruleKindCode, h0, hk]; rfl, fun _ => ⟨_, readVerdict_of _, ?_⟩⟩
          rw [if_neg hk]
      rw [e]
      refine ⟨by simpa using h1, fun k hk => ?_, ?_, fun k x hx hf => ?_⟩
      · cases k with
        | zero => exact h0
        | succ k =>
          rw [hs]
          exact h2 k (by simpa using hk)
      · rw [List.length_cons, hs]
        exact h3.imp (congrArg (· + 1)) id
      · cases k with
        | zero =>
          obtain rfl : r = x := by simpa using hx
          exact hr hf
        | succ k =>
          rw [hs] at hf ⊢
          exact h4 k x (by simpa using hx) hf

theorem readMapEntry_at (i : List Byte) (o : Nat) : MapEntryAt i o (readMapEntry i o) := by
  refine ⟨?_, rfl⟩
  have : byteAt i o / 64 < 4 := by
    have : byteAt i o < 256 := (i.getD o 0).isLt
    omega
  show (byteAt i o / 64, readMode (byteAt i o / 64)) ∈ _
  generalize byteAt i o / 64 = m at *
  interval_cases m <;> simp [readMode]

theorem readMap_spec (i : List Byte) :
    (readMap i).length = byteAt i 20 ∧ ∀ k e, (readMap i)[k]? = some e → MapEntryAt i (93 + 5 * k) e := by
  refine ⟨by simp [readMap], fun k e h => ?_⟩
  simp only [readMap, List.getElem?_map, Option.map_eq_some_iff] at h
  obtain ⟨x, hx, rfl⟩ := h
  obtain ⟨hl, rfl⟩ := List.getElem?_eq_some_iff.1 hx
  rw [List.getElem_range]
  exact readMapEntry_at i _

/-- The values read are those of the image, where code 4 finds nothing. -/
theorem readConfig_gives {i : List Byte} (h : ∀ o, ¬ ByteFails i o) : ImageGives i (readConfig i) := by
  obtain ⟨h1, h2, h3, h4⟩ := readRules_spec i 24 21
  refine ⟨rfl, readVerdict_of _, ⟨h1, h2, h3⟩, fun k r hr => h4 k r hr fun hk => ?_, (readMap_spec i).1, (readMap_spec i).2⟩
  have hlt : k < (readRules i 21 24).length := (List.getElem?_eq_some_iff.1 hr).1
  by_contra hf
  exact h (21 + 3 * k) (Or.inr (Or.inl ⟨k, by omega, fun j hj => h2 j (by omega), Or.inl ⟨rfl, Or.inr ⟨hk, by omega⟩⟩⟩))

/-! ### Codes 5 to 9 (R186) -/

/-- The first element with a property, by its place from 0. -/
theorem firstNumber_spec {α : Type} (p : α → Bool) (l : List α) (n : Nat) :
    (∀ m, firstNumber p n l = some m → ∃ k : Nat, FirstOf (fun k => ∃ x, l[k]? = some x ∧ p x = true) k ∧ m = n + k) ∧
      (firstNumber p n l = none → ∀ (k : Nat) (x : α), l[k]? = some x → p x = false) := by
  induction l generalizing n with
  | nil => exact ⟨nofun, fun _ _ _ h => by simp at h⟩
  | cons y ys ih =>
    unfold firstNumber
    by_cases hy : p y = true
    · rw [if_pos hy]
      exact ⟨fun m hm => ⟨0, ⟨⟨y, rfl, hy⟩, nofun⟩, by simpa using hm.symm⟩, nofun⟩
    · rw [if_neg hy]
      refine ⟨fun m hm => ?_, fun hn k x hx => ?_⟩
      · obtain ⟨k, ⟨hk, hl⟩, rfl⟩ := (ih (n + 1)).1 m hm
        refine ⟨k + 1, ⟨by simpa using hk, fun j hj => ?_⟩, by omega⟩
        cases j with
        | zero => simpa using hy
        | succ j => simpa using hl j (by omega)
      · cases k with
        | zero =>
          obtain rfl : y = x := by simpa using hx
          simpa using hy
        | succ k => exact (ih (n + 1)).2 hn k x (by simpa using hx)

/-- A number named by `firstNumber` over a list is the first place with the property that its elements have. -/
theorem firstNumber_fails {α : Type} {p : α → Bool} {l : List α} {P : Nat → Prop}
    (h : ∀ k, P k ↔ ∃ x, l[k]? = some x ∧ p x = true) :
    (∀ m, firstNumber p 1 l = some m → ∃ k, FirstOf P k ∧ some m = some (k + 1)) ∧
      (firstNumber p 1 l = none → ∀ k, ¬ P k) := by
  obtain rfl : P = fun k => ∃ x, l[k]? = some x ∧ p x = true := funext fun k => propext (h k)
  refine ⟨fun m hm => ?_, fun hn k ⟨x, hx, hp⟩ => ?_⟩
  · obtain ⟨k, hk, rfl⟩ := (firstNumber_spec p l 1).1 m hm
    exact ⟨k, hk, by rw [Nat.add_comm]⟩
  · rw [(firstNumber_spec p l 1).2 hn k x hx] at hp
    exact absurd hp (by decide)

theorem readMap_get {i : List Byte} {k : Nat} {e : MapEntry} :
    (readMap i)[k]? = some e ↔ k < byteAt i 20 ∧ e = readMapEntry i (93 + 5 * k) := by
  simp only [readMap, List.getElem?_map, Option.map_eq_some_iff, List.getElem?_eq_some_iff, List.getElem_range,
    List.length_range]
  exact ⟨fun ⟨_, ⟨h, rfl⟩, he⟩ => ⟨h, he.symm⟩, fun ⟨h, he⟩ => ⟨k, ⟨h, rfl⟩, he.symm⟩⟩

theorem readMode_off (i : List Byte) (o : Nat) : readMode (byteAt i o / 64) ≠ .off ↔ byteAt i o / 64 ≠ 0 := by
  unfold readMode
  split <;> simp_all

theorem mapBin_iff (i : List Byte) (k : Nat) :
    (k < byteAt i 20 ∧ byteAt i (93 + 5 * k) / 64 ≠ 0 ∧
        (byteAt i 2 < byteAt i (96 + 5 * k) ∨ byteAt i 2 < byteAt i (97 + 5 * k))) ↔
      ∃ x, (readMap i)[k]? = some x ∧ binOutsideRack (byteAt i 2) x = true := by
  have h : binOutsideRack (byteAt i 2) (readMapEntry i (93 + 5 * k)) = true ↔
      byteAt i (93 + 5 * k) / 64 ≠ 0 ∧
        (byteAt i 2 < byteAt i (96 + 5 * k) ∨ byteAt i 2 < byteAt i (97 + 5 * k)) := by
    have ho : (readMapEntry i (93 + 5 * k)).overflow.getD 0 = byteAt i (97 + 5 * k) := by
      simp only [readMapEntry, show 93 + 5 * k + 4 = 97 + 5 * k by omega]
      split <;> simp_all
    unfold binOutsideRack
    rw [ho]
    simp only [readMapEntry, Bool.and_eq_true, Bool.or_eq_true, decide_eq_true_eq, readMode_off,
      show 93 + 5 * k + 3 = 96 + 5 * k by omega]
  simp only [readMap_get]
  exact ⟨fun ⟨h1, h2⟩ => ⟨_, ⟨h1, rfl⟩, h.2 h2⟩, fun ⟨_, ⟨h1, he⟩, h2⟩ => ⟨h1, h.1 (he ▸ h2)⟩⟩

theorem mapSameBin_iff (i : List Byte) (k : Nat) :
    (k < byteAt i 20 ∧ byteAt i (93 + 5 * k) / 64 ≠ 0 ∧ byteAt i (97 + 5 * k) ≠ 0 ∧
        byteAt i (97 + 5 * k) = byteAt i (96 + 5 * k)) ↔
      ∃ x, (readMap i)[k]? = some x ∧ sameBin x = true := by
  have h : sameBin (readMapEntry i (93 + 5 * k)) = true ↔
      byteAt i (93 + 5 * k) / 64 ≠ 0 ∧ byteAt i (97 + 5 * k) ≠ 0 ∧ byteAt i (97 + 5 * k) = byteAt i (96 + 5 * k) := by
    unfold sameBin
    simp only [readMapEntry, Bool.and_eq_true, decide_eq_true_eq, readMode_off,
      show 93 + 5 * k + 3 = 96 + 5 * k by omega, show 93 + 5 * k + 4 = 97 + 5 * k by omega]
    refine and_congr_right fun _ => ?_
    split <;> simp_all
  simp only [readMap_get]
  exact ⟨fun ⟨h1, h2⟩ => ⟨_, ⟨h1, rfl⟩, h.2 h2⟩, fun ⟨_, ⟨h1, he⟩, h2⟩ => ⟨h1, h.1 (he ▸ h2)⟩⟩

/-- The number of active entries is one. -/
theorem ActiveRules.unique {i : List Byte} {m n : Nat} (hm : ActiveRules i m) (hn : ActiveRules i n) : m = n := by
  have key : ∀ {a b : Nat}, ActiveRules i a → ActiveRules i b → ¬ a < b := by
    rintro a b ⟨ha, -, h⟩ ⟨hb, hk, -⟩ hab
    rcases h with h | h
    · omega
    · exact hk a hab h
  have := key hm hn
  have := key hn hm
  omega

/-- Where code 4 finds nothing, an active entry has its kind and its join flag from its first byte. -/
theorem readRules_get {i : List Byte} (h : ∀ o, ¬ ByteFails i o) {k : Nat} {r : Rule}
    (hr : (readRules i 21 24)[k]? = some r) :
    (r.isMask = true ↔ byteAt i (21 + 3 * k) / 64 = 2) ∧ (r.join = true ↔ byteAt i (21 + 3 * k) % 2 = 1) := by
  have hlt : k < (readRules i 21 24).length := (List.getElem?_eq_some_iff.1 hr).1
  obtain ⟨h1, h2, -, -⟩ := readRules_spec i 24 21
  obtain ⟨v, -, hv⟩ := (readConfig_gives h).2.2.2.1 k r hr
  have h3 : byteAt i (21 + 3 * k) / 64 ≠ 3 := fun h3 =>
    h (21 + 3 * k) (Or.inr (Or.inl ⟨k, by omega, fun j hj => h2 j (by omega), Or.inl ⟨rfl, Or.inl h3⟩⟩))
  have h0 := h2 k hlt
  have hb : byteAt i (21 + 3 * k) < 256 := (i.getD _ 0).isLt
  split at hv
  · next hk =>
    obtain ⟨f, q, -, -, rfl⟩ := hv
    simp [Rule.isMask, Rule.join, hk]
  · next hk =>
    subst hv
    simp only [Rule.isMask, Rule.join, true_iff, decide_eq_true_eq, and_true]
    omega

theorem chainMaskEnd_iff {i : List Byte} (h : ∀ o, ¬ ByteFails i o) (k : Nat) :
    (k < (readRules i 21 24).length ∧ byteAt i (21 + 3 * k) / 64 = 2 ∧ byteAt i (21 + 3 * k) % 2 = 0) ↔
      ∃ x, (readRules i 21 24)[k]? = some x ∧ maskEnd x = true := by
  constructor
  · rintro ⟨hk, h1, h2⟩
    refine ⟨_, List.getElem?_eq_getElem hk, ?_⟩
    have hg := readRules_get h (List.getElem?_eq_getElem hk)
    have hj : ((readRules i 21 24)[k]).join = false := by
      rw [← Bool.not_eq_true, hg.2]
      omega
    simp [maskEnd, hj, hg.1.2 h1]
  · rintro ⟨x, hx, he⟩
    have hg := readRules_get h hx
    simp only [maskEnd, Bool.and_eq_true, Bool.not_eq_true'] at he
    refine ⟨(List.getElem?_eq_some_iff.1 hx).1, hg.1.1 he.2, ?_⟩
    have := mt hg.2.2 (by simp [he.1])
    omega

theorem openChain_spec {i : List Byte} (h : ∀ o, ¬ ByteFails i o) :
    (∀ m, openChain (readRules i 21 24) = some m → CheckFails 0 i .chainOpen (some m)) ∧
      (openChain (readRules i 21 24) = none → ∀ item, ¬ CheckFails 0 i .chainOpen item) := by
  obtain ⟨h1, h2, h3, -⟩ := readRules_spec i 24 21
  have ha : ActiveRules i (readRules i 21 24).length := ⟨h1, h2, h3⟩
  unfold openChain CheckFails
  simp only []
  cases hl : (readRules i 21 24).getLast? with
  | none =>
    refine ⟨nofun, fun _ item => ?_⟩
    rintro ⟨n, hn, -, -⟩
    have := ha.unique hn
    rw [List.getLast?_eq_none_iff.1 hl] at this
    exact absurd this (by simp)
  | some r =>
    rw [List.getLast?_eq_getElem?] at hl
    have hg := readRules_get h hl
    have hpos : (readRules i 21 24).length - 1 < (readRules i 21 24).length := (List.getElem?_eq_some_iff.1 hl).1
    have hs : (readRules i 21 24).length - 1 + 1 = (readRules i 21 24).length := by omega
    simp only []
    by_cases hj : r.join = true
    · rw [if_pos hj]
      refine ⟨fun m hm => ⟨(readRules i 21 24).length - 1, by rwa [hs], hg.2.1 hj, ?_⟩, nofun⟩
      rw [hs]
      exact hm.symm
    · rw [if_neg hj]
      refine ⟨nofun, fun _ item => ?_⟩
      rintro ⟨n, hn, ho, -⟩
      have : n = (readRules i 21 24).length - 1 := by
        have := ha.unique hn
        omega
      rw [this] at ho
      exact hj (hg.2.2 ho)

/-! ### The order of the checks (R186) -/

/-- No check before number `n` fails. -/
def NoneBelow (address : Nat) (i : List Byte) (n : Nat) : Prop :=
  ∀ code item, code.number < n → ¬ CheckFails address i code item

theorem FaultCode.eq_of_number {c d : FaultCode} (h : c.number = d.number) : c = d := by
  revert h
  cases c <;> cases d <;> decide

theorem NoneBelow.step {address : Nat} {i : List Byte} (code : FaultCode) (h : NoneBelow address i code.number)
    (hc : ∀ item, ¬ CheckFails address i code item) : NoneBelow address i (code.number + 1) := by
  intro d item hd
  rcases Nat.lt_or_ge d.number code.number with hl | hl
  · exact h d item hl
  · rw [FaultCode.eq_of_number (Nat.le_antisymm (Nat.lt_succ_iff.1 hd) hl)]
    exact hc item

/-- A fault is that of the first check that fails; an accepted image fails none and gives its values. -/
def ValidationAnswers (address : Nat) (i : List Byte) : Except ConfigFault StationConfig → Prop
  | .error f => CheckFails address i f.code f.item ∧ NoneBelow address i f.code.number
  | .ok c => (∀ code item, ¬ CheckFails address i code item) ∧ c = readConfig i ∧ ImageGives i c

theorem validate_answers (address : Nat) (i : List Byte) : ValidationAnswers address i (validate address i) := by
  have b1 : NoneBelow address i FaultCode.badAddress.number := fun code _ h => by
    cases code <;> exact absurd h (by decide)
  unfold validate
  by_cases h1 : 1 ≤ address ∧ address ≤ 8
  swap
  · rw [if_pos h1]
    exact ⟨⟨h1, rfl⟩, b1⟩
  have b2 : NoneBelow address i FaultCode.readFailed.number := b1.step .badAddress fun item h => h.1 h1
  rw [if_neg (not_not.2 h1)]
  by_cases h2 : i.length < imageLength
  · rw [if_pos h2]
    exact ⟨⟨h2, rfl⟩, b2⟩
  have b3 : NoneBelow address i FaultCode.badCheck.number := b2.step .readFailed fun item h => h2 h.1
  rw [if_neg h2]
  have hc : (!imageCheckMatches i) = true ↔
      (remainderOver ((i.take 173).flatMap (sentPlaces 8))).toNat ≠ wordAt i 173 := by
    rw [Bool.not_eq_true', imageCheckMatches, decide_eq_false_iff_not, crcPlaces_eq, bytePlaces_eq]
  by_cases h3 : (!imageCheckMatches i) = true
  · rw [if_pos h3]
    exact ⟨⟨hc.1 h3, rfl⟩, b3⟩
  have b4 : NoneBelow address i FaultCode.outOfRange.number := b3.step .badCheck fun item h => h3 (hc.2 h.1)
  rw [if_neg h3]
  have hr := rangeFault_answers i
  cases h4 : rangeFault i with
  | some o => exact ⟨⟨o, hr.1 o h4, rfl⟩, b4⟩
  | none =>
    have hb : ∀ o, ¬ ByteFails i o := hr.2.1 h4
    have b5 : NoneBelow address i FaultCode.sheetCapacity.number := b4.step .outOfRange fun item ⟨o, h, _⟩ => hb o h.1
    simp only []
    by_cases h5 : (readConfig i).binSheetCapacity < (readConfig i).pocketCapacity
    · rw [if_pos h5]
      exact ⟨⟨h5, rfl⟩, b5⟩
    have b6 : NoneBelow address i FaultCode.mapBin.number := b5.step .sheetCapacity fun item h => h5 h.1
    rw [if_neg h5]
    have s6 := firstNumber_fails (mapBin_iff i)
    cases h6 : firstNumber (binOutsideRack (readConfig i).rackSize) 1 (readConfig i).map with
    | some n => exact ⟨s6.1 n h6, b6⟩
    | none =>
      have b7 : NoneBelow address i FaultCode.mapSameBin.number :=
        b6.step .mapBin fun item ⟨k, h, _⟩ => s6.2 h6 k h.1
      have s7 := firstNumber_fails (mapSameBin_iff i)
      simp only []
      cases h7 : firstNumber sameBin 1 (readConfig i).map with
      | some n => exact ⟨s7.1 n h7, b7⟩
      | none =>
        have b8 : NoneBelow address i FaultCode.chainOpen.number :=
          b7.step .mapSameBin fun item ⟨k, h, _⟩ => s7.2 h7 k h.1
        have s8 := openChain_spec hb
        simp only []
        cases h8 : openChain (readConfig i).rules with
        | some n => exact ⟨s8.1 n h8, b8⟩
        | none =>
          have b9 : NoneBelow address i FaultCode.chainMaskEnd.number := b8.step .chainOpen (s8.2 h8)
          have s9 := firstNumber_fails (chainMaskEnd_iff hb)
          obtain ⟨r1, r2, r3, -⟩ := readRules_spec i 24 21
          have ha : ActiveRules i (readRules i 21 24).length := ⟨r1, r2, r3⟩
          simp only []
          cases h9 : firstNumber maskEnd 1 (readConfig i).rules with
          | some n =>
            obtain ⟨k, hk, he⟩ := s9.1 n h9
            exact ⟨⟨_, k, ha, hk, he⟩, b9⟩
          | none =>
            have b10 := b9.step .chainMaskEnd fun item ⟨n, k, hn, hk, _⟩ => s9.2 h9 k (ha.unique hn ▸ hk.1)
            exact ⟨fun code item => b10 code item (by cases code <;> decide), rfl, readConfig_gives hb⟩

end Sys2Proof.Machine
end

