-- ==== Sys2Proof/Laws/Runs.lean ====
section
/-!
SUPPORT. What every run inherits from a condition that holds at reset and that every step keeps.
-/
namespace Sys2Proof.Machine

/-- A condition that holds at reset, that every step keeps and that says nothing of the waiting commands holds in every state of
every run. -/
theorem Reachable.keeps {P : State → Prop} (hr : P State.reset) (hk : Kept P)
    (hq : ∀ s q, P s → P (s.withPending q)) {s : State} (h : Reachable s) : P s := by
  induction h with
  | reset => exact hr
  | queued c _ ih => exact hq _ _ ih
  | stepped _ hs ih => exact hk _ _ ih hs

/-- A step on a waiting command is the command's effect on the rest of the queue. -/
theorem step_front {c : Instr} {rest : List Instr} {s : State} (h : s.pending = c :: rest) :
    step s = exec c (s.withPending rest) := by
  simp [step, h]

end Sys2Proof.Machine
end

