-- ==== Sys2Proof/WellFormed.lean ====
section
/-!
DEFINITION. Which command terms spell an event of their own row: the senders and targets R164 allows the row's kind, the
hold time range of R173, the bins a rack can have, the image length of R185, and the body lengths a frame can have. A
term outside these bounds still has a meaning (R173 and R174 judge the frame it spells); it is another row's event.
-/
namespace Sys2Proof

/-- A finishing station's address (R162). -/
def LinkAddress.isStation (a : LinkAddress) : Bool := decide (1 ≤ a.toNat ∧ a.toNat ≤ 8)

/-- A feed node's address (R162). -/
def LinkAddress.isFeed (a : LinkAddress) : Bool := decide (16 ≤ a.toNat ∧ a.toNat ≤ 19)

/-- The console's address (R162). -/
def LinkAddress.isConsole (a : LinkAddress) : Bool := decide (a.toNat = 30)

/-- An ASK or ORDER comes from the console and goes to one station (R164). -/
def ConsoleHeader.wellFormed (h : ConsoleHeader) : Bool := h.sender.isConsole && h.target.isStation

/-- An arrival from another member comes from a station (R164: BID, DELIVERED, ASIDE). -/
def Arrival.wellFormed {α : Type} : Arrival α → Bool
  | .echo => true
  | .other sender _ => sender.isStation

/-- A delivered frame has at most 80 body bytes (R163). -/
def Frame.lengthFits (f : Frame) : Bool := decide (f.body.length ≤ 80)

/-- ASK, ORDER, REPORT and ANSWER are the kinds that go to one member (R164, R174). -/
def Frame.toOneMember (f : Frame) : Bool := decide (10 ≤ f.kind.toNat ∧ f.kind.toNat ≤ 13)

/-- The well-formedness of a command. -/
def Instr.wellFormed : Instr → Bool
  | .powerReset _ => true
  | .resetPinActive _ => true
  | .resetPinReleased _ => true
  | .imageReadComplete bytes _ _ => decide (bytes.length ≤ 175)
  | .imageReadTimeout => true
  | .contention _ => true
  | .spoiledFrame .own => true
  | .spoiledFrame (.received r) => r.frame.lengthFits
  | .malformedFrame f => f.lengthFits
  | .offer sender _ => sender.isFeed
  | .bid a => a.wellFormed
  | .close sender _ => sender.isFeed
  | .withdraw sender _ => sender.isFeed || sender.isConsole
  | .delivered a => a.wellFormed
  | .aside a => a.wellFormed
  | .halt sender _ => sender.isStation
  | .haltEcho => true
  | .join sender _ => sender.isStation
  | .joinEcho => true
  | .hold sender time => sender.isStation && decide (1 ≤ time.toNat ∧ time.toNat ≤ 30)
  | .holdEcho => true
  | .renewalTimerExpiry => true
  | .askSummary h => h.wellFormed
  | .askPack h _ => h.wellFormed
  | .askPocket h _ => h.wellFormed
  | .askBin h _ => h.wellFormed
  | .askHead h => h.wellFormed
  | .askCounters h => h.wellFormed
  | .reportEcho => true
  | .answerEcho => true
  | .orderStandby h => h.wellFormed
  | .orderResume h _ => h.wellFormed
  | .orderSelfTest h => h.wellFormed
  | .orderClearCounters h => h.wellFormed
  | .orderReboot h _ _ => h.wellFormed
  | .serviceButton _ => true
  | .sheetAtGate _ => true
  | .gapTimerExpiry _ => true
  | .firstSheetTimerExpiry _ => true
  | .strokeComplete _ => true
  | .strokeLimitExpiry => true
  | .noStaple => true
  | .headJam => true
  | .ejectComplete _ => true
  | .ejectLimitExpiry => true
  | .carriageJam => true
  | .dropConfirmed => true
  | .dropLimitExpiry => true
  | .trayDropConfirmed _ => true
  | .trayDropLimitExpiry => true
  | .referenceReading _ => true
  | .readingLimitExpiry => true
  | .cartridgeInserted => true
  | .binEmptied bin => decide (1 ≤ bin ∧ bin ≤ 48)
  | .trayEmptied => true
  | .pocketJam _ => true
  | .lossOfPower _ => true
  | .frameForAnotherMember f => f.lengthFits && f.toOneMember
  | .pocketJamCleared _ => true

end Sys2Proof
end

