-- ==== Sys2Proof/Tests/Slice0.lean ====
section
/-!
SUPPORT. Tests: the WellFormed smoke, the spec's worked examples, and for every statement that has hypotheses a state and
operands that meet them, clause by clause.
-/
namespace Sys2Proof.Tests

open Sys2Proof Sys2Proof.Machine Sys2Proof.Config

set_option Elab.async false

/-! ### Small states -/

/-- A station with a stapler, one rule-free table that accepts with fit 5, and one map entry. -/
def cfg : StationConfig :=
  { stapler := true, edge := true, openPacks := true, pocketCapacity := 40, rackSize := 8, binPackCapacity := 12,
    binSheetCapacity := 300, trayCapacity := 10, cartridgeSize := 5000, lowThreshold := 300, overdriveThreshold := 920,
    gapLimit := 10, firstSheetLimit := 120, dropLimit := 6, holdTime := 4, holdThreshold := 2,
    defaultVerdict := .accept 5, rules := [],
    map := [{ mode := .upto, classCode := 14, rollBound := 60, exponent := 0, primary := 3, overflow := some 4 }] }

/-- A configured station in a state, with an IDLE head and a trusted self-test. -/
def station (st : StationState) : State :=
  { State.reset with
    config := some cfg
    ctl := { State.reset.ctl with station := st }
    rack := { bins := List.replicate 8 Bin.empty, tray := 0 }
    head :=
      { State.reset.head with
        staples := { remaining := 100, committed := 0, state := .ready }
        readings := { State.reset.head.readings with outcome := .pass } } }

/-- A station without power. -/
def dark : State := { State.reset with part := { State.reset.part with supplied := false } }

def id1 : PackId := { feed := 16, serial := 1 }
def wire1 : WirePackId := { feed := 16, serial := 1 }

def offer1 (count : Nat) : Machine.Offer :=
  { id := id1, classCode := 14, roll := 3, count := count, finish := .corner, lane := .normal }

/-- The offer of pack 1 as a feed spells it. -/
def body1 (finish : Byte) : OfferBody := { id := wire1, classCode := 14, roll := 3, count := 5, finish := finish, lane := 0 }

def bidding (bids : List BidRecord) : Entry := { offer := offer1 5, state := .bidding bids }
def placed (owner : Nat) : Entry := { offer := offer1 5, state := .placed owner none }
def owned (count : Nat) (p : PocketId) : Entry :=
  { offer := offer1 count, state := .placed 1 (some { pocket := p, bin := 3, stage := .live }) }

def withEntries (es : List Entry) (s : State) : State := { s with packs := { s.packs with entries := es } }
def withBids (bs : List PendingBid) (s : State) : State := { s with packs := { s.packs with bids := bs } }
def withPocket (p : PocketId) (q : Pocket) (s : State) : State := { s with pockets := s.pockets.set q p }
def withQueue (q : List QueueEntry) (s : State) : State := { s with head := { s.head with queue := q } }
def withTray (n : Nat) (s : State) : State := { s with rack := { s.rack with tray := n } }
def withRuns (send recv : Nat) (s : State) : State := { s with link := { s.link with sendRun := send, recvRun := recv } }
def withHeld (c : Option HaltCause) (s : State) : State := { s with ctl := { s.ctl with heldCause := c } }

/-- A pocket with pack 1 bound. -/
def holding (st : PocketState) (sheets : Nat) : Pocket :=
  { Pocket.empty with state := st, bound := some { pack := id1, next := sheets + 1 }, sheets := sheets }

/-- A pocket of pack 1 in a state, with the pack's entry. -/
def working (st : PocketState) (sheets : Nat) : State :=
  station .run |> withEntries [owned 5 .p1] |> withPocket .p1 (holding st sheets)

def operation (j : Job) (ph : Phase) : Operation :=
  { pocket := .p1, job := j, phase := ph, limit := 2, lane := .normal, stamp := 1, passOvers := 0, retried := false }

/-- The head at work on pocket 1, which holds pack 1. -/
def atWork (j : Job) (ph : Phase) : State := (working (.atHead j) 5).headTo (.busy (operation j ph))

def entryOf (p : PocketId) (j : Job) (lane : Lane) (stamp passOvers : Nat) (blocked : Option BlockedReason) : QueueEntry :=
  { pocket := p, job := j, lane := lane, stamp := stamp, passOvers := passOvers, blocked := blocked, strokes := none }

/-- Pocket 1 WAITING with its entry in the queue. -/
def waiting (j : Job) : State := (working (.waiting j) 5) |> withQueue [entryOf .p1 j .normal 1 0 (some .bin)]

/-- The finish queue holds exactly the WAITING pockets, judged. -/
def agrees (s : State) : Bool :=
  decide (s.head.queue.map QueueEntry.pocket).Nodup &&
    (s.head.queue.all fun e => decide ((s.pockets.get e.pocket).state = .waiting e.job)) &&
    PocketId.all.all fun p =>
      match (s.pockets.get p).state with
      | .waiting _ => s.head.queue.any fun e => decide (e.pocket = p)
      | _ => true

theorem holdsWaiting_of_agrees {s : State} (h : agrees s = true) : QueueHoldsWaiting s := by
  simp only [agrees, Bool.and_eq_true, decide_eq_true_eq, List.all_eq_true] at h
  refine ⟨h.1.1, h.1.2, fun p j hp => ?_⟩
  have hall := h.2 p (by cases p <;> decide)
  rw [hp] at hall
  simpa using hall

def bid1 (stage : BidStage) : PendingBid := { id := id1, pocket := .p1, staples := 1, bin := 3, fit := 5, stage := stage }

def console : ConsoleHeader := { sender := 30, target := 1 }
def clear : ResumeReadings := { headJam := false, carriageJam := false, occupied := noLevels }

def record (station fit load : Nat) : BidRecord := { station := station, fit := fit, load := load }

/-- A station whose BID for pack 1 is queued. -/
def bidder (es : List Entry) : State := (station .run |> withEntries es |> withBids [bid1 .queued]).append (.bid id1 5 0)

/-- A station whose BID is under attempt while another station's stands in the list. -/
def overtaken : State := (bidder [bidding [record 2 5 0]]).startAttempt

/-- A station whose report slot is full. -/
def reporting (st : StationState) : State := (station st).takeAsk .head

/-- A station whose HEAD report is under attempt. -/
def reasked : State := (reporting .run).startAttempt

/-- The frame at the head of the transmit queue. -/
def first (f : TxFrame) : TxEntry := { number := 0, frame := f, attempting := false, mark := .none }

/-- An image in range, with its check. -/
def image : List Byte :=
  [7, 40, 8, 12, 1, 44, 10, 19, 136, 1, 44, 3, 152, 10, 0, 120, 6, 4, 2, 133, 1] ++ List.replicate 72 0 ++
    [128, 14, 60, 3, 4] ++ List.replicate 75 0 ++ [60, 140]

/-! ### WellFormed: one term that each check refuses -/

theorem test_wf_offer_sender : (Instr.offer 8 (body1 0)).wellFormed = false := by decide
theorem test_wf_close_sender : (Instr.close 30 wire1).wellFormed = false := by decide
theorem test_wf_withdraw_sender : (Instr.withdraw 1 wire1).wellFormed = false := by decide
theorem test_wf_bid_sender : (Instr.bid (.other 16 { id := wire1, fit := 1, load := 0 })).wellFormed = false := by decide
theorem test_wf_delivered_sender :
    (Instr.delivered (.other 0 { id := wire1, bin := 1, flags := 0 })).wellFormed = false := by decide
theorem test_wf_aside_sender : (Instr.aside (.other 9 { id := wire1, reason := 1 })).wellFormed = false := by decide
theorem test_wf_halt_sender : (Instr.halt 30 1).wellFormed = false := by decide
theorem test_wf_join_sender :
    (Instr.join 16 { resetCause := 1, capabilities := 0, outcome := 0, capacity := 40 }).wellFormed = false := by decide
theorem test_wf_hold_sender : (Instr.hold 30 1).wellFormed = false := by decide
theorem test_wf_hold_time_low : (Instr.hold 2 0).wellFormed = false := by decide
theorem test_wf_hold_time_high : (Instr.hold 2 31).wellFormed = false := by decide
theorem test_wf_ask_sender : (Instr.askHead { sender := 1, target := 1 }).wellFormed = false := by decide
theorem test_wf_order_target : (Instr.orderStandby { sender := 30, target := 31 }).wellFormed = false := by decide
theorem test_wf_bin_low : (Instr.binEmptied 0).wellFormed = false := by decide
theorem test_wf_bin_high : (Instr.binEmptied 49).wellFormed = false := by decide
theorem test_wf_image_length : (Instr.imageReadComplete (List.replicate 176 0) noLevels false).wellFormed = false := by
  decide +kernel
theorem test_wf_frame_length :
    (Instr.malformedFrame { precedence := 1, sender := 1, kind := 5, target := 31, body := List.replicate 81 0 }).wellFormed =
      false := by decide
theorem test_wf_frame_to_all :
    (Instr.frameForAnotherMember { precedence := 1, sender := 1, kind := 5, target := 31, body := [] }).wellFormed = false := by
  decide
theorem test_wf_accepts :
    (Instr.offer 16 (body1 0)).wellFormed = true ∧ (Instr.binEmptied 48).wellFormed = true := by decide

/-! ### The spec's worked examples and constants -/

/-- The check of the nine bytes "123456789" (R163). -/
theorem test_crc :
    crcPlaces (bytePlaces [0x31, 0x32, 0x33, 0x34, 0x35, 0x36, 0x37, 0x38, 0x39]) = 0x29B1#16 := by decide +kernel

/-- The four contentions of the bay link's example. -/
theorem test_contention :
    (arbitrationField 1 2 = 34#9 ∧ arbitrationField 3 5 = 101#9 ∧ arbitrationField 5 17 = 177#9 ∧
      arbitrationField 9 30 = 318#9 ∧ arbitrationField 10 2 = 322#9) ∧
    winsArbitration 34 [101, 177, 318] = true ∧ winsArbitration 322 [101, 177, 318] = false ∧
      winsArbitration 101 [322, 177, 318] = true ∧ winsArbitration 318 [177, 322] = false ∧
      winsArbitration 177 [318, 322] = true := by decide +kernel

/-- The rule table of the intake example, and the default verdict. -/
def station4 : StationConfig :=
  { cfg with
    defaultVerdict := .accept 2
    rules :=
      [.compare .feed .eq 3 false .refuse, .setMask 240 true .refuse, .compare .classCode .eq 112 true .refuse,
        .setMask 255 true .refuse, .compare .finish .eq 2 false (.accept 14), .setMask 240 true .refuse,
        .compare .classCode .eq 96 true .refuse, .compare .count .lt 41 false (.accept 11),
        .compare .lane .eq 1 false (.accept 6)] }

def packOf (cls count : Nat) (f : FinishKind) (l : Lane) (feed : Nat) : Machine.Offer :=
  { id := { feed := feed, serial := 530 }, classCode := cls, roll := 18, count := count, finish := f, lane := l }

theorem test_intake_example :
    (chainsOf station4.rules).map List.length = [1, 4, 3, 1] ∧
      intakeVerdict station4 (packOf 100 52 .corner .normal 17) = .accept 2 ∧
      intakeVerdict station4 (packOf 120 30 .edge .normal 16) = .accept 14 ∧
      intakeVerdict station4 (packOf 120 30 .corner .normal 16) = .accept 2 ∧
      intakeVerdict station4 (packOf 120 30 .corner .urgent 16) = .accept 6 ∧
      intakeVerdict station4 (packOf 97 0 .loose .normal 18) = .accept 11 ∧
      intakeVerdict station4 (packOf 112 20 .edge .urgent 19) = .refuse := by decide +kernel

/-- The map of the rack's example. -/
def station5 : List MapEntry :=
  [{ mode := .upto, classCode := 14, rollBound := 10, exponent := 0, primary := 3, overflow := some 4 },
    { mode := .upto, classCode := 14, rollBound := 22, exponent := 0, primary := 5, overflow := none },
    { mode := .single, classCode := 14, rollBound := 23, exponent := 0, primary := 9, overflow := none },
    { mode := .upto, classCode := 14, rollBound := 30, exponent := 0, primary := 6, overflow := some 7 },
    { mode := .off, classCode := 14, rollBound := 40, exponent := 0, primary := 12, overflow := none },
    { mode := .upto, classCode := 14, rollBound := 60, exponent := 0, primary := 8, overflow := none },
    { mode := .block, classCode := 15, rollBound := 20, exponent := 3, primary := 10, overflow := none },
    { mode := .upto, classCode := 15, rollBound := 12, exponent := 0, primary := 11, overflow := none }]

theorem test_map_example :
    [(14, 7), (14, 23), (14, 27), (14, 45), (15, 18), (15, 5)].map
        (fun p => (mapLookup station5 p.1 p.2).map MapEntry.primary) =
      [some 3, some 9, some 6, some 8, some 10, none] := by decide +kernel

/-- Selections 1, 3 and 5 of the aging example. -/
theorem test_aging_example :
    (chosen
        [entryOf .p3 (.setAside .gap) .normal 38 2 (some .tray), entryOf .p1 .finish .normal 40 6 none,
          entryOf .p2 .finish .urgent 43 0 none]).map QueueEntry.pocket = some .p2 ∧
      (chosen
        [entryOf .p3 (.setAside .gap) .normal 38 2 (some .tray), entryOf .p1 .finish .normal 40 8 none,
          entryOf .p2 .finish .urgent 45 0 none]).map QueueEntry.pocket = some .p1 ∧
      (station .run |> withQueue
          [entryOf .p3 (.setAside .gap) .normal 38 3 none, entryOf .p4 .finish .normal 46 0 none,
            entryOf .p1 .finish .urgent 47 0 none]).select.head.queue =
        [entryOf .p3 (.setAside .gap) .normal 38 4 none, entryOf .p4 .finish .normal 46 1 none] := by decide +kernel

/-- The bands of R118 at their ends, and the worse of two judgements. -/
theorem test_self_test_bands :
    [(99 : SenseReading), 100, 139, 140, 260, 261, 300, 301].map judgeLight =
        [.fail, .marginal, .marginal, .pass, .pass, .marginal, .marginal, .fail] ∧
      (Judgement.marginal.worse .pass).worse .fail = .fail := by decide +kernel

/-- A CLOSE that reaches the unit during the attempt of the BID marks it; the echo that follows is a late bid, which ends the
pending bid's claims (R34, R40). -/
theorem test_late_bid :
    (match exec (.close 16 wire1) overtaken with
      | .next t => some (t.attempt.map TxEntry.mark, t.packs.bids)
      | _ => none) = some (some .remove, [bid1 .queued]) ∧
      (match exec (.bid .echo) (overtaken.takeClose 16 id1) with
        | .next t => some (t.ctl.counters.get .lateBids, t.packs.bids, t.link.queue)
        | _ => none) = some (1, [], []) := by decide +kernel

/-- An ASK during the attempt of a REPORT marks it; at its echo the REPORT of the new ask is appended (R169, R176). -/
theorem test_ask_during_an_attempt :
    (match exec (.askCounters console) reasked with
      | .next t => some (t.link.queue.map TxEntry.mark)
      | _ => none) = some [.replace] ∧
      (match exec .reportEcho (reasked.takeAsk .counters) with
        | .next t => some (t.link.queue, t.ctl.reportSlot)
        | _ => none) =
        some ([{ first (.report .counters (.counters Counters.zero)) with number := 1 }], some .counters) := by decide +kernel

/-- The roster of the console's example: 17 records read in two reports with a drop between them. -/
theorem test_roster_in_two_reports :
    let record : RosterRecord :=
      { id := id1, classCode := 14, roll := 3, sheets := 5,
        flags := { extraSeen := false, retried := false, overflowBin := false } }
    let bin (n : Nat) : Bin := { fillPacks := n, fillSheets := 5 * n, committed := 0, roster := List.replicate n record }
    let s (n : Nat) (cursor : Option (Nat × Nat)) : State :=
      { station .run with
        rack := { bins := List.replicate 8 (bin n), tray := 0 }
        ctl := { (station .run).ctl with rosterCursor := cursor } }
    let part (n : Nat) (cursor : Option (Nat × Nat)) : Nat × Nat × Nat :=
      let c := (s n cursor).binContent 3 (bin n)
      (c.first, c.records.length, c.length)
    part 17 none = (1, 12, 17) ∧
      ((s 17 none).binReported 3 ((s 17 none).binContent 3 (bin 17))).ctl.rosterCursor = some (3, 13) ∧
      part 18 (some (3, 13)) = (13, 6, 18) ∧
      ((s 18 (some (3, 13))).binReported 3 ((s 18 (some (3, 13))).binContent 3 (bin 18))).ctl.rosterCursor = none := by
  decide +kernel

/-- The check of the image, taken in stretches of bytes. -/
theorem test_image_check : imageCheckMatches image = true := by
  have key : ∀ (a b : List Byte) (r : BitVec 16),
      (bytePlaces (a ++ b)).foldl crcPlace r = (bytePlaces b).foldl crcPlace ((bytePlaces a).foldl crcPlace r) := by
    intro a b r
    simp [bytePlaces]
  let z : List Byte := List.replicate 18 0
  let y : List Byte := List.replicate 15 0
  let m : List Byte := [128, 14, 60, 3, 4]
  let h : List Byte := [7, 40, 8, 12, 1, 44, 10, 19, 136, 1, 44, 3, 152, 10, 0, 120, 6, 4, 2, 133, 1]
  have e : image.take 173 = h ++ z ++ z ++ z ++ z ++ m ++ y ++ y ++ y ++ y ++ y := by decide +kernel
  have h0 : (bytePlaces h).foldl crcPlace 0xFFFF#16 = 0xF663#16 := by decide +kernel
  have z1 : (bytePlaces z).foldl crcPlace 0xF663#16 = 0x6E64#16 := by decide +kernel
  have z2 : (bytePlaces z).foldl crcPlace 0x6E64#16 = 0xF845#16 := by decide +kernel
  have z3 : (bytePlaces z).foldl crcPlace 0xF845#16 = 0xC1A1#16 := by decide +kernel
  have z4 : (bytePlaces z).foldl crcPlace 0xC1A1#16 = 0x3059#16 := by decide +kernel
  have m1 : (bytePlaces m).foldl crcPlace 0x3059#16 = 0xAF3B#16 := by decide +kernel
  have y1 : (bytePlaces y).foldl crcPlace 0xAF3B#16 = 0xAB24#16 := by decide +kernel
  have y2 : (bytePlaces y).foldl crcPlace 0xAB24#16 = 0x6D0C#16 := by decide +kernel
  have y3 : (bytePlaces y).foldl crcPlace 0x6D0C#16 = 0xB3D8#16 := by decide +kernel
  have y4 : (bytePlaces y).foldl crcPlace 0xB3D8#16 = 0x35F4#16 := by decide +kernel
  have y5 : (bytePlaces y).foldl crcPlace 0x35F4#16 = 0x3C8C#16 := by decide +kernel
  have r : crcPlaces (bytePlaces (image.take 173)) = 0x3C8C#16 := by
    rw [e, crcPlaces]
    simp only [key, h0, z1, z2, z3, z4, m1, y1, y2, y3, y4, y5]
  unfold imageCheckMatches
  rw [r]
  decide +kernel

/-- An image in range is accepted with the values of its bytes. -/
theorem test_image_accepted : validate 1 image = .ok cfg := by
  have h : image.length = 175 := by decide +kernel
  have hr : rangeFault image = none := by decide +kernel
  have hc : readConfig image = cfg := by decide +kernel
  simp only [validate, h, hr, hc, test_image_check, imageLength]
  rfl

/-- Codes 1 and 2 of R186. -/
theorem test_image_refused :
    validate 9 [] = .error { code := .badAddress, item := some 9 } ∧
      validate 8 [1, 2] = .error { code := .readFailed, item := some 2 } := by decide +kernel

/-! ### Hypotheses that are met: the queue, reset and start -/

theorem witness_EmptyQueueLetsHalfASecondPass :
    State.reset.pending = [] ∧ State.reset.running = true ∧ dark.pending = [] ∧ dark.running = false := by decide +kernel

theorem witness_PartInResetTakesNoCommand :
    dark.running = false ∧ (∀ st, Instr.haltEcho ≠ .powerReset st) ∧ (∀ b, Instr.haltEcho ≠ .resetPinActive b) ∧
      (∀ st, Instr.haltEcho ≠ .resetPinReleased st) ∧ (∀ b, Instr.haltEcho ≠ .lossOfPower b) ∧
      (∀ p, Instr.haltEcho ≠ .pocketJam p) ∧ ∀ p, Instr.haltEcho ≠ .pocketJamCleared p :=
  ⟨rfl, nofun, nofun, nofun, nofun, nofun, nofun⟩

/-- A part whose reset pin is held, one that loses power, one that is reset. -/
theorem witness_ResetPinResetsWithCauseLineAndHoldsThePart :
    { State.reset.part with resetPin := true }.resetPin = true ∧
      (dark.part.resetPin = false ∧ dark.part.supplied = false) ∧
      (station .run).part.resetPin = false ∧ (station .run).part.supplied = true := by decide +kernel

theorem witness_RebootOrderResetsWhateverTheSlot : Addressed console (station .safe) ∧ Addressed console (station .run) := by
  simp only [Addressed]
  decide +kernel

/-- A station whose straps give an address. -/
def strapped (a : Nat) : State :=
  { State.reset with part := { State.reset.part with straps := some { address := a, rate := .mbit1 } } }

theorem witness_FailedValidationEntersConfigFault :
    validate 9 [] = .error { code := .badAddress, item := some 9 } ∧ (State.reset.running = true ∧ State.reset.ctl.station = .loading ∧ State.reset.ctl.linkLossHeld = false ∧
      validate State.reset.address [] = .error { code := .readFailed, item := some 0 }) ∧
      (1 ≤ (strapped 8).address ∧ (strapped 8).address ≤ 8) ∧
      ¬ (1 ≤ (strapped 9).address ∧ (strapped 9).address ≤ 8) ∧ (strapped 9).running = true ∧
      let held := { State.reset with ctl := { State.reset.ctl with linkLossHeld := true } }
      held.running = true ∧ held.ctl.station = .loading ∧ held.ctl.linkLossHeld = true := by decide +kernel

/-- A LOADING station after a LINE reset whose store check matches with the geometry of the image. -/
def relined (capacity : Nat) : State :=
  { State.reset with
    ctl := { State.reset.ctl with resetCause := .line }
    store :=
      { rackSize := 8, binPackCapacity := capacity, binSheetCapacity := 300, trayCapacity := 10,
        bins := List.replicate 8 Bin.empty.retained, tray := 4, remaining := 640, checkMatches := true } }

theorem witness_StartSequenceEntersJoining :
    (State.reset.running = true ∧ State.reset.ctl.station = .loading ∧ State.reset.head.queue = [] ∧
      (∀ op, State.reset.head.state ≠ .busy op) ∧ validate State.reset.address image = .ok cfg) ∧
      ((State.reset.startWith cfg { noLevels with p3 := true } true).ctl.storeResult = .notMade ∧
        ((State.reset.startWith cfg { noLevels with p3 := true } true).pockets.get .p3).job = some .clear) ∧
      (((relined 12).startWith cfg noLevels false).ctl.storeResult = .good ∧
        ((relined 12).startWith cfg noLevels false).rack.tray = 4) ∧
      ((relined 13).startWith cfg noLevels false).rack.bins = List.replicate 8 Bin.empty ∧
      (let s := { relined 12 with part := { State.reset.part with held := { bins := [8], tray := true, cartridge := true } } }
       (s.running = true ∧ s.ctl.station = .loading ∧ s.address = 1) ∧
         (s.startWith cfg noLevels false).rack.tray = 0 ∧ (s.startWith cfg noLevels false).head.staples.remaining = 5000) ∧
      (let s := withHeld (some .pocketJam) State.reset
       s.running = true ∧ s.ctl.station = .loading ∧ s.address = 1 ∧ s.ctl.heldCause ≠ none ∧ s.testing = false) ∧
      let s := { relined 12 with ctl := { (relined 12).ctl with linkLossHeld := true } }
      s.running = true ∧ s.ctl.station = .loading ∧ s.ctl.linkLossHeld = true ∧ s.address = 1 ∧
        (s.startWith cfg noLevels false).ctl.station = .safe :=
  ⟨⟨rfl, rfl, rfl, nofun, test_image_accepted⟩, by decide +kernel⟩

theorem witness_ValidatedImageGivesItsValuesInTheirRanges : validate 1 image = .ok cfg := test_image_accepted

/-! ### Hypotheses that are met: the bay link -/

/-- A station whose one queued frame is its HOLD. -/
def holder (st : StationState) : State := (station st).append (.hold 4)

theorem witness_ContentionTakesTheQueueHead :
    ((holder .run).unitActive = true ∧ (holder .run).ctl.station ≠ .safe ∧
      (holder .run).link.queue = first (.hold 4) :: [] ∧ (holder .run).attempt = none) ∧
      (∀ f ∈ [(130 : Arbitration)], 32 * (first (.hold 4)).frame.precedence + (holder .run).address ≤ f.toNat) ∧
      (¬ ∀ f ∈ [(34 : Arbitration)], 32 * (first (.hold 4)).frame.precedence + (holder .run).address ≤ f.toNat) ∧
      (let s := (holder .run).startAttempt
       s.unitActive = true ∧ s.ctl.station ≠ .safe ∧ s.attempt = some { first (.hold 4) with attempting := true }) ∧
      (let s := overtaken.takeClose 16 id1
       s.unitActive = true ∧ s.ctl.station ≠ .safe ∧
         s.attempt = some { first (.bid id1 5 0) with attempting := true, mark := .remove }) ∧
      (let s := reasked.takeAsk .counters
       s.unitActive = true ∧ s.ctl.station ≠ .safe ∧ s.attempt.map TxEntry.mark = some .replace ∧
         s.ctl.reportSlot = some .counters) ∧
      ((strapped 9).running = true ∧ (strapped 9).unitActive = false) ∧ (station .safe).ctl.station = .safe ∧
      (station .run).link.queue = [] := by
  decide +kernel

theorem witness_SpoiledOwnFrameCountsARetry :
    ((holder .run).unitActive = true ∧ (holder .run).sending = some (first (.hold 4))) ∧
      ∀ st ∈ [StationState.run, .loading, .safe],
        let last := withRuns 15 0 ((holder .run).enter st)
        let again : State := { last with link := { last.link with lastEnded := some 0 } }
        again.unitActive = true ∧ again.sending = some (first (.hold 4)) ∧
          again.link.lastEnded = some (first (.hold 4)).number ∧ min 16 (again.link.sendRun + 1) = 16 ∧
          again.ctl.station = st := by decide +kernel

/-- A frame read undamaged, and one with a wrong check. -/
def reception (check : BitVec 16) : Reception :=
  { frame := closeFrame 16 wire1, length := 3, check := check, complete := true, readable := true }

def goodReception : Reception := reception (crcPlaces (reception 0).places)

theorem witness_SpoiledReceivedFrameMovesTheReceiveRun :
    receptionDamaged (reception 0) = true ∧ receptionDamaged goodReception = false ∧ (station .run).unitActive = true ∧
      ((withRuns 0 15 (station .run)).unitActive = true ∧ (withRuns 0 15 (station .run)).ctl.station = .run) ∧
      ((withRuns 0 15 (station .safe)).unitActive = true ∧ (withRuns 0 15 (station .safe)).ctl.station = .safe) ∧
      (withRuns 0 15 State.reset).unitActive = true ∧ (withRuns 0 15 State.reset).ctl.station = .loading := by
  decide +kernel

theorem witness_ReceivedFrameIsCountedDroppedOrHandedOn :
    (station .run).unitActive = true ∧ frameWellFormed (station .run).address (closeFrame 1 wire1) = false ∧
      (let f := askFrame { sender := 30, target := 2 } .head
       frameWellFormed (station .run).address f = true ∧ f.kind = 10 ∧ f.target.toNat ≠ (station .run).address) ∧
      (let f := orderFrame { sender := 30, target := 8 } .standby
       frameWellFormed (station .run).address f = true ∧ f.kind = 11 ∧ f.target.toNat ≠ (station .run).address) ∧
      (let f := frameOf .answer 2 30 [1, 0]
       frameWellFormed (station .run).address f = true ∧ f.kind = 13) ∧
      (let f := frameOf .report 8 30 (List.replicate 80 0)
       frameWellFormed (station .run).address f = true ∧ f.kind = 12) := by decide +kernel

/-- Raw frames that spell an event of another row, with a pack id, a selector, an order of each operand and none. -/
theorem witness_ReceivedFrameIsHandedOn :
    let s := station .run
    (∀ f ∈ [offerFrame 16 (body1 1), closeFrame 19 wire1, haltFrame 2 1, askFrame console (.pack wire1),
        askFrame console (.bin 3), orderFrame console .resume, orderFrame console .reboot],
      s.unitActive = true ∧ frameWellFormed s.address f = true) ∧
      Spells (offerFrame 16 (body1 1)) (.offer 16 (body1 1)) s ∧ Spells (closeFrame 19 wire1) (.close 19 wire1) s ∧
      Spells (haltFrame 2 1) (.halt 2 1) s ∧ Spells (askFrame console (.pack wire1)) (.askPack console wire1) s ∧
      Spells (askFrame console (.bin 3)) (.askBin console 3) s ∧
      Spells (orderFrame console .resume) (.orderResume console clear) s ∧
      Spells (orderFrame console .reboot) (.orderReboot console { address := 1, rate := .kbit250 } false) s :=
  ⟨by decide +kernel, ⟨16, 0, 1, 14, 3, 5, 1, 0, rfl, rfl⟩, ⟨16, 0, 1, rfl, rfl⟩, ⟨1, rfl, rfl⟩,
    .inr (.inl ⟨16, 0, 1, rfl, rfl⟩), .inr (.inr (.inr (.inl ⟨3, rfl, rfl⟩))), .inr (.inl ⟨rfl, rfl⟩),
    .inr (.inr (.inr (.inr ⟨rfl, _, rfl, rfl⟩)))⟩

/-! ### Hypotheses that are met: the pack table -/

theorem witness_OfferMakesAnEntryOrIsCounted :
    FromFeed 16 (station .run) ∧ (station .run).ctl.station.applies = true ∧ readOffer (body1 3) = none ∧
      (readOffer (body1 2)).isSome = true ∧
      (FromFeed 17 (station .run) ∧
        (readOffer (body1 0)).map (fun o => decide (o.id.feed = (17 : LinkAddress).toNat)) = some false) ∧
      (let s := withEntries [placed 2] (station .joining)
       FromFeed 16 s ∧ s.ctl.station.applies = true ∧ ∃ e ∈ s.packs.entries, e.offer.id = id1) ∧
      (∀ st ∈ [StationState.loading, .configFault],
        FromFeed 16 (station st) ∧ (station st).ctl.station.applies = false) ∧
      (let bids := withBids [bid1 .sent] (station .run)
       FromFeed 16 bids ∧ bids.pendingBid id1 = some (bid1 .sent) ∧ bids.packs.entries = []) ∧
      (∀ st ∈ [StationState.run, .drain],
        FromFeed 16 (station st) ∧ (station st).pendingBid id1 = none ∧ (station st).packs.entries = []) ∧
      (let entered (st : StationState) (n : Nat) : State :=
         { (station st).received with packs := { (station st).packs with entries := [{ offer := offer1 n, state := .bidding [] }] } }
       (entered .run 5).consider (offer1 5) = .bid (bid1 .queued) 0 ∧ (entered .drain 5).consider (offer1 5) = .stop ∧
         (entered .run 41).consider (offer1 41) = .skip) ∧
      let full :=
        withEntries (List.replicate 64 { placed 2 with offer := { offer1 5 with id := { id1 with serial := 2 } } }) (station .run)
      FromFeed 16 full ∧ 64 ≤ full.packs.entries.length ∧ ¬ ∃ e ∈ full.packs.entries, e.offer.id = id1 := by
  simp only [FromFeed]
  decide +kernel

/-- A station with one staple left. -/
def lastStaple : State := (station .run).onStaples fun b => { b with remaining := 1 }

/-- The bid on its lowest free pocket, whose target bin is the primary one of the map. -/
theorem bid_given {o : Machine.Offer} (hc : o.classCode = 14) (hr : o.roll = 3) (hi : o.id = id1)
    (hs : PackSuits o lastStaple) : BidGiven o { bid1 .queued with staples := staplesNeeded o.finish } 0 lastStaple := by
  refine ⟨rfl, ⟨⟨rfl, nofun⟩, fun q (hq : q.number < 1) => ?_⟩, hs,
    ⟨⟨.upto, 14, 60, 0, 3, some 4⟩, ?_, ⟨Bin.empty, rfl, show (0 : Nat) < 12 by decide⟩, .inl rfl⟩, rfl, hi.symm, rfl, rfl, rfl⟩
  · cases q <;> exact absurd hq (by decide)
  · rw [hc, hr]
    show mapLookup cfg.map 14 3 = _
    decide +kernel

/-- A CORNER offer that takes the last staple, a LOOSE one of the pocket capacity and one without a count. -/
theorem witness_OfferInRunBringsAnEligibleBid :
    (∀ o ∈ [offer1 5, { offer1 40 with finish := .loose }, { offer1 0 with finish := .loose }],
      o.id.feed = (16 : LinkAddress).toNat ∧
        BidGiven o { bid1 .queued with staples := staplesNeeded o.finish } 0 lastStaple) ∧
      FromFeed 16 lastStaple ∧ readOffer (body1 1) = some (offer1 5) ∧ lastStaple.entry id1 = none ∧
      lastStaple.packs.entries.length < 64 ∧ lastStaple.pendingBid id1 = none := by
  refine ⟨?_, by simp only [FromFeed]; decide +kernel⟩
  intro o ho
  simp only [List.mem_cons, List.not_mem_nil, or_false] at ho
  rcases ho with rfl | rfl | rfl <;>
    exact ⟨rfl, bid_given rfl rfl rfl (by simp only [PackSuits]; decide +kernel)⟩

/-- A consideration of each kind, of an entry open here and of one with this station's bid. -/
theorem witness_BidIsMadeExactlyWhenEligible :
    (station .run).consider (offer1 40) = .bid (bid1 .queued) 0 ∧ (station .drain).consider (offer1 40) = .stop ∧
      (station .run).consider (offer1 41) = .skip ∧ OpenHere (bidding [record 2 5 0]) (station .run) ∧
      ¬ OpenHere (bidding [record 1 5 0]) (station .run) := by
  refine ⟨by decide +kernel, by decide +kernel, by decide +kernel, ⟨⟨_, rfl, by decide +kernel⟩, by decide +kernel⟩, ?_⟩
  rintro ⟨⟨bids, hb, h⟩, -⟩
  cases hb
  exact absurd rfl (h _ (List.mem_singleton.2 rfl))

def bidBody (w : WirePackId) (fit load : Byte) : BidBody := { id := w, fit := fit, load := load }

theorem witness_BidOfAnotherStationIsRecorded :
    FromStation 2 (station .run) ∧ FromStation 8 (station .run) ∧ (station .run).ctl.station.applies = true ∧
      (FromStation 2 (station .loading) ∧ (station .loading).ctl.station.applies = false) ∧
      readPackId { feed := 15, serial := 1 } = none ∧ readPackId wire1 = some id1 ∧
      (∀ b ∈ [bidBody wire1 0 0, bidBody wire1 16 0, bidBody wire1 1 4],
        b.fit.toNat < 1 ∨ 15 < b.fit.toNat ∨ 3 < b.load.toNat) ∧
      (∀ b ∈ [bidBody wire1 1 0, bidBody wire1 15 3], ¬ (b.fit.toNat < 1 ∨ 15 < b.fit.toNat ∨ 3 < b.load.toNat)) ∧
      (station .run).entry id1 = none ∧
      (withEntries [placed 2] (station .run)).entry id1 = some (placed 2) ∧
      (withEntries [bidding [record 2 1 0]] (station .run)).entry id1 = some (bidding [record 2 1 0]) ∧
      (withEntries [bidding []] (station .run)).entry id1 = some (bidding []) := by
  simp only [FromStation]
  decide +kernel

theorem witness_BidEchoIsRecordedOrReleasesTheClaims :
    Echoes (first (.bid id1 5 0)) (bidder []) ∧ (bidder []).ctl.station.applies = true ∧ (bidder []).entry id1 = none ∧
      (let s := (bidder []).enter .configFault
       Echoes (first (.bid id1 5 0)) s ∧ s.ctl.station.applies = false) ∧
      (Echoes (first (.bid id1 5 0)) (bidder [placed 2]) ∧ (bidder [placed 2]).entry id1 = some (placed 2)) ∧
      (Echoes (first (.bid id1 5 0)) (bidder [bidding [record 1 5 0]]) ∧
        (bidder [bidding [record 1 5 0]]).entry id1 = some (bidding [record 1 5 0])) ∧
      Echoes (first (.bid id1 5 0)) (bidder [bidding []]) ∧ (bidder [bidding []]).entry id1 = some (bidding []) := by
  simp only [Echoes]
  decide +kernel

theorem witness_WinnerIsTheBestRecord :
    (([record 1 8 2, record 3 8 1].map BidRecord.station).Nodup ∧ winner [record 1 8 2, record 3 8 1] = some (record 3 8 1)) ∧
      winner [record 8 5 1, record 2 5 1] = some (record 2 5 1) ∧ winner [record 1 4 0, record 2 5 3] = some (record 2 5 3) := by
  decide +kernel

theorem witness_CloseFollowsTheBidList :
    FromFeed 16 (station .run) ∧ FromFeed 17 (station .run) ∧ (station .run).ctl.station.applies = true ∧
      (FromFeed 19 (station .loading) ∧ (station .loading).ctl.station.applies = false) ∧
      readPackId { feed := 16, serial := 0 } = none ∧ readPackId wire1 = some id1 ∧ (station .run).entry id1 = none ∧
      id1.feed ≠ (17 : LinkAddress).toNat ∧ id1.feed = (16 : LinkAddress).toNat ∧
      (withEntries [placed 2] (station .run)).entry id1 = some (placed 2) ∧
      (withEntries [bidding []] (station .run)).entry id1 = some (bidding []) ∧
      (([record 2 5 0].map BidRecord.station).Nodup ∧ [record 2 5 0] ≠ [] ∧
        (record 2 5 0).station ≠ (station .run).address) ∧
      (∀ s ∈ [bidder [bidding []], (bidder [bidding []]).startAttempt, overtaken],
        FromFeed 16 s ∧ (s.pendingBid id1).map PendingBid.stage = some .queued) ∧
      let s := withBids [bid1 .sent] (withEntries [bidding [record 2 5 0]] (station .drain))
      FromFeed 16 s ∧ (s.pendingBid id1).map PendingBid.stage = some .sent := by
  simp only [FromFeed]
  decide +kernel

theorem witness_WonPackIsCommitted :
    let s := station .run |> withEntries [bidding [record 1 5 0]] |> withBids [bid1 .sent]
    FromFeed 16 s ∧ s.ctl.station.applies = true ∧ readPackId wire1 = some id1 ∧ id1.feed = (16 : LinkAddress).toNat ∧
      s.entry id1 = some (bidding [record 1 5 0]) ∧ winner [record 1 5 0] = some (record 1 5 0) ∧
      (record 1 5 0).station = s.address ∧ s.pendingBid id1 = some (bid1 .sent) ∧ (bid1 .sent).stage = .sent := by
  simp only [FromFeed]
  decide +kernel

theorem witness_WithdrawEndsBiddingAndLeavesOthersPacks :
    (station .run).unitActive = true ∧ (16 ≤ (16 : LinkAddress).toNat ∧ (19 : LinkAddress).toNat ≤ 19) ∧
      (station .run).ctl.station.applies = true ∧ readPackId { feed := 20, serial := 1 } = none ∧
      ((station .configFault).unitActive = true ∧ (station .configFault).ctl.station.applies = false) ∧
      ((17 : LinkAddress) ≠ 30 ∧ id1.feed ≠ (17 : LinkAddress).toNat) ∧ (station .run).entry id1 = none ∧
      (withEntries [bidding []] (station .run)).entry id1 = some (bidding []) ∧
      ((bidder [bidding []]).entry id1 = some (bidding []) ∧ overtaken.entry id1 = some (bidding [record 2 5 0])) ∧
      ((withEntries [placed 2] (station .run)).entry id1 = some (placed 2) ∧ 2 ≠ (station .run).address) := by
  decide +kernel

/-- A WAITING pocket whose entry is converted. -/
theorem witness_WithdrawnPocketIsConverted :
    (waiting .finish).entry id1 = some (owned 5 .p1) ∧ ((waiting .finish).pockets.get .p1).state = .waiting .finish ∧
      QueueHoldsWaiting (waiting .finish) ∧ IdleHeadServed (waiting .finish) :=
  ⟨by decide +kernel, by decide +kernel, holdsWaiting_of_agrees (by decide +kernel), fun _ => ⟨rfl, fun _ => by decide +kernel⟩⟩

/-- A pocket of each state of R79's table, and a station that does not gate. -/
theorem witness_WithdrawnPocketActsByItsState :
    (∀ st ∈ [PocketState.reserved, .filling, .absorbing .gap, .waiting .finish, .waiting (.setAside .gap), .atHead .finish,
        .retiring .finish],
      let s := working st 0
      s.unitActive = true ∧ readPackId wire1 = some id1 ∧ s.entry id1 = some (owned 5 .p1) ∧
        (owned 5 .p1).state = .placed s.address (some { pocket := .p1, bin := 3, stage := .live }) ∧
        s.ctl.station.gates = true ∧ (s.pockets.get .p1).state = st ∧
        (s.pockets.get .p1).bound.map Binding.pack = some id1) ∧
      ((16 : LinkAddress).toNat = id1.feed ∧ 16 ≤ id1.feed ∧ id1.feed ≤ 19) ∧
      ∀ st ∈ [StationState.halting, .loading],
        let h := withEntries [owned 5 .p1] (station st)
        h.unitActive = true ∧ h.entry id1 = some (owned 5 .p1) ∧ h.ctl.station.gates = false := by
  decide +kernel

theorem witness_EndMessageOfTheOwnerRetiresThePack :
    FromStation 2 (station .run) ∧ (station .run).ctl.station.applies = true ∧ readPackId { feed := 16, serial := 0 } = none ∧
      (FromStation 2 (station .loading) ∧ (station .loading).ctl.station.applies = false) ∧
      ((withEntries [placed 2] (station .run)).entry id1 = some (placed 2) ∧
        (placed 2).state = .placed (2 : LinkAddress).toNat none) ∧
      (withEntries [placed 3] (station .run)).entry id1 = some (placed 3) ∧ (station .run).entry id1 = none := by
  simp only [FromStation]
  decide +kernel

theorem witness_OwnEndMessageEchoFreesThePocket :
    (let f : TxFrame := .delivered id1 3 { extraSeen := false, retried := false, overflowBin := false }
     let s := (working (.retiring .finish) 5).append f
     Echoes (first f) s ∧ s.ctl.station.applies = true ∧ s.entry id1 = some (owned 5 .p1) ∧
       (s.pockets.get .p1).state = .retiring .finish) ∧
      (let s := (station .configFault).append (.aside id1 .gap)
       Echoes (first (.aside id1 .gap)) s ∧ s.ctl.station.applies = false) ∧
      (let s := (station .run).append (.aside id1 .gap)
       Echoes (first (.aside id1 .gap)) s ∧ s.entry id1 = none) ∧
      let f : TxFrame := .aside id1 .gap
      let s := (working (.retiring (.setAside .gap)) 5).append f
      Echoes (first f) s ∧ s.entry id1 = some (owned 5 .p1) ∧ (s.pockets.get .p1).state = .retiring (.setAside .gap) := by
  simp only [Echoes]
  decide +kernel

theorem witness_HaltOrJoinOfAnotherStationForgetsIt :
    FromStation 2 (withEntries [placed 2, bidding [record 2 5 0]] (station .run)) ∧
      (withEntries [placed 2, bidding [record 2 5 0]] (station .run)).ctl.station.applies = true ∧
      FromStation 2 (station .loading) ∧ (station .loading).ctl.station.applies = false := by
  simp only [FromStation]
  decide +kernel

theorem witness_HaltEchoBreaksTheWork :
    let s := (working .filling 3 |> (State.enter .halting)).append (.halt .headJam)
    Echoes (first (.halt .headJam)) s := by
  simp only [Echoes]
  decide +kernel

theorem witness_JoinEchoLeavesJoining :
    let f : TxFrame := .join .power true true .none 40
    (Echoes (first f) ((station .joining).append f) ∧ ((station .joining).append f).ctl.station = .joining ∧
      ((station .joining).append f).ctl.heldCause = none) ∧
      let s := withHeld (some .pocketJam) ((station .joining).append f)
      Echoes (first f) s ∧ s.ctl.station = .joining ∧ s.ctl.heldCause = some .pocketJam := by
  simp only [Echoes]
  decide +kernel

/-! ### Hypotheses that are met: holds and the console -/

theorem witness_HoldActsAtItsOwnEchoAlone :
    Echoes (first (.hold 4)) (holder .run) ∧ FromStation 2 (station .run) ∧ 1 ≤ (1 : Byte).toNat ∧ (30 : Byte).toNat ≤ 30 := by
  simp only [Echoes, FromStation]
  decide +kernel

/-- A station in a hold, with a queue of a length. -/
def inHold (q : List QueueEntry) : State :=
  let s := withQueue q (station .run)
  { s with ctl := { s.ctl with hold := { active := true, queued := false, timer := some 0 } } }

theorem witness_RenewalPointRenewsOrLapses :
    (∀ q ∈ [[], [entryOf .p1 .finish .normal 1 0 (some .bin), entryOf .p2 .finish .normal 2 0 (some .bin)]],
      (inHold q).running = true ∧ (inHold q).ctl.station.holds = true ∧ (inHold q).ctl.hold.active = true ∧
        (inHold q).ctl.hold.timer ≠ none) ∧
      (¬ HoldWanted 0 0 (inHold [])) ∧ HoldWanted 2 0 (inHold []) ∧ HoldWanted 0 10 (inHold []) := by
  refine ⟨by decide +kernel, ?_, ⟨cfg, rfl, by decide⟩, ⟨cfg, rfl, by decide⟩⟩
  rintro ⟨c, hc, h⟩
  cases hc
  exact absurd h (by decide)

theorem witness_AskQueuesTheReport :
    (Addressed console (station .run) ∧ (station .run).ctl.station.answers = true ∧
      (station .run).ctl.reportSlot = none) ∧
      (∀ s ∈ [reporting .run, reasked],
        Addressed console s ∧ s.ctl.reportSlot ≠ none ∧ s.link.queue.countP (fun x => x.frame.isReport) = 1) ∧
      (reporting .run).attempt = none ∧ reasked.attempt.map TxEntry.number = some 0 ∧
      (Addressed console (station .configFault) ∧ (station .configFault).ctl.station.answers = false) ∧
      Addressed console (station .safe) ∧ (station .safe).ctl.station.answers = false := by
  simp only [Addressed]
  decide +kernel

theorem witness_ReportEchoFreesTheSlot :
    (∃ e, Echoes e (reporting .run) ∧ e.frame = .report .head ((station .run).reportContent .head) ∧ e.mark ≠ .replace) ∧
      (∃ e, Echoes e ((station .run).takeAsk (.bin 3)) ∧
        e.frame = .report (.bin 3) ((station .run).reportContent (.bin 3)) ∧ e.mark ≠ .replace) ∧
      let s := reasked.takeAsk .counters
      ∃ e, Echoes e s ∧ e.frame = .report .head ((station .run).reportContent .head) ∧ e.mark = .replace ∧
        s.ctl.reportSlot = some .counters ∧ s.ctl.station ≠ .safe := by
  refine ⟨⟨first (.report .head ((station .run).reportContent .head)), ?_⟩,
    ⟨first (.report (.bin 3) ((station .run).reportContent (.bin 3))), ?_⟩,
    ⟨{ first (.report .head ((station .run).reportContent .head)) with attempting := true, mark := .replace }, ?_⟩⟩ <;>
    · simp only [Echoes]
      decide +kernel

def jammed : ResumeReadings := { clear with headJam := true }

theorem witness_OrdersAreAnsweredByTheStationState :
    (∀ st ∈ [StationState.run, .drain, .standby, .halted, .halting, .joining],
      Addressed console (station st) ∧ (station st).received.ctl.station.answers = true ∧
        (station st).received.ctl.answerSlot = none) ∧
      (station .standby).received.testing = false ∧
      (let s := (station .standby).headTo (.testing .light 2)
       Addressed console s ∧ s.received.testing = true ∧ s.received.ctl.station.answers = true) ∧
      (¬ ((station .halted).received.part.jamLines.any = true ∨ clear.headJam = true ∨ clear.carriageJam = true)) ∧
      ((station .halted).received.part.jamLines.any = true ∨ jammed.headJam = true ∨ jammed.carriageJam = true) ∧
      (let s := ((station .run).takeOrder .standby State.obeyStandby)
       Addressed console s ∧ s.received.ctl.station.answers = true ∧ s.received.ctl.answerSlot ≠ none) ∧
      (∀ st ∈ [StationState.loading, .configFault, .safe], Addressed console (station st)) ∧
      Echoes (first (.answer .standby .accepted)) ((station .run).append (.answer .standby .accepted)) := by
  simp only [Addressed, Echoes]
  decide +kernel

theorem witness_ServiceButtonActsByTheStationState :
    (∀ st ∈ [StationState.run, .drain, .standby, .halted, .safe],
      (station st).running = true ∧ (station st).testing = false) ∧
      ((station .standby).headTo (.testing .light 2)).testing = true ∧
      (∀ s ∈ [bidder [], (bidder []).startAttempt, withBids [bid1 .sent] (station .run)],
        s.running = true ∧ s.testing = false ∧ s.ctl.station = .run ∧ (s.packs.bids.map PendingBid.id).Nodup ∧
          (s.link.queue.map TxEntry.number).Nodup ∧ s.packs.bids ≠ []) ∧
      (¬ ((station .halted).part.jamLines.any = true ∨ clear.headJam = true ∨ clear.carriageJam = true)) ∧
      ((station .halted).part.jamLines.any = true ∨ jammed.headJam = true ∨ jammed.carriageJam = true) := by decide +kernel

/-! ### Hypotheses that are met: the gate and the pockets -/

/-- The mark of a sheet of pack 1: its index and whether it is the last. -/
def markOf (index : Nat) (last : Bool) : SheetMark :=
  let b1 := 4 + (if last then 2 else 0)
  let sum := b1 + index / 16 + index % 16
  { b0 := 0, b1 := BitVec.ofNat 8 b1, b2 := BitVec.ofNat 8 index, b3 := BitVec.ofNat 8 (16 * ((16 - sum % 16) % 16)) }

theorem witness_MarkIsReadableExactlyWhenItsChecksHold :
    decodeMark (some (markOf 1 false)) = some { id := id1, index := 1, last := false } ∧
      decodeMark (some (markOf 120 true)) = some { id := id1, index := 120, last := true } ∧
      decodeMark (some (markOf 121 false)) = none ∧ decodeMark (some (markOf 0 false)) = none := by decide +kernel

theorem witness_GatePassesSheetsOfNoOwnPack :
    ((station .halted).running = true ∧ (station .halted).ctl.station.gates = false) ∧
      ((station .run).ctl.station.gates = true ∧ decodeMark none = none) ∧
      (decodeMark (some (markOf 1 false))).map Mark.id = some id1 ∧ (station .run).entry id1 = none ∧
      (withEntries [bidding []] (station .run)).entry id1 = some (bidding []) ∧
      (withEntries [placed 2] (station .run)).entry id1 = some (placed 2) ∧ 2 ≠ (station .run).address := by decide +kernel

/-- Pocket 1 in a state with some sheets of a pack of a declared count. -/
def open1 (c : PocketState × Nat × Nat) : State :=
  station .run |> withEntries [owned c.2.2 .p1] |> withPocket .p1 (holding c.1 c.2.1)

/-- The states of an open pocket, at a count of one, at the last sheet and at the capacity. -/
def openCases : List (PocketState × Nat × Nat) :=
  [(.reserved, 0, 5), (.reserved, 0, 1), (.filling, 4, 5), (.filling, 40, 0), (.absorbing .gap, 40, 5), (.absorbing .gap, 39, 5)]

theorem open_agrees : ∀ c ∈ openCases, agrees (open1 c) = true := by decide +kernel

theorem witness_OpenPocketTakesItsSheets :
    (∀ c ∈ openCases,
      (open1 c).running = true ∧ (open1 c).ctl.station.gates = true ∧
        (decodeMark (some (markOf 1 true))).map Mark.id = some id1 ∧ (open1 c).entry id1 = some (owned c.2.2 .p1) ∧
        (owned c.2.2 .p1).state = .placed (open1 c).address (some { pocket := .p1, bin := 3, stage := .live }) ∧
        ((open1 c).pockets.get .p1).state = c.1 ∧
        ((open1 c).pockets.get .p1).bound = some { pack := id1, next := c.2.1 + 1 } ∧
        (((open1 c).pockets.get .p1).state = .reserved → ((open1 c).pockets.get .p1).sheets = 0)) ∧
      ∀ c ∈ openCases, QueueHoldsWaiting (open1 c) :=
  ⟨by decide +kernel, fun c hc => holdsWaiting_of_agrees (open_agrees c hc)⟩

theorem witness_ClosedPocketPassesExtraSheets :
    (∀ st ∈ [PocketState.atHead .finish, .waiting (.setAside .gap), .atHead (.setAside .gap), .retiring .finish],
      let s := working st 5
      s.running = true ∧ s.ctl.station.gates = true ∧ s.entry id1 = some (owned 5 .p1) ∧ (s.pockets.get .p1).state = st) ∧
      ((waiting .finish).running = true ∧ (waiting .finish).entry id1 = some (owned 5 .p1) ∧
        ((waiting .finish).pockets.get .p1).state = .waiting .finish) ∧ QueueHoldsWaiting (waiting .finish) :=
  ⟨by decide +kernel, by decide +kernel, holdsWaiting_of_agrees (by decide +kernel)⟩

theorem witness_PocketTimersEndTheWait :
    QueueHoldsWaiting (working .reserved 0) ∧ QueueHoldsWaiting (working .filling 1) ∧
      QueueHoldsWaiting (working (.absorbing .gap) 1) ∧ (working .reserved 0).running = true ∧
      (working .reserved 0).ctl.station.gates = true ∧
      ((station .halting).running = true ∧ (station .halting).ctl.station.gates = false ∧ QueueHoldsWaiting (station .halting)) ∧
      ((working .reserved 0).pockets.get .p1).bound.map Binding.pack = some id1 ∧
      (working .reserved 0).entry id1 = some (owned 5 .p1) ∧
      (let ending : Entry :=
         { offer := offer1 5, state := .placed 1 (some { pocket := .p1, bin := 3, stage := .ending }) }
       (withEntries [ending] (working .reserved 0)).entry id1 = some ending) ∧
      ConditionRises 2 0 (withQueue [entryOf .p2 (.setAside .gap) .normal 1 0 (some .tray)] (working .filling 1)) :=
  ⟨holdsWaiting_of_agrees (by decide +kernel), holdsWaiting_of_agrees (by decide +kernel),
    holdsWaiting_of_agrees (by decide +kernel), by decide +kernel, by decide +kernel,
    ⟨by decide +kernel, by decide +kernel, holdsWaiting_of_agrees (by decide +kernel)⟩, by decide +kernel, by decide +kernel,
    by decide +kernel, rfl, rfl, fun ⟨c, hc, h⟩ => by cases hc; exact absurd h (by decide), ⟨cfg, rfl, by decide⟩⟩

/-! ### Hypotheses that are met: the head, supplies and jams -/

theorem witness_SelectionServesFirstClassThenEarliest :
    let q := [entryOf .p1 .finish .normal 1 7 none, entryOf .p2 .finish .normal 2 8 none, entryOf .p3 .finish .urgent 3 0 none]
    (q.map QueueEntry.stamp).Nodup ∧ (chosen q).map QueueEntry.pocket = some .p2 ∧
      (withQueue q (station .run)).ctl.station.selects = true ∧
      chosen [entryOf .p1 .finish .normal 1 7 (some .bin)] = none := by decide +kernel

/-- The head at a stroke, with room on the tray or none. -/
theorem witness_StrokeCompleteJudgesTheClinch :
    (∀ retry ∈ [false, true],
      let s := atWork .finish (.stroke 1 retry)
      s.running = true ∧ s.head.state = .busy (operation .finish (.stroke 1 retry)) ∧ s.config = some cfg ∧
        (∀ x ∈ s.head.queue, x.pocket ≠ .p1) ∧ s.undriven .p1 = 1 ∧ s.rack.tray ≠ cfg.trayCapacity) ∧
      (withTray 10 (atWork .finish (.stroke 1 true))).rack.tray = cfg.trayCapacity ∧
      cfg.lowThreshold ≤ (300 : SenseReading).toNat ∧ cfg.overdriveThreshold ≤ (920 : SenseReading).toNat ∧
      (299 : SenseReading).toNat < cfg.lowThreshold := by decide +kernel

theorem witness_NoStapleEmptiesTheBudget :
    (station .run).running = true ∧ ((station .halted).headTo .stopped).head.state = .stopped ∧
      (station .run).head.state ≠ .stopped ∧
      ((station .run).headTo (.testing .light 2)).head.state = .testing .light 2 ∧
      (atWork .finish .eject).head.state = .busy (operation .finish .eject) ∧
      (let s := atWork .finish (.stroke 1 true)
       s.head.state = .busy (operation .finish (.stroke 1 true)) ∧ 0 < s.undriven .p1 ∧
         ∀ x ∈ s.head.queue, x.pocket ≠ .p1) := by decide +kernel

theorem witness_EjectedPackIsDroppedAndDelivered :
    ((atWork .finish .eject).running = true ∧
      (atWork .finish .eject).head.state = .busy (operation .finish .eject)) ∧
      let s := atWork .finish .drop
      s.running = true ∧ s.head.state = .busy (operation .finish .drop) ∧
        (s.pockets.get .p1).bound = some { pack := id1, next := 6 } ∧ s.entry id1 = some (owned 5 .p1) ∧
        s.bin 3 = some Bin.empty ∧ s.ctl.station ≠ .safe ∧ ∀ x ∈ s.head.queue, x.pocket ≠ .p1 := by decide +kernel

theorem witness_TrayDropEndsTheOperation :
    (let s := atWork .clear .trayDrop
     let waits : State := { s with head := { s.head with testWaiting := true } }
     waits.head.state = .busy (operation .clear .trayDrop) ∧ waits.head.testWaiting = true) ∧
    ∀ j ∈ [Job.clear, .setAside .gap],
      let s := atWork j .trayDrop
      s.running = true ∧ s.head.state = .busy (operation j .trayDrop) ∧ s.config = some cfg ∧
        (∀ x ∈ s.head.queue, x.pocket ≠ .p1) ∧ (s.pockets.get .p1).bound = some { pack := id1, next := 6 } ∧
        s.entry id1 = some (owned 5 .p1) ∧ s.ctl.station ≠ .safe ∧ s.head.testWaiting = false := by decide +kernel

theorem witness_HeadFaultStopsTheHead :
    ((station .run).running = true ∧ (station .run).head.state ≠ .stopped) ∧
      ∀ ph ∈ [Phase.stroke 1 false, .eject, .drop, .trayDrop],
        (atWork .finish ph).running = true ∧ (atWork .finish ph).head.state = .busy (operation .finish ph) := by
  decide +kernel

/-- With the head IDLE every one of the eight events but the jams is stray; a carriage jam is stray in a stroke too, and at a
STOPPED head a head jam and a no-staple event are. -/
theorem witness_StrayHeadEventsAreIgnored :
    (station .run).running = true ∧ (∀ op, (station .run).head.state ≠ .busy op) ∧
      (∀ level limit, (station .run).head.state ≠ .testing level limit) ∧
      (∃ op, (atWork .finish (.stroke 1 false)).head.state = .busy op ∧
        op.phase ≠ .eject ∧ op.phase ≠ .drop ∧ op.phase ≠ .trayDrop) ∧
      ((station .halted).headTo .stopped).head.state = .stopped :=
  ⟨rfl, nofun, nofun, ⟨_, rfl, nofun, nofun, nofun⟩, rfl⟩

theorem witness_SelfTestJudgesItsLevels :
    ∀ l ∈ [TestLevel.light, .medium .marginal, .firm .pass .fail],
      let s := (station .standby).headTo (.testing l 2)
      s.running = true ∧ s.head.state = .testing l 2 ∧ s.head.testWaiting = false := by decide +kernel

theorem witness_SuppliesAndEmptyingsAreTaken :
    ((station .run).running = true ∧ (station .run).config = some cfg ∧ (station .run).bin 1 = some Bin.empty ∧
      (station .run).bin 8 = some Bin.empty ∧ (station .run).bin 0 = none ∧ (station .run).bin 9 = none) ∧
      (State.reset.running = true ∧ State.reset.config = none ∧ State.reset.ctl.station = .loading) ∧
      let s := State.reset.enter .configFault
      s.running = true ∧ s.config = none ∧ s.ctl.station ≠ .loading := by decide +kernel

theorem witness_PocketJamIsTakenAtItsPassage :
    ((station .run).running = true ∧ (station .run).part.jamLines.get .p2 = false) ∧
      ((station .joining).ctl.heldCause = none ∧ (station .joining).ctl.station = .joining) ∧
      (withHeld (some .headJam) (station .joining)).ctl.heldCause = some .headJam ∧
      (∀ st ∈ [StationState.halting, .halted, .safe, .configFault], (station st).running = true ∧ (station st).ctl.station = st) ∧
      dark.running = false := by
  decide +kernel

/-! ### Hypotheses that are met: invariants -/

theorem witness_PackTableStaysSound :
    TableSound (withEntries [bidding [record 1 5 0, record 2 5 0]] (station .run)) ∧
      ∃ t, step (withEntries [bidding [record 1 5 0, record 2 5 0]] (station .run)) = .next t := by
  refine ⟨⟨by decide, by decide, ?_⟩, _, rfl⟩
  intro e he bids hb
  have : e = bidding [record 1 5 0, record 2 5 0] := by simpa [withEntries] using he
  subst this
  simp only [bidding, EntryState.bidding.injEq] at hb
  subst hb
  decide

theorem witness_TransmitQueueStaysOrdered : TransmitSound (holder .run) ∧ ∃ t, step (holder .run) = .next t :=
  ⟨⟨List.pairwise_singleton _ _, by decide +kernel, by decide +kernel, by decide +kernel, by decide +kernel, by decide +kernel,
    by decide +kernel⟩, _, rfl⟩

/-- A station whose retained store has the size of its rack. -/
def stored : State := (station .run).writeStore

theorem witness_RostersStayEqualToTheFills : RostersMatch stored ∧ ∃ t, step stored = .next t :=
  ⟨⟨by decide +kernel, by decide +kernel, by decide +kernel, by decide +kernel⟩, _, rfl⟩

theorem sound_idle (n : Nat) : TransmitSound (withTray n (station .run)) :=
  ⟨List.Pairwise.nil, List.nodup_nil, by simp [withTray, station, State.reset], Nat.zero_le _,
    by simp [withTray, station, State.reset], rfl, fun _ => rfl⟩

theorem configured_idle (n : Nat) : ConfiguredOrIdle (withTray n (station .run)) := ⟨nofun, fun _ => ⟨nofun, nofun⟩⟩

theorem witness_TrayStaysWithinItsCapacity :
    TrayWithin (withTray 10 (station .run)) ∧ ∃ t, step (withTray 10 (station .run)) = .next t := by
  refine ⟨⟨sound_idle 10, configured_idle 10, ?_⟩, _, rfl⟩
  intro c hc
  cases hc
  exact ⟨by decide, nofun, fun _ => by simp [withTray, station, State.reset]⟩

theorem witness_PocketsQueueAndHeadStayInAgreement :
    WorkAgrees (withTray 0 (station .run)) ∧ ∃ t, step (withTray 0 (station .run)) = .next t :=
  ⟨⟨sound_idle 0, configured_idle 0, nofun, nofun, holdsWaiting_of_agrees (by decide +kernel),
    ⟨List.Pairwise.nil, by simp [withTray, station, State.reset]⟩, nofun,
    ⟨by simp [withTray, station, State.reset], List.nodup_nil, List.nodup_nil⟩, fun _ => ⟨rfl, fun _ => nofun⟩⟩, _, rfl⟩

end Sys2Proof.Tests
end

namespace Sys2Proof.Machine

open Sys2Proof.Config

/-! ### A frame of another member that is heard (R163, R164, R173) -/

theorem FrameKind.ofCode_code (k : FrameKind) : FrameKind.ofCode k.code = some k := by
  cases k <;> rfl

theorem FrameKind.precedence_toNat (k : FrameKind) : (BitVec.ofNat 4 k.precedence).toNat = k.precedence := by
  cases k <;> rfl

/-- Whoever may send a kind is a member (R162, R164). -/
theorem FrameKind.isUsed_of_sentBy {k : FrameKind} {a : Nat} (h : k.sentBy a = true) : isUsed a = true := by
  cases k <;> simp only [FrameKind.sentBy, Bool.or_eq_true, decide_eq_true_eq] at h <;>
    simp only [isUsed, Bool.or_eq_true, decide_eq_true_eq] <;> tauto

/-- The checks of R173 that are left for a frame with the kind code and the precedence R164 gives its kind. -/
theorem frameWellFormed_frameOf (own : Nat) (k : FrameKind) (sender target : LinkAddress) (body : List Byte) :
    frameWellFormed own (frameOf k sender target body) = true ↔
      k.sentBy sender.toNat = true ∧ k.sentTo target.toNat = true ∧ k.lengthAllowed body = true ∧
        k.bodyAllowed body = true ∧ sender.toNat ≠ own := by
  simp only [frameWellFormed, frameOf, FrameKind.ofCode_code, FrameKind.precedence_toNat, Bool.and_eq_true,
    decide_eq_true_iff, true_and]
  constructor
  · rintro ⟨-, ⟨⟨⟨hs, ht⟩, hl⟩, hb⟩, ho⟩
    exact ⟨hs, ht, hl, hb, of_decide_eq_true ho⟩
  · rintro ⟨hs, ht, hl, hb, ho⟩
    exact ⟨FrameKind.isUsed_of_sentBy hs, ⟨⟨⟨hs, ht⟩, hl⟩, hb⟩, decide_eq_true ho⟩

theorem State.running_of_unitActive {s : State} (h : s.unitActive = true) : s.running = true := by
  simp only [State.unitActive, Bool.and_eq_true] at h
  exact h.1

theorem State.address_of_unitActive {s : State} (h : s.unitActive = true) : 1 ≤ s.address ∧ s.address ≤ 8 := by
  simp only [State.unitActive, Bool.and_eq_true, decide_eq_true_eq] at h
  exact h.2

/-- A well-formed frame is handed on once it has been received (R167, R174). -/
theorem State.fromMember_heard {s : State} {f : Frame} (handOn : State → State) (hu : s.unitActive = true)
    (hf : frameWellFormed s.address f = true) : s.fromMember f handOn = handOn s.received := by
  simp [State.fromMember, hu, hf]

/-- The echo of a frame of the kind awaited is handed on once the frame has left the queue (R167). -/
theorem State.echo_heard {s : State} {e : TxEntry} {isKind : TxFrame → Bool} (handOn : TxEntry → State → State)
    (h : Echoes e s) (hk : isKind e.frame = true) : s.echo isKind handOn = handOn e (s.echoed e) := by
  simp [State.echo, h.1, h.2, hk]

theorem frameWellFormed_fromFeed {sender : LinkAddress} {s : State} (h : FromFeed sender s) {k : FrameKind}
    {body : List Byte} (hk : k = .offer ∨ k = .close ∨ k = .withdraw) (hl : k.lengthAllowed body = true) :
    frameWellFormed s.address (frameOf k sender 31 body) = true := by
  obtain ⟨hu, hlo, hhi⟩ := h
  have ha := State.address_of_unitActive hu
  have hfeed : isFeed sender.toNat = true := by simp [isFeed, hlo, hhi]
  refine (frameWellFormed_frameOf _ _ _ _ _).2 ⟨?_, ?_, hl, ?_, by omega⟩ <;>
    rcases hk with rfl | rfl | rfl <;> simp [FrameKind.sentBy, FrameKind.sentTo, FrameKind.bodyAllowed, hfeed]

theorem frameWellFormed_fromStation {sender : LinkAddress} {s : State} (h : FromStation sender s) {k : FrameKind}
    {body : List Byte} (hk : k = .bid ∨ k = .delivered ∨ k = .aside ∨ k = .halt ∨ k = .join)
    (hl : k.lengthAllowed body = true) : frameWellFormed s.address (frameOf k sender 31 body) = true := by
  obtain ⟨-, hlo, hhi, hne⟩ := h
  have hst : isStation sender.toNat = true := by simp [isStation, hlo, hhi]
  refine (frameWellFormed_frameOf _ _ _ _ _).2 ⟨?_, ?_, hl, ?_, hne⟩ <;>
    rcases hk with rfl | rfl | rfl | rfl | rfl <;>
    simp [FrameKind.sentBy, FrameKind.sentTo, FrameKind.bodyAllowed, hst]

/-! ### What a heard command comes to -/

theorem exec_offer {sender : LinkAddress} {s : State} (b : OfferBody) (h : FromFeed sender s) :
    exec (.offer sender b) s = .next (s.received.withPack b.id fun _ => State.takeOffer sender.toNat b) := by
  have hf := frameWellFormed_fromFeed h (body := packIdBytes b.id ++ [b.classCode, b.roll, b.count, b.finish, b.lane])
    (Or.inl rfl) rfl
  exact (event_running (State.running_of_unitActive h.1)).trans (congrArg _ (State.fromMember_heard _ h.1 hf))

theorem exec_close {sender : LinkAddress} {s : State} (w : WirePackId) (h : FromFeed sender s) :
    exec (.close sender w) s = .next (s.received.withPack w (State.takeClose sender.toNat)) := by
  have hf := frameWellFormed_fromFeed h (body := packIdBytes w) (Or.inr (Or.inl rfl)) rfl
  exact (event_running (State.running_of_unitActive h.1)).trans (congrArg _ (State.fromMember_heard _ h.1 hf))

/-- A WITHDRAW is heard from a feed node and from the console (R164). -/
theorem exec_withdraw {sender : LinkAddress} {s : State} (w : WirePackId) (hu : s.unitActive = true)
    (hs : 16 ≤ sender.toNat ∧ sender.toNat ≤ 19 ∨ sender = 30) :
    exec (.withdraw sender w) s = .next (s.received.withPack w (State.takeWithdraw sender.toNat)) := by
  have ha := State.address_of_unitActive hu
  have hn : 16 ≤ sender.toNat ∧ sender.toNat ≤ 19 ∨ sender.toNat = 30 := hs.imp_right fun e => by rw [e]; rfl
  have hf : frameWellFormed s.address (withdrawFrame sender w) = true := by
    refine (frameWellFormed_frameOf _ _ _ _ _).2 ⟨?_, rfl, rfl, rfl, by omega⟩
    simpa [FrameKind.sentBy, isFeed] using hn
  exact (event_running (State.running_of_unitActive hu)).trans (congrArg _ (State.fromMember_heard _ hu hf))

theorem exec_bid_other {sender : LinkAddress} {s : State} (b : BidBody) (h : FromStation sender s) :
    exec (.bid (.other sender b)) s = .next (s.received.withPack b.id (State.takeBidFrom sender.toNat b)) := by
  have hf := frameWellFormed_fromStation h (body := packIdBytes b.id ++ [b.fit, b.load]) (Or.inl rfl) rfl
  exact (event_running (State.running_of_unitActive h.1)).trans (congrArg _ (State.fromMember_heard _ h.1 hf))

theorem exec_delivered_other {sender : LinkAddress} {s : State} (d : DeliveredBody) (h : FromStation sender s) :
    exec (.delivered (.other sender d)) s = .next (s.received.withPack d.id (State.takeEnd sender.toNat)) := by
  have hf := frameWellFormed_fromStation h (k := .delivered) (body := packIdBytes d.id ++ [d.bin, d.flags])
    (by simp) rfl
  exact (event_running (State.running_of_unitActive h.1)).trans (congrArg _ (State.fromMember_heard _ h.1 hf))

theorem exec_aside_other {sender : LinkAddress} {s : State} (a : AsideBody) (h : FromStation sender s) :
    exec (.aside (.other sender a)) s = .next (s.received.withPack a.id (State.takeEnd sender.toNat)) := by
  have hf := frameWellFormed_fromStation h (k := .aside) (body := packIdBytes a.id ++ [a.reason]) (by simp) rfl
  exact (event_running (State.running_of_unitActive h.1)).trans (congrArg _ (State.fromMember_heard _ h.1 hf))

theorem exec_halt {sender : LinkAddress} {s : State} (cause : Byte) (h : FromStation sender s) :
    exec (.halt sender cause) s = .next (s.received.takeForget sender.toNat) := by
  have hf := frameWellFormed_fromStation h (k := .halt) (body := [cause]) (by simp) rfl
  exact (event_running (State.running_of_unitActive h.1)).trans (congrArg _ (State.fromMember_heard _ h.1 hf))

theorem exec_join {sender : LinkAddress} {s : State} (b : JoinBody) (h : FromStation sender s) :
    exec (.join sender b) s = .next (s.received.takeForget sender.toNat) := by
  have hf := frameWellFormed_fromStation h (k := .join)
    (body := [b.resetCause, b.capabilities, b.outcome, b.capacity]) (by simp) rfl
  exact (event_running (State.running_of_unitActive h.1)).trans (congrArg _ (State.fromMember_heard _ h.1 hf))

/-- An ASK of the console that names this station (R174, R175). -/
theorem exec_ask {h : ConsoleHeader} {s : State} (a : Ask) (hd : Addressed h s) :
    exec (askRow h a) s = .next (s.received.asked a) := by
  obtain ⟨hu, hs, ht⟩ := hd
  have ha := State.address_of_unitActive hu
  have hst : h.sender.toNat = 30 := by rw [hs]; rfl
  have hf : frameWellFormed s.address (askFrame h a) = true := by
    refine (frameWellFormed_frameOf _ _ _ _ _).2 ⟨?_, ?_, ?_, ?_, by omega⟩
    · simp [FrameKind.sentBy, hst]
    · simp [FrameKind.sentTo, isStation, ht, ha]
    · cases a <;> rfl
    · cases a <;> rfl
  have hh : s.askDelivered h a = s.received.asked a :=
    (State.fromMember_heard _ hu hf).trans (if_pos (ht : h.target.toNat = s.received.address))
  have he := event_running (f := State.askDelivered h a) (State.running_of_unitActive hu)
  rw [hh] at he
  cases a <;> exact he

section Echoes

variable {e : TxEntry} {s : State} (h : Echoes e s)
include h

theorem exec_bid_echo {id : PackId} {fit load : Nat} (hf : e.frame = .bid id fit load) :
    exec (.bid .echo) s = .next (State.takeBidEcho e (s.echoed e)) :=
  (event_running (State.running_of_unitActive h.1)).trans (congrArg _ (State.echo_heard _ h (by rw [hf]; rfl)))

theorem exec_delivered_echo {id : PackId} {bin : Nat} {flags : DeliveryFlags} (hf : e.frame = .delivered id bin flags) :
    exec (.delivered .echo) s = .next (State.takeEndEcho e (s.echoed e)) :=
  (event_running (State.running_of_unitActive h.1)).trans (congrArg _ (State.echo_heard _ h (by rw [hf]; rfl)))

theorem exec_aside_echo {id : PackId} {r : AsideReason} (hf : e.frame = .aside id r) :
    exec (.aside .echo) s = .next (State.takeEndEcho e (s.echoed e)) :=
  (event_running (State.running_of_unitActive h.1)).trans (congrArg _ (State.echo_heard _ h (by rw [hf]; rfl)))

theorem exec_haltEcho {cause : HaltCause} (hf : e.frame = .halt cause) :
    exec .haltEcho s = .next (s.echoed e).haltEchoed :=
  (event_running (State.running_of_unitActive h.1)).trans (congrArg _ (State.echo_heard _ h (by rw [hf]; rfl)))

theorem exec_joinEcho {cause : ResetCause} {stapler edge : Bool} {outcome : TestOutcome} {capacity : Nat}
    (hf : e.frame = .join cause stapler edge outcome capacity) :
    exec .joinEcho s = .next (s.echoed e).joinEchoed :=
  (event_running (State.running_of_unitActive h.1)).trans (congrArg _ (State.echo_heard _ h (by rw [hf]; rfl)))

end Echoes

/-! ### A frame with a pack id reaches the Pack Table (R1, R5) -/

theorem State.withPack_discarded {s : State} {w : WirePackId} (take : PackId → State → State)
    (h : s.ctl.station.applies = false) : s.withPack w take = s := by
  simp [State.withPack, h]

theorem State.withPack_malformed {s : State} {w : WirePackId} (take : PackId → State → State)
    (h : s.ctl.station.applies = true) (hw : readPackId w = none) : s.withPack w take = s.count .malformed := by
  simp [State.withPack, h, hw]

theorem State.withPack_taken {s : State} {w : WirePackId} {id : PackId} (take : PackId → State → State)
    (h : s.ctl.station.applies = true) (hw : readPackId w = some id) : s.withPack w take = take id s := by
  simp [State.withPack, h, hw]

theorem readPackId_eq_some {w : WirePackId} {id : PackId} :
    readPackId w = some id ↔
      16 ≤ w.feed.toNat ∧ w.feed.toNat ≤ 19 ∧ w.serial.toNat ≠ 0 ∧
        id = { feed := w.feed.toNat, serial := w.serial.toNat } := by
  simp only [readPackId, isFeed, Bool.and_eq_true, decide_eq_true_iff, Option.ite_none_right_eq_some, Option.some.injEq,
    and_assoc]
  exact ⟨fun ⟨lo, hi, hn, e⟩ => ⟨lo, hi, hn, e.symm⟩, fun ⟨lo, hi, hn, e⟩ => ⟨lo, hi, hn, e.symm⟩⟩

end Sys2Proof.Machine

namespace Sys2Proof.Machine

open Sys2Proof.Config

/-! ### Conditions that an operation keeps -/

/-- An operation keeps a condition of states. -/
def Keeps (P : State → Prop) (f : State → State) : Prop := ∀ s, P s → P (f s)

section Keeps

variable {P : State → Prop}

theorem Keeps.id : Keeps P id := fun _ h => h

theorem event_keeps {f : State → State} {s t : State} (hf : Keeps P f) (h : event f s = .next t) (hs : P s) : P t := by
  obtain rfl : (if s.running then f s else s) = t := Host.Outcome.next.inj h
  split
  · exact hf s hs
  · exact hs

/-- A frame of another member is received, and then counted as malformed or handed on (R167, R173, R174). -/
theorem fromMember_keeps {handOn : State → State} (hr : Keeps P State.received) (hc : Keeps P (State.count .malformed))
    (hh : Keeps P handOn) (f : Frame) : Keeps P (State.fromMember f handOn) := by
  intro s hs
  unfold State.fromMember
  split
  · split
    · exact hh _ (hr s hs)
    · exact hc _ (hr s hs)
  · exact hs

/-- An echo is counted as malformed, or handed on once its frame has left the queue (R167). -/
theorem echo_keeps {handOn : TxEntry → State → State} (hr : Keeps P State.received)
    (hc : Keeps P (State.count .malformed)) (he : ∀ e, Keeps P (State.echoed e)) (hh : ∀ e, Keeps P (handOn e))
    (isKind : TxFrame → Bool) : Keeps P (State.echo isKind handOn) := by
  intro s hs
  unfold State.echo
  split
  · split
    · exact hc _ (hr s hs)
    · split
      · exact hh _ _ (he _ s hs)
      · exact hc _ (hr s hs)
  · exact hs

theorem withPack_keeps {take : PackId → State → State} (hc : Keeps P (State.count .malformed))
    (ht : ∀ id, Keeps P (take id)) (w : WirePackId) : Keeps P (State.withPack w take) := by
  intro s hs
  unfold State.withPack
  split
  · split
    · exact hc s hs
    · exact ht _ s hs
  · exact hs

theorem forThisStation_keeps {handOn : State → State} (hh : Keeps P handOn) (target : LinkAddress) :
    Keeps P (State.forThisStation target handOn) := by
  intro s hs
  unfold State.forThisStation
  split
  · exact hh s hs
  · exact hs

end Keeps

/-! ### What leaves the entries of the pack table as they stand -/

@[simp] theorem State.startAttempt_entries (s : State) : s.startAttempt.packs.entries = s.packs.entries := by
  unfold State.startAttempt
  split <;> simp

@[simp] theorem State.arbitrate_entries (others : List Arbitration) (s : State) :
    (s.arbitrate others).packs.entries = s.packs.entries := by
  unfold State.arbitrate
  (repeat' split) <;> simp

@[simp] theorem State.contends_entries (m : ContentionMoment) (s : State) :
    (s.contends m).packs.entries = s.packs.entries := by
  unfold State.contends
  (repeat' split) <;> simp [State.enterContention]

@[simp] theorem State.ownSpoiled_entries (s : State) : s.ownSpoiled.packs.entries = s.packs.entries := by
  unfold State.ownSpoiled
  dsimp only
  (repeat' split) <;> simp

@[simp] theorem State.receivedSpoiled_entries (r : Reception) (s : State) :
    (s.receivedSpoiled r).packs.entries = s.packs.entries := by
  unfold State.receivedSpoiled
  dsimp only
  (repeat' split) <;> simp

@[simp] theorem State.frameSpoiled_entries (f : SpoiledFrame) (s : State) :
    (s.frameSpoiled f).packs.entries = s.packs.entries := by
  unfold State.frameSpoiled
  (repeat' split) <;> simp

@[simp] theorem State.asked_entries (a : Ask) (s : State) : (s.asked a).packs.entries = s.packs.entries := by
  unfold State.asked
  split <;> simp

@[simp] theorem State.contentReported_entries (a : Ask) (c : ReportContent) (s : State) :
    (s.contentReported a c).packs.entries = s.packs.entries := by
  unfold State.contentReported
  (repeat' split) <;> simp [State.headReported, State.binReported]

@[simp] theorem State.reportEchoed_entries (e : TxEntry) (s : State) :
    (s.reportEchoed e).packs.entries = s.packs.entries := by
  unfold State.reportEchoed State.freeReportSlot
  (repeat' split) <;> simp

@[simp] theorem State.takeOrder_entries (o : OrderKind) {obey : State → Obeyed}
    (h : ∀ s, (obey s).state.packs.entries = s.packs.entries) (s : State) :
    (s.takeOrder o obey).packs.entries = s.packs.entries := by
  unfold State.takeOrder
  (repeat' split) <;> simp [h]

@[simp] theorem State.obeyStandby_entries (s : State) : s.obeyStandby.state.packs.entries = s.packs.entries := by
  unfold State.obeyStandby
  split <;> simp

@[simp] theorem State.obeyResume_entries (r : ResumeReadings) (s : State) :
    (s.obeyResume r).state.packs.entries = s.packs.entries := by
  unfold State.obeyResume
  (repeat' split) <;> simp

@[simp] theorem State.requestTest_entries (s : State) : s.requestTest.packs.entries = s.packs.entries := by
  simp [State.requestTest]

@[simp] theorem State.obeySelfTest_entries (s : State) : s.obeySelfTest.state.packs.entries = s.packs.entries := by
  unfold State.obeySelfTest
  (repeat' split) <;> simp

@[simp] theorem State.buttonPressed_entries (r : ResumeReadings) (s : State) :
    (s.buttonPressed r).packs.entries = s.packs.entries := by
  unfold State.buttonPressed
  (repeat' split) <;> simp

@[simp] theorem State.renewHold_entries (s : State) : s.renewHold.packs.entries = s.packs.entries := by
  unfold State.renewHold
  (repeat' split) <;> simp

@[simp] theorem State.takeSheet_entries (p : PocketId) (s : State) : (s.takeSheet p).packs.entries = s.packs.entries := by
  simp [State.takeSheet, State.divertTo]

@[simp] theorem State.nextIndex_entries (p : PocketId) (s : State) : (s.nextIndex p).packs.entries = s.packs.entries := by
  simp [State.nextIndex]

@[simp] theorem State.absorbSheet_entries (p : PocketId) (r : AsideReason) (o : Offer) (m : Mark) (s : State) :
    (s.absorbSheet p r o m).packs.entries = s.packs.entries := by
  unfold State.absorbSheet State.passOwn
  simp only
  (repeat' split) <;> simp

@[simp] theorem State.judgePack_entries (p : PocketId) (o : Offer) (m : Mark) (s : State) :
    (s.judgePack p o m).packs.entries = s.packs.entries := by
  unfold State.judgePack
  (repeat' split) <;> simp

@[simp] theorem State.firstSheet_entries (p : PocketId) (o : Offer) (m : Mark) (s : State) :
    (s.firstSheet p o m).packs.entries = s.packs.entries := by
  unfold State.firstSheet
  simp only
  (repeat' split) <;> simp

@[simp] theorem State.fillingSheet_entries (p : PocketId) (next : Nat) (o : Offer) (m : Mark) (s : State) :
    (s.fillingSheet p next o m).packs.entries = s.packs.entries := by
  unfold State.fillingSheet State.passOwn
  (repeat' split) <;> simp

@[simp] theorem State.sheetAtPocket_entries (p : PocketId) (o : Offer) (m : Mark) (s : State) :
    (s.sheetAtPocket p o m).packs.entries = s.packs.entries := by
  unfold State.sheetAtPocket State.extraSheet State.passOwn
  (repeat' split) <;> simp

@[simp] theorem State.sheetArrives_entries (raw : Option SheetMark) (s : State) :
    (s.sheetArrives raw).packs.entries = s.packs.entries := by
  unfold State.sheetArrives State.divertTo
  simp only
  (repeat' split) <;> simp

@[simp] theorem State.gapExpires_entries (p : PocketId) (s : State) : (s.gapExpires p).packs.entries = s.packs.entries := by
  unfold State.gapExpires
  (repeat' split) <;> simp

@[simp] theorem State.strokeDone_entries (op : Operation) (position : Nat) (retry : Bool) (v : SenseReading) (s : State) :
    (s.strokeDone op position retry v).packs.entries = s.packs.entries := by
  unfold State.strokeDone State.goodClinch State.convertClinch State.retryStroke
  simp only
  (repeat' split) <;> simp [State.spendStaple, State.writeClinch]

@[simp] theorem State.strokeCompletes_entries (v : SenseReading) (s : State) :
    (s.strokeCompletes v).packs.entries = s.packs.entries := by
  unfold State.strokeCompletes
  (repeat' split) <;> simp

@[simp] theorem State.noStapleFound_entries (s : State) : s.noStapleFound.packs.entries = s.packs.entries := by
  unfold State.noStapleFound
  (repeat' split) <;> simp [State.emptyStaples]

@[simp] theorem State.ejectCompletes_entries (occupied : Bool) (s : State) :
    (s.ejectCompletes occupied).packs.entries = s.packs.entries := by
  unfold State.ejectCompletes
  (repeat' split) <;> simp [State.readOccupied]

@[simp] theorem State.trayTakes_entries (s : State) : s.trayTakes.packs.entries = s.packs.entries := by
  simp [State.trayTakes]

@[simp] theorem State.limitExpires_entries (inPhase : Phase → Bool) (c : HaltCause) (s : State) :
    (s.limitExpires inPhase c).packs.entries = s.packs.entries := by
  unfold State.limitExpires
  (repeat' split) <;> simp

@[simp] theorem State.headJams_entries (s : State) : s.headJams.packs.entries = s.packs.entries := by
  unfold State.headJams
  split <;> simp

@[simp] theorem State.levelEnds_entries (level : TestLevel) (j : Judgement) (s : State) :
    (s.levelEnds level j).packs.entries = s.packs.entries := by
  unfold State.levelEnds State.endTest
  split <;> simp

@[simp] theorem State.referenceRead_entries (v : SenseReading) (s : State) :
    (s.referenceRead v).packs.entries = s.packs.entries := by
  unfold State.referenceRead
  split <;> simp [State.writeReference]

@[simp] theorem State.readingExpires_entries (s : State) : s.readingExpires.packs.entries = s.packs.entries := by
  unfold State.readingExpires
  split <;> simp

@[simp] theorem State.refill_entries (c : StationConfig) (s : State) : (s.refill c).packs.entries = s.packs.entries := by
  simp [State.refill]

@[simp] theorem State.emptyBin_entries (n : Nat) (s : State) : (s.emptyBin n).packs.entries = s.packs.entries := by
  unfold State.emptyBin
  split <;> simp [State.forgetCursor]

@[simp] theorem State.emptyTray_entries (s : State) : s.emptyTray.packs.entries = s.packs.entries := by
  simp [State.emptyTray]

theorem State.senseRaised_entries (hold : HeldEvents → HeldEvents) {take : StationConfig → State → State}
    (h : ∀ c s, (take c s).packs.entries = s.packs.entries) (s : State) :
    (s.senseRaised hold take).packs.entries = s.packs.entries := by
  unfold State.senseRaised
  (repeat' split) <;> simp [h]

@[simp] theorem State.pocketJams_entries (p : PocketId) (s : State) : (s.pocketJams p).packs.entries = s.packs.entries := by
  unfold State.pocketJams State.jamLine
  simp only
  split <;> simp

@[simp] theorem State.tick_entries (s : State) : s.tick.packs.entries = s.packs.entries := by
  unfold State.tick State.tickPockets
  (repeat' split) <;> simp

/-! The start sequence (R184) -/

@[simp] theorem State.failLoading_entries (f : ConfigFault) (s : State) :
    (s.failLoading f).packs.entries = s.packs.entries := by
  unfold State.failLoading
  simp only
  split <;> simp [State.clearHeld, State.budgetUnset]

@[simp] theorem State.checkStore_entries (c : StationConfig) (cartridge : Bool) (s : State) :
    (s.checkStore c cartridge).packs.entries = s.packs.entries := by
  simp [State.checkStore]

@[simp] theorem State.takeHeld_entries (c : StationConfig) (s : State) :
    (s.takeHeld c).packs.entries = s.packs.entries := by
  unfold State.takeHeld State.clearHeld
  simp only
  (repeat' split) <;>
    simp [foldl_keeps (fun t => t.packs.entries) (fun u n => State.emptyBin n u) (fun t n => by simp)]

@[simp] theorem State.startTestIfFitted_entries (c : StationConfig) (s : State) :
    (s.startTestIfFitted c).packs.entries = s.packs.entries := by
  unfold State.startTestIfFitted
  split <;> simp

@[simp] theorem State.checkPockets_entries (occupied : PocketLevels) (s : State) :
    (s.checkPockets occupied).packs.entries = s.packs.entries := by
  simp [State.checkPockets,
    foldl_keeps (fun t => t.packs.entries) (fun t p => (State.checkPocket p (occupied.get p) t).serve) (fun t p => by simp)]

@[simp] theorem State.leaveLoading_entries (c : StationConfig) (s : State) :
    (s.leaveLoading c).packs.entries = s.packs.entries := by
  unfold State.leaveLoading
  split <;> simp

@[simp] theorem State.imageRead_entries (bytes : List Byte) (occupied : PocketLevels) (cartridge : Bool) (s : State) :
    (s.imageRead bytes occupied cartridge).packs.entries = s.packs.entries := by
  unfold State.imageRead State.startWith
  (repeat' split) <;> simp

/-! ### A sound list of entries (R3, R5) -/

/-- What TableSound says of the entries. -/
def EntriesSound (es : List Entry) : Prop :=
  es.length ≤ 64 ∧ (es.map fun e => e.offer.id).Nodup ∧
    ∀ e ∈ es, ∀ bids, e.state = .bidding bids → (bids.map BidRecord.station).Nodup

theorem tableSound_iff {s : State} : TableSound s ↔ EntriesSound s.packs.entries := Iff.rfl

theorem EntriesSound.nil : EntriesSound [] := ⟨by decide, List.nodup_nil, nofun⟩

/-- Entries whose ids are some of those of a sound list, in its order, are sound where each of their bid lists is. -/
theorem EntriesSound.of_ids {es fs : List Entry} (h : EntriesSound es)
    (hids : (fs.map fun e => e.offer.id).Sublist (es.map fun e => e.offer.id))
    (hb : ∀ e ∈ fs, ∀ bids, e.state = .bidding bids → (bids.map BidRecord.station).Nodup) : EntriesSound fs := by
  refine ⟨?_, h.2.1.sublist hids, hb⟩
  have hlen := hids.length_le
  simp only [List.length_map] at hlen
  exact hlen.trans h.1

theorem EntriesSound.sublist {es fs : List Entry} (h : EntriesSound es) (hs : fs.Sublist es) : EntriesSound fs :=
  h.of_ids (hs.map _) fun e he => h.2.2 e (hs.subset he)

/-- A new entry at the end of a table that is not full. -/
theorem EntriesSound.append {es : List Entry} {e : Entry} (h : EntriesSound es) (hn : es.length < 64)
    (hid : ∀ x ∈ es, x.offer.id ≠ e.offer.id)
    (hb : ∀ bids, e.state = .bidding bids → (bids.map BidRecord.station).Nodup) : EntriesSound (es ++ [e]) := by
  obtain ⟨-, hids, hbids⟩ := h
  refine ⟨by simpa using hn, ?_, fun x hx => ?_⟩
  · rw [List.map_append, List.nodup_append]
    exact ⟨hids, by simp, by simpa using hid⟩
  · rcases List.mem_append.1 hx with hx | hx
    · exact hbids x hx
    · obtain rfl := List.mem_singleton.1 hx
      exact hb

/-- One entry of a sound list for each id. -/
theorem EntriesSound.eq_of_id {es : List Entry} (h : EntriesSound es) {x y : Entry} (hx : x ∈ es) (hy : y ∈ es)
    (hid : x.offer.id = y.offer.id) : x = y := List.inj_on_of_nodup_map h.2.1 hx hy hid

/-- A change of the entry of an id that keeps the id, and after which its bid list is sound. -/
theorem EntriesSound.change {es : List Entry} {id : PackId} {f : Entry → Entry} (h : EntriesSound es)
    (hid : ∀ e, (f e).offer.id = e.offer.id)
    (hb : ∀ e ∈ es, e.offer.id = id → ∀ bids, (f e).state = .bidding bids → (bids.map BidRecord.station).Nodup) :
    EntriesSound (es.map fun e => if e.offer.id = id then f e else e) := by
  refine h.of_ids ?_ fun e he bids hst => ?_
  · have hmap : (es.map fun e => if e.offer.id = id then f e else e).map (fun e => e.offer.id) =
        es.map fun e => e.offer.id := by
      rw [List.map_map]
      refine List.map_congr_left fun e _ => ?_
      by_cases hc : e.offer.id = id <;> simp [hc, hid]
    rw [hmap]
  · obtain ⟨x, hx, rfl⟩ := List.mem_map.1 he
    by_cases hc : x.offer.id = id
    · rw [if_pos hc] at hst
      exact hb x hx hc bids hst
    · rw [if_neg hc] at hst
      exact h.2.2 x hx bids hst

theorem Entry.without_id {station : Nat} {e x : Entry} (h : e.without station = some x) : x.offer.id = e.offer.id := by
  unfold Entry.without at h
  split at h
  · split at h
    · exact absurd h nofun
    · rw [Option.some.inj h]
  · rw [← Option.some.inj h]

/-- What a HALT or JOIN leaves of a bid list has its stations from before. -/
theorem Entry.without_bids {station : Nat} {e x : Entry} {bids : List BidRecord} (h : e.without station = some x)
    (hx : x.state = .bidding bids) : ∃ before, e.state = .bidding before ∧ bids.Sublist before := by
  unfold Entry.without at h
  split at h
  · next o a ho =>
    split at h
    · exact absurd h nofun
    · obtain rfl := Option.some.inj h
      rw [ho] at hx
      exact absurd hx nofun
  · next before hb =>
    obtain rfl := Option.some.inj h
    exact ⟨before, hb, EntryState.bidding.inj hx ▸ List.filter_sublist⟩

theorem ids_filterMap_sublist {f : Entry → Option Entry} (hid : ∀ {e x}, f e = some x → x.offer.id = e.offer.id)
    (es : List Entry) : ((es.filterMap f).map fun e => e.offer.id).Sublist (es.map fun e => e.offer.id) := by
  induction es with
  | nil => simp
  | cons e es ih =>
    cases hf : f e with
    | none => simpa [List.filterMap_cons, hf] using ih.cons _
    | some x => simpa [List.filterMap_cons, hf, hid hf] using ih

/-! ### What the meanings do to a sound table -/

theorem keeps_of_entries {f : State → State} (h : ∀ s, (f s).packs.entries = s.packs.entries) : Keeps TableSound f := by
  intro s hs
  rw [tableSound_iff, h]
  exact hs

theorem count_keepsTable (c : CounterName) : Keeps TableSound (State.count c) := fun _ h => h
theorem received_keepsTable : Keeps TableSound State.received := fun _ h => h
theorem echoed_keepsTable (e : TxEntry) : Keeps TableSound (State.echoed e) := fun _ h => h

theorem retire_keepsTable (id : PackId) : Keeps TableSound (State.retire id) := fun _ h =>
  EntriesSound.sublist h List.filter_sublist

theorem forgetStation_keepsTable (station : Nat) : Keeps TableSound (State.forgetStation station) := by
  intro s hs
  refine EntriesSound.of_ids hs (ids_filterMap_sublist Entry.without_id _) fun x hx bids hst => ?_
  obtain ⟨e, he, hw⟩ := List.mem_filterMap.1 hx
  obtain ⟨before, hbe, hsub⟩ := Entry.without_bids hw hst
  exact (hs.2.2 e he before hbe).sublist (hsub.map _)

theorem forgetSelf_keepsTable : Keeps TableSound State.forgetSelf := fun s hs =>
  forgetStation_keepsTable s.address s hs

theorem placeEntry_keepsTable (id : PackId) (owner : Nat) (annex : Option Annex) :
    Keeps TableSound (State.placeEntry id owner annex) := fun _ hs =>
  EntriesSound.change hs (fun _ => rfl) fun _ _ _ _ => nofun

theorem Entry.ending_bids {e : Entry} {bids : List BidRecord} (h : e.ending.state = .bidding bids) :
    e.state = .bidding bids := by
  unfold Entry.ending at h
  split at h
  · exact absurd h nofun
  · exact h
  · exact h

theorem requestEnd_keepsTable (id : PackId) (f : TxFrame) : Keeps TableSound (State.requestEnd id f) := by
  intro s hs
  unfold State.requestEnd
  split
  · exact hs
  · split
    · have ha : TableSound (s.append f) := by simpa [TableSound] using hs
      exact EntriesSound.change ha (fun e => by rw [Entry.ending_offer]) fun e he _ bids hb =>
        ha.2.2 e he bids (Entry.ending_bids hb)
    · exact hs

theorem enterOffer_keepsTable {o : Offer} {s : State} (hs : TableSound s) (hnew : s.entry o.id = none)
    (hroom : s.packs.entries.length < tableCapacity) : TableSound (s.enterOffer o) := by
  have hid : ∀ x ∈ s.packs.entries, x.offer.id ≠ o.id := fun x hx => by
    simpa using List.find?_eq_none.1 hnew x hx
  have happ := EntriesSound.append (e := { offer := o, state := .bidding [] }) hs hroom hid fun bids hb => by
    obtain rfl := EntryState.bidding.inj hb
    exact List.nodup_nil
  rw [tableSound_iff]
  simpa [State.enterOffer] using happ

theorem takeOffer_keepsTable (sender : Nat) (b : OfferBody) : Keeps TableSound (State.takeOffer sender b) := by
  intro s hs
  unfold State.takeOffer
  split
  · exact hs
  · split
    · exact hs
    · split
      · exact hs
      · next hnew =>
        split
        · next hroom => exact enterOffer_keepsTable hs hnew hroom
        · exact hs

theorem recordBid_keepsTable {id : PackId} {r : BidRecord} {e : Entry} {bids : List BidRecord} {s : State}
    (hs : TableSound s) (he : s.entry id = some e) (hb : e.state = .bidding bids)
    (hnew : ∀ x ∈ bids, x.station ≠ r.station) : TableSound (s.recordBid id r) := by
  refine EntriesSound.change hs (fun x => by split <;> rfl) fun x hx hid after hst => ?_
  obtain rfl : x = e := EntriesSound.eq_of_id hs hx (State.entry_mem he) (hid.trans (State.entry_id he).symm)
  simp only [hb, EntryState.bidding.injEq] at hst
  subst hst
  rw [List.map_append, List.nodup_append]
  exact ⟨hs.2.2 x hx bids hb, by simp, by simpa using hnew⟩

theorem takeBid_keepsTable (sender : Nat) (mine : Bool) (fit load : Nat) (id : PackId) :
    Keeps TableSound (State.takeBid sender mine fit load id) := by
  intro s hs
  have hrel : ∀ c, TableSound ((s.count c).releaseBid id) := fun c => by simpa [TableSound] using hs
  unfold State.takeBid
  split
  · dsimp only
    split
    · exact hrel _
    · exact hs
  · next e he =>
    split
    · dsimp only
      split
      · exact hrel _
      · exact hs
    · next bids hb =>
      split
      · exact hs
      · next hno =>
        have hrec : TableSound (s.recordBid id { station := sender, fit := fit, load := load }) :=
          recordBid_keepsTable hs he hb fun x hx => by
            simp only [List.any_eq_true, decide_eq_true_eq, not_exists, not_and] at hno
            exact hno x hx
        dsimp only
        split
        · exact hrec
        · exact hrec

theorem takeBidFrom_keepsTable (sender : Nat) (b : BidBody) (id : PackId) :
    Keeps TableSound (State.takeBidFrom sender b id) := by
  intro s hs
  unfold State.takeBidFrom
  split
  · exact takeBid_keepsTable _ _ _ _ _ s hs
  · exact hs

theorem takeBidEcho_keepsTable (e : TxEntry) : Keeps TableSound (State.takeBidEcho e) := by
  intro s hs
  unfold State.takeBidEcho
  split
  · split
    · exact takeBid_keepsTable _ _ _ _ _ s hs
    · exact hs
  · exact hs

theorem commitClaims_entries (b : PendingBid) (s : State) : (s.commitClaims b).packs.entries = s.packs.entries := by
  simp [State.commitClaims]

theorem resolvePlaced_keepsTable (id : PackId) (owner : Nat) : Keeps TableSound (State.resolvePlaced id owner) := by
  intro s hs
  have hp : ∀ a, TableSound (s.placeEntry id owner a) := fun a => placeEntry_keepsTable id owner a s hs
  unfold State.resolvePlaced
  split
  · exact hp none
  · split
    · exact keeps_of_entries (fun t => by simp) _ (hp none)
    · split
      · exact keeps_of_entries (fun t => commitClaims_entries _ t) _ (hp _)
      · exact keeps_of_entries (fun t => by simp) _ (hp none)

@[simp] theorem State.resolveRetired_entries (id : PackId) (s : State) :
    (s.resolveRetired id).packs.entries = s.packs.entries := by
  unfold State.resolveRetired
  (repeat' split) <;> simp

theorem takeClose_keepsTable (sender : Nat) (id : PackId) : Keeps TableSound (State.takeClose sender id) := by
  intro s hs
  unfold State.takeClose
  split
  · exact hs
  · split
    · exact hs
    · split
      · exact hs
      · split
        · exact keeps_of_entries (State.resolveRetired_entries id) _ (retire_keepsTable id s hs)
        · exact resolvePlaced_keepsTable id _ s hs

theorem retireUngathered_keepsTable (p : PocketId) (r : AsideReason) :
    Keeps TableSound (State.retireUngathered p r) := by
  intro s hs
  have ht : TableSound ((s.accountAside p r).pocketStops p (.retiring (.setAside r))) := by simpa [TableSound] using hs
  unfold State.retireUngathered
  dsimp only
  split
  · exact ht
  · exact requestEnd_keepsTable _ _ _ ht

theorem withdrawAtOwner_keepsTable (p : PocketId) : Keeps TableSound (State.withdrawAtOwner p) := by
  intro s hs
  unfold State.withdrawAtOwner
  split
  · split
    case h_1 => exact retireUngathered_keepsTable p .withdrawn s hs
    case h_4 => simpa [TableSound] using hs
    all_goals exact hs
  · exact hs

theorem takeWithdraw_keepsTable (sender : Nat) (id : PackId) : Keeps TableSound (State.takeWithdraw sender id) := by
  intro s hs
  unfold State.takeWithdraw
  split
  · exact hs
  · split
    · exact hs
    · split
      · exact keeps_of_entries (State.resolveRetired_entries id) _ (retire_keepsTable id s hs)
      · split
        · split
          · exact withdrawAtOwner_keepsTable _ s hs
          · exact hs
        · exact hs

@[simp] theorem State.freeRetired_entries (p : PocketId) (s : State) :
    (s.freeRetired p).packs.entries = s.packs.entries := by
  unfold State.freeRetired
  split <;> simp

theorem takeEnd_keepsTable (sender : Nat) (id : PackId) : Keeps TableSound (State.takeEnd sender id) := by
  intro s hs
  have hr : TableSound (s.retire id) := retire_keepsTable id s hs
  unfold State.takeEnd
  split
  · exact hs
  · split
    · exact hs
    · split
      · split
        · exact hr
        · split
          · exact keeps_of_entries (State.freeRetired_entries _) _ hr
          · exact hr
      · exact hs

theorem takeEndEcho_keepsTable (e : TxEntry) : Keeps TableSound (State.takeEndEcho e) := by
  intro s hs
  unfold State.takeEndEcho
  split
  · split
    · exact takeEnd_keepsTable _ _ s hs
    · exact takeEnd_keepsTable _ _ s hs
    · exact hs
  · exact hs

theorem takeForget_keepsTable (sender : Nat) : Keeps TableSound (State.takeForget sender) := by
  intro s hs
  unfold State.takeForget
  split
  · exact forgetStation_keepsTable sender s hs
  · exact hs

theorem haltEchoed_keepsTable : Keeps TableSound State.haltEchoed := by
  intro s hs
  have hg : TableSound (PocketId.all.foldl (fun u p => u.giveBack p) s) := by
    rw [tableSound_iff, foldl_keeps (fun t => t.packs.entries) (fun u p => State.giveBack p u) (fun t p => by simp)]
    exact hs
  have hf := forgetSelf_keepsTable _ hg
  rw [tableSound_iff] at hf ⊢
  simpa [State.haltEchoed] using hf

theorem haltOnHeld_entries (s : State) : s.haltOnHeld.packs.entries = s.packs.entries := by
  unfold State.haltOnHeld
  split <;> simp

theorem joinEchoed_keepsTable : Keeps TableSound State.joinEchoed := by
  intro s hs
  have hf := forgetSelf_keepsTable s hs
  unfold State.joinEchoed
  split
  · exact keeps_of_entries (fun t => by simp [haltOnHeld_entries]) s.forgetSelf hf
      (f := fun t => ((t.enter .run).haltOnHeld).rescan)
  · exact hf

theorem firstSheetExpires_keepsTable (p : PocketId) : Keeps TableSound (State.firstSheetExpires p) := by
  intro s hs
  unfold State.firstSheetExpires
  split
  · split
    · exact retireUngathered_keepsTable p .noSheets s hs
    · exact hs
  · exact hs

theorem dropConfirms_keepsTable : Keeps TableSound State.dropConfirms := by
  intro s hs
  have hidle : Keeps TableSound State.headIdle := keeps_of_entries fun t => by simp
  unfold State.dropConfirms
  split
  · split
    · split
      · refine hidle _ (requestEnd_keepsTable _ _ _ ?_)
        simpa [TableSound, State.recordDrop] using hs
      · exact hidle s hs
    · exact hs
  · exact hs

theorem asidePack_keepsTable (op : Operation) (r : AsideReason) : Keeps TableSound (State.asidePack op r) := by
  intro s hs
  unfold State.asidePack
  dsimp only
  split
  · exact hs
  · exact requestEnd_keepsTable _ _ _ hs

theorem trayDropConfirms_keepsTable (occupied : Bool) : Keeps TableSound (State.trayDropConfirms occupied) := by
  intro s hs
  have hidle : Keeps TableSound State.headIdle := keeps_of_entries fun t => by simp
  unfold State.trayDropConfirms
  split
  · next op _ =>
    have htake : TableSound (s.readOccupied op.pocket occupied).trayTakes :=
      keeps_of_entries State.trayTakes_entries _ hs
    split
    · dsimp only
      split
      · exact keeps_of_entries (f := State.headFault .ejectFault) (fun t => by simp) _ hs
      · split
        · exact hidle _ (asidePack_keepsTable op _ _ htake)
        · exact keeps_of_entries (f := fun t => (t.onPocket op.pocket fun _ => Pocket.empty).rescan.headIdle)
            (fun t => by simp) _ htake
        · exact hidle _ htake
    · exact hs
  · exact hs

/-! ### Frames as another member spells them, and resets -/

theorem resetTo_tableSound (cause : ResetCause) (s : State) : TableSound (s.resetTo cause) := EntriesSound.nil

theorem cutStore_entries (cut : Bool) (s : State) : (s.cutStore cut).packs.entries = s.packs.entries := by
  unfold State.cutStore
  split <;> simp

theorem reboot_tableSound (straps : Straps) (cut : Bool) (s : State) : TableSound (s.reboot straps cut) :=
  keeps_of_entries (f := State.cutStore cut) (cutStore_entries cut) _ (resetTo_tableSound .reboot s)

theorem pinActive_keepsTable (cut : Bool) : Keeps TableSound (State.pinActive cut) := by
  intro s hs
  unfold State.pinActive
  split
  · exact hs
  · split
    · exact keeps_of_entries (f := State.cutStore cut) (cutStore_entries cut) _ (resetTo_tableSound .line s)
    · exact hs

theorem pinReleased_keepsTable (straps : Straps) : Keeps TableSound (State.pinReleased straps) :=
  keeps_of_entries fun s => by
    unfold State.pinReleased
    dsimp only
    (repeat' split) <;> simp [State.strapsTo]

theorem orderOf_keepsTable (o : OrderKind) : Keeps TableSound (State.orderOf o) := by
  intro s hs
  cases o with
  | standby => exact keeps_of_entries (State.takeOrder_entries _ State.obeyStandby_entries) s hs
  | resume => exact keeps_of_entries (State.takeOrder_entries _ (State.obeyResume_entries _)) s hs
  | selfTest => exact keeps_of_entries (State.takeOrder_entries _ State.obeySelfTest_entries) s hs
  | clearCounters => exact keeps_of_entries (State.takeOrder_entries _ fun _ => rfl) s hs
  | reboot => exact reboot_tableSound _ _ s

theorem handOn_keepsTable (f : Frame) : Keeps TableSound (State.handOn f) := by
  intro s hs
  have hpack : ∀ (w : WirePackId) {take : PackId → State → State}, (∀ id, Keeps TableSound (take id)) →
      TableSound (s.withPack w take) := fun w _ ht => withPack_keeps (count_keepsTable _) ht w s hs
  unfold State.handOn
  split
  · exact hpack _ fun _ => takeOffer_keepsTable _ _
  · exact hpack _ fun _ => takeBidFrom_keepsTable _ _ _
  · exact hpack _ fun _ => takeClose_keepsTable _ _
  · exact hpack _ fun _ => takeWithdraw_keepsTable _ _
  · exact hpack _ fun _ => takeEnd_keepsTable _ _
  · exact hpack _ fun _ => takeEnd_keepsTable _ _
  · exact takeForget_keepsTable _ s hs
  · exact takeForget_keepsTable _ s hs
  · split
    · exact hs
    · exact forThisStation_keeps (keeps_of_entries (State.asked_entries _)) _ s hs
  · split
    · exact hs
    · exact forThisStation_keeps (orderOf_keepsTable _) _ s hs
  · exact hs

/-! ### Every command -/

theorem fromMember_keepsTable {handOn : State → State} (h : Keeps TableSound handOn) (f : Frame) :
    Keeps TableSound (State.fromMember f handOn) :=
  fromMember_keeps received_keepsTable (count_keepsTable _) h f

theorem packFrame_keepsTable {take : PackId → State → State} (h : ∀ id, Keeps TableSound (take id)) (f : Frame)
    (w : WirePackId) : Keeps TableSound (State.fromMember f (State.withPack w take)) :=
  fromMember_keepsTable (withPack_keeps (count_keepsTable _) h w) f

theorem echo_keepsTable {handOn : TxEntry → State → State} (h : ∀ e, Keeps TableSound (handOn e))
    (isKind : TxFrame → Bool) : Keeps TableSound (State.echo isKind handOn) :=
  echo_keeps received_keepsTable (count_keepsTable _) echoed_keepsTable h isKind

theorem askDelivered_keepsTable (h : ConsoleHeader) (a : Ask) : Keeps TableSound (State.askDelivered h a) :=
  fromMember_keepsTable (forThisStation_keeps (keeps_of_entries (State.asked_entries a)) _) _

theorem orderDelivered_keepsTable (h : ConsoleHeader) (o : OrderKind) {take : State → State}
    (ht : Keeps TableSound take) : Keeps TableSound (State.orderDelivered h o take) :=
  fromMember_keepsTable (forThisStation_keeps ht _) _

theorem exec_keepsTable (c : Instr) {s t : State} (hs : TableSound s) (h : exec c s = .next t) : TableSound t := by
  cases c with
  | powerReset straps =>
    obtain rfl := Host.Outcome.next.inj h
    exact resetTo_tableSound .power s
  | resetPinActive cut =>
    obtain rfl := Host.Outcome.next.inj h
    exact pinActive_keepsTable cut s hs
  | resetPinReleased straps =>
    obtain rfl := Host.Outcome.next.inj h
    exact pinReleased_keepsTable straps s hs
  | imageReadComplete bytes occupied cartridge =>
    exact event_keeps (keeps_of_entries (State.imageRead_entries bytes occupied cartridge)) h hs
  | imageReadTimeout => exact event_keeps (keeps_of_entries (State.imageRead_entries [] noLevels false)) h hs
  | contention m => exact event_keeps (keeps_of_entries (State.contends_entries m)) h hs
  | spoiledFrame f => exact event_keeps (keeps_of_entries (State.frameSpoiled_entries f)) h hs
  | malformedFrame f => exact event_keeps (fromMember_keepsTable (handOn_keepsTable f) f) h hs
  | offer sender b => exact event_keeps (packFrame_keepsTable (fun _ => takeOffer_keepsTable _ b) _ _) h hs
  | bid a =>
    cases a with
    | echo => exact event_keeps (echo_keepsTable takeBidEcho_keepsTable _) h hs
    | other sender b => exact event_keeps (packFrame_keepsTable (takeBidFrom_keepsTable _ b) _ _) h hs
  | close sender w => exact event_keeps (packFrame_keepsTable (takeClose_keepsTable _) _ _) h hs
  | withdraw sender w => exact event_keeps (packFrame_keepsTable (takeWithdraw_keepsTable _) _ _) h hs
  | delivered a =>
    cases a with
    | echo => exact event_keeps (echo_keepsTable takeEndEcho_keepsTable _) h hs
    | other sender d => exact event_keeps (packFrame_keepsTable (takeEnd_keepsTable _) _ _) h hs
  | aside a =>
    cases a with
    | echo => exact event_keeps (echo_keepsTable takeEndEcho_keepsTable _) h hs
    | other sender b => exact event_keeps (packFrame_keepsTable (takeEnd_keepsTable _) _ _) h hs
  | halt sender cause => exact event_keeps (fromMember_keepsTable (takeForget_keepsTable _) _) h hs
  | haltEcho => exact event_keeps (echo_keepsTable (fun _ => haltEchoed_keepsTable) _) h hs
  | join sender b => exact event_keeps (fromMember_keepsTable (takeForget_keepsTable _) _) h hs
  | joinEcho => exact event_keeps (echo_keepsTable (fun _ => joinEchoed_keepsTable) _) h hs
  | hold sender time => exact event_keeps (fromMember_keepsTable Keeps.id _) h hs
  | holdEcho => exact event_keeps (echo_keepsTable (handOn := fun _ => State.holdEchoed) (fun _ _ hu => hu) _) h hs
  | renewalTimerExpiry => exact event_keeps (keeps_of_entries State.renewHold_entries) h hs
  | askSummary hd => exact event_keeps (askDelivered_keepsTable hd _) h hs
  | askPack hd id => exact event_keeps (askDelivered_keepsTable hd _) h hs
  | askPocket hd n => exact event_keeps (askDelivered_keepsTable hd _) h hs
  | askBin hd n => exact event_keeps (askDelivered_keepsTable hd _) h hs
  | askHead hd => exact event_keeps (askDelivered_keepsTable hd _) h hs
  | askCounters hd => exact event_keeps (askDelivered_keepsTable hd _) h hs
  | reportEcho => exact event_keeps (echo_keepsTable (fun e => keeps_of_entries (State.reportEchoed_entries e)) _) h hs
  | answerEcho => exact event_keeps (echo_keepsTable (handOn := fun _ => State.answerEchoed) (fun _ _ hu => hu) _) h hs
  | orderStandby hd => exact event_keeps (orderDelivered_keepsTable hd _ (orderOf_keepsTable .standby)) h hs
  | orderResume hd r =>
    exact event_keeps
      (orderDelivered_keepsTable hd _ (keeps_of_entries (State.takeOrder_entries _ (State.obeyResume_entries r)))) h hs
  | orderSelfTest hd => exact event_keeps (orderDelivered_keepsTable hd _ (orderOf_keepsTable .selfTest)) h hs
  | orderClearCounters hd => exact event_keeps (orderDelivered_keepsTable hd _ (orderOf_keepsTable .clearCounters)) h hs
  | orderReboot hd straps cut =>
    exact event_keeps (orderDelivered_keepsTable hd _ fun u _ => reboot_tableSound straps cut u) h hs
  | serviceButton r => exact event_keeps (keeps_of_entries (State.buttonPressed_entries r)) h hs
  | sheetAtGate mark => exact event_keeps (keeps_of_entries (State.sheetArrives_entries mark)) h hs
  | gapTimerExpiry p => exact event_keeps (keeps_of_entries (State.gapExpires_entries p)) h hs
  | firstSheetTimerExpiry p => exact event_keeps (firstSheetExpires_keepsTable p) h hs
  | strokeComplete v => exact event_keeps (keeps_of_entries (State.strokeCompletes_entries v)) h hs
  | strokeLimitExpiry => exact event_keeps (keeps_of_entries (State.limitExpires_entries _ _)) h hs
  | noStaple => exact event_keeps (keeps_of_entries State.noStapleFound_entries) h hs
  | headJam => exact event_keeps (keeps_of_entries State.headJams_entries) h hs
  | ejectComplete occupied => exact event_keeps (keeps_of_entries (State.ejectCompletes_entries occupied)) h hs
  | ejectLimitExpiry => exact event_keeps (keeps_of_entries (State.limitExpires_entries _ _)) h hs
  | carriageJam => exact event_keeps (keeps_of_entries (State.limitExpires_entries _ _)) h hs
  | dropConfirmed => exact event_keeps dropConfirms_keepsTable h hs
  | dropLimitExpiry => exact event_keeps (keeps_of_entries (State.limitExpires_entries _ _)) h hs
  | trayDropConfirmed occupied => exact event_keeps (trayDropConfirms_keepsTable occupied) h hs
  | trayDropLimitExpiry => exact event_keeps (keeps_of_entries (State.limitExpires_entries _ _)) h hs
  | referenceReading v => exact event_keeps (keeps_of_entries (State.referenceRead_entries v)) h hs
  | readingLimitExpiry => exact event_keeps (keeps_of_entries State.readingExpires_entries) h hs
  | cartridgeInserted =>
    exact event_keeps (f := fun u => State.senseRaised _ _ u.cartridgeShows)
      (fun u hu => keeps_of_entries (State.senseRaised_entries _ State.refill_entries) u.cartridgeShows hu) h hs
  | binEmptied n =>
    exact event_keeps (keeps_of_entries (State.senseRaised_entries _ fun _ => State.emptyBin_entries n)) h hs
  | trayEmptied =>
    exact event_keeps (keeps_of_entries (State.senseRaised_entries _ fun _ => State.emptyTray_entries)) h hs
  | pocketJam p =>
    obtain rfl := Host.Outcome.next.inj h
    exact keeps_of_entries (State.pocketJams_entries p) s hs
  | lossOfPower cut =>
    obtain rfl := Host.Outcome.next.inj h
    exact keeps_of_entries (f := State.cutStore (cut && s.part.supplied)) (cutStore_entries _) s hs
  | frameForAnotherMember f => exact event_keeps (fromMember_keepsTable (handOn_keepsTable f) f) h hs
  | pocketJamCleared p =>
    obtain rfl := Host.Outcome.next.inj h
    exact hs

end Sys2Proof.Machine

namespace Sys2Proof.Machine

/-- Settles O56: the half second of an empty queue leaves the entries, and each command keeps a sound table. -/
theorem packTableStaysSound : Obligations.PackTableStaysSound := by
  intro s t hs h
  unfold step at h
  split at h
  · obtain rfl := Host.Outcome.next.inj h
    exact keeps_of_entries State.tick_entries s hs
  · next c rest _ => exact exec_keepsTable c (s := s.withPending rest) hs h

end Sys2Proof.Machine

namespace Sys2Proof.Machine

open Sys2Proof.Config

/-! ### The state right after reset (R183) -/

theorem Counters.get_zero (c : CounterName) : Counters.zero.get c = 0 := by
  cases c with
  | setAside r => cases r <;> rfl
  | _ => rfl

/-- Settles O5: each value is read off State.reset. -/
theorem resetLeavesResetValues : Obligations.ResetLeavesResetValues := by
  refine ⟨rfl, rfl, Counters.get_zero, rfl, rfl, rfl, rfl, rfl, rfl, rfl, rfl, rfl, rfl, rfl, rfl, rfl, fun p => ?_, rfl,
    rfl, rfl, rfl, rfl, rfl, rfl, ?_, rfl, rfl⟩
  · cases p <;> rfl
  · simp [State.reset, HeadReading.clear]

theorem reset_transmitSound : TransmitSound State.reset := by
  have hq : State.reset.link.queue = [] := rfl
  have hs : State.reset.ctl.station = .loading := rfl
  simp [TransmitSound, hq, hs]

theorem reset_configuredOrIdle : ConfiguredOrIdle State.reset := by simp [ConfiguredOrIdle, State.reset]

theorem reset_queueHoldsWaiting : QueueHoldsWaiting State.reset := by
  refine ⟨by simp [State.reset], by simp [State.reset], fun p j h => ?_⟩
  cases p <;> simp [State.reset, Pockets.get, Pocket.empty] at h

theorem reset_workAgrees : WorkAgrees State.reset :=
  ⟨reset_transmitSound, reset_configuredOrIdle, by simp [StoppedStation, State.reset], by simp [State.reset],
    reset_queueHoldsWaiting, by simp [QueueInOrder, State.reset], by simp [HeadOnItsPocket, State.reset],
    by simp [ClaimsFreePockets, State.reset], by simp [IdleHeadServed, State.reset]⟩

/-- Settles O55: with empty tables and queues each condition holds at once. -/
theorem invariantsHoldAtReset : Obligations.InvariantsHoldAtReset :=
  ⟨EntriesSound.nil, reset_transmitSound, by simp [RostersMatch, State.reset, RetainedStore.lost],
    ⟨reset_transmitSound, reset_configuredOrIdle, fun c hc => absurd (hc : none = some c) nofun⟩, reset_workAgrees⟩

/-! ### The winner of a bid list (R10) -/

/-- Record `w` goes ahead of record `r`: higher fit, then lower load, then lower address (R10). -/
def BidRecord.Ahead (w r : BidRecord) : Prop :=
  r.fit < w.fit ∨ r.fit = w.fit ∧ (w.load < r.load ∨ w.load = r.load ∧ w.station < r.station)

theorem BidRecord.beats_iff {a b : BidRecord} : a.beats b = true ↔ a.Ahead b := by
  simp only [BidRecord.beats, BidRecord.Ahead, Bool.or_eq_true, Bool.and_eq_true, decide_eq_true_iff]
  omega

theorem BidRecord.Ahead.trans {a b c : BidRecord} (h : a.Ahead b) (h' : b.Ahead c) : a.Ahead c := by
  unfold BidRecord.Ahead at *
  omega

theorem BidRecord.Ahead.asymm {a b : BidRecord} (h : a.Ahead b) : ¬ b.Ahead a := by
  unfold BidRecord.Ahead at *
  omega

/-- Of two records of different stations one goes ahead. -/
theorem BidRecord.ahead_or {a b : BidRecord} (h : a.station ≠ b.station) : a.Ahead b ∨ b.Ahead a := by
  unfold BidRecord.Ahead
  omega

theorem winner_eq_none {bids : List BidRecord} : winner bids = none ↔ bids = [] := by
  cases bids with
  | nil => simp [winner]
  | cons r rest =>
    unfold winner
    split
    · simp
    · split <;> simp

/-- The winner is in the list and goes ahead of every other record, where the stations are distinct. -/
theorem winner_best {bids : List BidRecord} {w : BidRecord} (hn : (bids.map BidRecord.station).Nodup)
    (h : winner bids = some w) : w ∈ bids ∧ ∀ r ∈ bids, r ≠ w → w.Ahead r := by
  induction bids generalizing w with
  | nil => exact absurd h nofun
  | cons r rest ih =>
    obtain ⟨hr, hrest⟩ := List.nodup_cons.1 (List.map_cons ▸ hn)
    unfold winner at h
    split at h
    · next hnone =>
      obtain rfl := Option.some.inj h
      simp [winner_eq_none.1 hnone]
    · next v hv =>
      obtain ⟨hmem, hbest⟩ := ih hrest hv
      split at h
      · next hb =>
        obtain rfl := Option.some.inj h
        refine ⟨List.mem_cons_of_mem _ hmem, fun x hx hne => ?_⟩
        rcases List.mem_cons.1 hx with rfl | hx
        · exact BidRecord.beats_iff.1 hb
        · exact hbest x hx hne
      · next hb =>
        obtain rfl := Option.some.inj h
        have hst : r.station ≠ v.station := fun e => hr (e ▸ List.mem_map_of_mem hmem)
        have hrv : r.Ahead v := (BidRecord.ahead_or hst).resolve_right fun e => hb (BidRecord.beats_iff.2 e)
        refine ⟨List.mem_cons_self, fun x hx hne => ?_⟩
        have hx := (List.mem_cons.1 hx).resolve_left hne
        by_cases hxv : x = v
        · rwa [hxv]
        · exact hrv.trans (hbest x hx hxv)

/-- Settles O22: the winner goes ahead of every other record, and no two records both do. -/
theorem winnerIsTheBestRecord : Obligations.WinnerIsTheBestRecord := by
  intro bids w hn
  refine ⟨winner_best hn, fun ⟨hw, hbest⟩ => ?_⟩
  cases hv : winner bids with
  | none =>
    rw [winner_eq_none.1 hv] at hw
    exact absurd hw List.not_mem_nil
  | some v =>
    obtain ⟨hmem, hvbest⟩ := winner_best hn hv
    by_contra hne
    have hne : v ≠ w := fun e => hne (by rw [e])
    exact (hvbest w hw hne.symm).asymm (hbest v hmem hne)

/-! ### HALT, JOIN and end messages of another station (R14 to R16) -/

theorem State.forgetStation_entries (station : Nat) (s : State) :
    (s.forgetStation station).packs.entries = entriesWithout station s.packs.entries := rfl

/-- Settles O29: both frames come to the table change of R15 and R16 on the state as it was received. -/
theorem haltOrJoinOfAnotherStationForgetsIt : Obligations.HaltOrJoinOfAnotherStationForgetsIt := by
  intro sender cause b c s hf hc
  have hforget : s.received.takeForget sender.toNat =
      if s.ctl.station.applies then
        { s.received with packs := { s.packs with entries := entriesWithout sender.toNat s.packs.entries } }
      else s.received := rfl
  rcases hc with rfl | rfl
  · rw [exec_halt cause hf, hforget]
  · rw [exec_join b hf, hforget]

theorem State.takeEnd_unowned {sender : Nat} {id : PackId} {s : State}
    (h : ¬ ∃ e x, s.entry id = some e ∧ e.state = .placed sender x) :
    s.takeEnd sender id = s.count .outOfSequence := by
  unfold State.takeEnd
  split
  · rfl
  · next e he =>
    split
    · rfl
    · next o a ho =>
      split
      · next hs => exact absurd ⟨e, a, he, hs ▸ ho⟩ h
      · rfl

theorem State.takeEnd_ofOther {sender : Nat} {id : PackId} {e : Entry} {x : Option Annex} {s : State}
    (he : s.entry id = some e) (hx : e.state = .placed sender x) (hs : sender ≠ s.address) :
    s.takeEnd sender id = s.retire id := by
  simp only [State.takeEnd, he, hx, if_true, hs, if_false]
  cases x <;> rfl

/-- Settles O27: by the entry of the frame's pack. -/
theorem endMessageOfTheOwnerRetiresThePack : Obligations.EndMessageOfTheOwnerRetiresThePack := by
  intro sender d a c w s hf hc
  have hexec : exec c s = .next (s.received.withPack w (State.takeEnd sender.toNat)) := by
    rcases hc with ⟨rfl, rfl⟩ | ⟨rfl, rfl⟩
    · exact exec_delivered_other d hf
    · exact exec_aside_other a hf
  rw [hexec]
  refine ⟨fun ha => by rw [State.withPack_discarded (s := s.received) _ ha], fun ha => ?_⟩
  cases hw : readPackId w with
  | none => exact congrArg _ (State.withPack_malformed (s := s.received) _ ha hw)
  | some id =>
    rw [State.withPack_taken (s := s.received) _ ha hw]
    refine ⟨fun ⟨e, x, he, hx⟩ => ?_, fun h => congrArg _ (State.takeEnd_unowned h)⟩
    exact congrArg _ (State.takeEnd_ofOther (s := s.received) he hx hf.2.2.2)

/-! ### BID (R9, R33, R40) -/

section TakeBid

variable {sender fit load : Nat} {id : PackId} {mine : Bool} {s : State}

theorem State.takeBid_unlisted (h : s.entry id = none) :
    s.takeBid sender mine fit load id =
      if mine then (s.count .outOfSequence).releaseBid id else s.count .outOfSequence := by
  simp only [State.takeBid, h]

variable {e : Entry} {bids : List BidRecord} (h : s.entry id = some e)
include h

theorem State.takeBid_late {o : Nat} {a : Option Annex} (ho : e.state = .placed o a) :
    s.takeBid sender mine fit load id = if mine then (s.count .lateBids).releaseBid id else s.count .lateBids := by
  simp only [State.takeBid, h, ho]

theorem State.takeBid_repeated (hb : e.state = .bidding bids) (hr : ∃ r ∈ bids, r.station = sender) :
    s.takeBid sender mine fit load id = s.count .outOfSequence := by
  have hany : (bids.any fun r => decide (r.station = sender)) = true := by simpa using hr
  simp only [State.takeBid, h, hb, hany, if_true]

theorem State.takeBid_recorded (hb : e.state = .bidding bids) (hr : ¬ ∃ r ∈ bids, r.station = sender) :
    s.takeBid sender mine fit load id =
      if mine then (s.recordBid id { station := sender, fit := fit, load := load }).bidSent id
      else s.recordBid id { station := sender, fit := fit, load := load } := by
  have hany : ¬ (bids.any fun r => decide (r.station = sender)) = true := by simpa using hr
  simp only [State.takeBid, h, hb, hany]
  rfl

/-- The record stands at the end of the list of the pack's entry. -/
theorem State.recordBid_entry (r : BidRecord) (hb : e.state = .bidding bids) :
    (s.recordBid id r).entry id = some { e with state := .bidding (bids ++ [r]) } := by
  unfold State.recordBid
  rw [State.entry_onEntry _ _ _ _ fun x => by split <;> rfl, if_pos rfl, h]
  simp only [Option.map_some, hb]

end TakeBid

theorem bidInRange_eq_false {b : BidBody} :
    bidInRange b = false ↔ b.fit.toNat < 1 ∨ 15 < b.fit.toNat ∨ 3 < b.load.toNat := by
  simp only [bidInRange, decide_eq_false_iff_not]
  omega

/-- Settles O20: by the ranges of the body, the entry of its pack and the records in its list. -/
theorem bidOfAnotherStationIsRecorded : Obligations.BidOfAnotherStationIsRecorded := by
  intro sender b s hf
  rw [exec_bid_other b hf]
  refine ⟨fun ha => by rw [State.withPack_discarded (s := s.received) _ ha], fun ha => ⟨_, rfl, ?_⟩⟩
  have counted : ∀ c, MechanismUnchanged s (s.received.count c) ∧ (s.received.count c).link = s.received.link ∧
      (s.received.count c).packs.bids = s.packs.bids := fun c => ⟨⟨rfl, rfl, rfl, rfl, rfl, rfl⟩, rfl, rfl⟩
  cases hw : readPackId b.id with
  | none =>
    rw [State.withPack_malformed (s := s.received) _ ha hw]
    exact ⟨(counted _).1, (counted _).2.1, (counted _).2.2, rfl⟩
  | some id =>
    rw [State.withPack_taken (s := s.received) _ ha hw]
    unfold State.takeBidFrom
    cases hr : bidInRange b with
    | false =>
      simp only [bidInRange_eq_false.1 hr, if_true]
      exact ⟨(counted _).1, (counted _).2.1, (counted _).2.2, rfl⟩
    | true =>
      have hr' : ¬ (b.fit.toNat < 1 ∨ 15 < b.fit.toNat ∨ 3 < b.load.toNat) :=
        mt bidInRange_eq_false.2 (by rw [hr]; decide)
      simp only [if_true, hr', if_false]
      cases he : s.entry id with
      | none =>
        rw [State.takeBid_unlisted (s := s.received) he]
        exact ⟨(counted _).1, (counted _).2.1, (counted _).2.2, rfl⟩
      | some e =>
        cases hst : e.state with
        | placed o a =>
          rw [State.takeBid_late (s := s.received) he hst]
          simp only [hst]
          exact ⟨(counted _).1, (counted _).2.1, (counted _).2.2, rfl⟩
        | bidding bids =>
          simp only [hst]
          by_cases hin : ∃ r ∈ bids, r.station = sender.toNat
          · rw [State.takeBid_repeated (s := s.received) he hst hin, if_pos hin]
            exact ⟨(counted _).1, (counted _).2.1, (counted _).2.2, rfl⟩
          · rw [State.takeBid_recorded (s := s.received) he hst hin, if_neg hin]
            exact ⟨⟨rfl, rfl, rfl, rfl, rfl, rfl⟩, rfl, rfl, State.recordBid_entry (s := s.received) he _ hst, rfl, rfl⟩

/-- A release after a counted frame: the drain is judged with the counter raised. -/
theorem State.releaseBid_counted (id : PackId) (c : CounterName) (s : State) :
    MechanismUnchanged s ((s.count c).releaseBid id) ∧ ((s.count c).releaseBid id).link = s.link ∧
      ((s.count c).releaseBid id).packs.entries = s.packs.entries ∧
      ((s.count c).releaseBid id).packs.bids = (s.packs.bids.filter fun b => decide (b.id ≠ id)) ∧
      DrainJudged True { s with ctl := { s.ctl with counters := s.ctl.counters.bump c } }
        ((s.count c).releaseBid id) :=
  ⟨by simp [MechanismUnchanged], by simp, by simp, State.releaseBid_bids id (s.count c),
    State.judgeDrain_judged ((s.count c).dropBid id)⟩

/-- Settles O21: by the entry of the pack and the records in its list. -/
theorem bidEchoIsRecordedOrReleasesTheClaims : Obligations.BidEchoIsRecordedOrReleasesTheClaims := by
  rintro e id fit load s late unknown rfl rfl he hf
  have htake : ∀ ha : s.ctl.station.applies = true,
      State.takeBidEcho e (s.echoed e) = (s.echoed e).takeBid s.address true fit load id := fun ha => by
    simp only [State.takeBidEcho, hf, State.echoed_frame, ha, if_true]
    rfl
  rw [exec_bid_echo he hf]
  refine ⟨rfl, fun ha => by simp [State.takeBidEcho, hf, ha], fun ha => ⟨_, rfl, ?_⟩⟩
  rw [htake ha]
  cases hn : s.entry id with
  | none =>
    rw [State.takeBid_unlisted (s := s.echoed e) hn]
    exact State.releaseBid_counted id .outOfSequence (s.echoed e)
  | some n =>
    cases hst : n.state with
    | placed o a =>
      simp only [hst]
      rw [State.takeBid_late (s := s.echoed e) hn hst]
      exact State.releaseBid_counted id .lateBids (s.echoed e)
    | bidding bids =>
      simp only [hst]
      by_cases hin : ∃ r ∈ bids, r.station = s.address
      · rw [State.takeBid_repeated (s := s.echoed e) hn hst hin, if_pos hin]
        exact ⟨⟨rfl, rfl, rfl, rfl, rfl, rfl⟩, rfl, rfl, rfl⟩
      · rw [State.takeBid_recorded (s := s.echoed e) hn hst hin, if_neg hin]
        exact ⟨⟨rfl, rfl, rfl, rfl, rfl, rfl⟩, rfl, rfl, State.recordBid_entry (s := s.echoed e) hn _ hst, rfl, rfl⟩

/-! ### OFFER (R1, R2, R8) -/

theorem readFinish_eq_some {b : Byte} {f : FinishKind} :
    readFinish b = some f ↔ b.toNat = 0 ∧ f = .loose ∨ b.toNat = 1 ∧ f = .corner ∨ b.toNat = 2 ∧ f = .edge := by
  unfold readFinish
  split
  · next h => simp [h, eq_comm]
  · next h => simp [h, eq_comm]
  · next h => simp [h, eq_comm]
  · next h0 h1 h2 => exact ⟨nofun, by tauto⟩

theorem readLane_eq_some {b : Byte} {l : Lane} :
    readLane b = some l ↔ b.toNat = 0 ∧ l = .normal ∨ b.toNat = 1 ∧ l = .urgent := by
  unfold readLane
  split
  · next h => simp [h, eq_comm]
  · next h => simp [h, eq_comm]
  · next h0 h1 => exact ⟨nofun, by tauto⟩

/-- An OFFER read is its fields, each in its range (R1, R2). -/
theorem readOffer_eq_some {b : OfferBody} {o : Offer} :
    readOffer b = some o ↔
      readPackId b.id = some o.id ∧ readFinish b.finish = some o.finish ∧ readLane b.lane = some o.lane ∧
        (o.id.serial ≤ 4095 ∧ 1 ≤ b.classCode.toNat ∧ b.classCode.toNat ≤ 250 ∧ 1 ≤ b.roll.toNat ∧ b.roll.toNat ≤ 60 ∧
          b.count.toNat ≤ 120) ∧
        o.classCode = b.classCode.toNat ∧ o.roll = b.roll.toNat ∧ o.count = b.count.toNat := by
  unfold readOffer
  split
  · next id finish lane hid hfin hlane =>
    rw [hid, hfin, hlane, Option.ite_none_right_eq_some]
    constructor
    · rintro ⟨hr, h⟩
      obtain rfl := Option.some.inj h
      exact ⟨rfl, rfl, rfl, hr, rfl, rfl, rfl⟩
    · rintro ⟨hi, hf, hl, hr, hc, hro, hco⟩
      cases o
      simp_all
  · next hno =>
    refine ⟨nofun, ?_⟩
    rintro ⟨hid, hfin, hlane, -⟩
    exact (hno _ _ _ hid hfin hlane).elim

theorem readPackId_of_readOffer {b : OfferBody} {o : Offer} (h : readOffer b = some o) : readPackId b.id = some o.id :=
  (readOffer_eq_some.1 h).1

theorem State.entry_eq_none {id : PackId} {s : State} : s.entry id = none ↔ ¬ ∃ e ∈ s.packs.entries, e.offer.id = id := by
  simp [State.entry]

/-- Check 1 of R24: a bid is made in RUN alone. -/
theorem State.consider_bid_run {s : State} {o : Offer} {b : PendingBid} {load : Nat} (h : s.consider o = .bid b load) :
    s.ctl.station = .run := by
  unfold State.consider at h
  split at h
  · exact absurd h nofun
  · next hs => exact not_not.1 hs

theorem State.placeBid_placed (b : PendingBid) (load : Nat) {s : State} (h : s.ctl.station ≠ .safe) :
    BidPlaced b load s (s.placeBid b load) := by
  refine ⟨?_, State.append_queued (s := s.onPacks fun t => { t with bids := t.bids ++ [b] }) _ h⟩
  simp [State.placeBid, State.append, h, State.onPacks, State.onLink]

/-- A table with the new entry of an offer at its end (R8). -/
def State.withOffer (o : Offer) (s : State) : State :=
  s.onPacks fun t => { t with entries := t.entries ++ [{ offer := o, state := .bidding [] }] }

theorem State.openTo_new (o : Offer) (s : State) :
    s.openTo { offer := o, state := .bidding [] } = (s.pendingBid o.id).isNone := by
  simp [State.openTo]

theorem State.enterOffer_bid {o : Offer} {b : PendingBid} {load : Nat} {s : State} (hp : s.pendingBid o.id = none)
    (hc : (s.withOffer o).consider o = .bid b load) : s.enterOffer o = (s.withOffer o).placeBid b load := by
  have hopen := State.openTo_new o (s.withOffer o)
  have hp' : (s.withOffer o).pendingBid o.id = none := hp
  rw [hp', Option.isNone_none] at hopen
  change (s.withOffer o).considerNew { offer := o, state := .bidding [] } = _
  simp only [State.considerNew, hopen, if_true, hc]

/-- Without a bid the entry is all that an OFFER leaves. -/
theorem State.enterOffer_noBid {o : Offer} {s : State}
    (h : ∀ b load, s.pendingBid o.id = none → (s.withOffer o).consider o ≠ .bid b load) :
    s.enterOffer o = s.withOffer o := by
  change (s.withOffer o).considerNew { offer := o, state := .bidding [] } = _
  unfold State.considerNew
  rw [State.openTo_new]
  split
  · next hopen =>
    have hp : s.pendingBid o.id = none := Option.isNone_iff_eq_none.1 hopen
    split
    · rfl
    · rfl
    · next b load hc => exact absurd hc (h b load hp)
  · rfl

/-- Settles O17: the checks of R8 in their order, then the consideration of the new entry. -/
theorem offerMakesAnEntryOrIsCounted : Obligations.OfferMakesAnEntryOrIsCounted := by
  refine ⟨fun w id => readPackId_eq_some, fun b o => ?_, fun st => by cases st <;> simp [StationState.applies],
    fun sender b s hf => ?_⟩
  · rw [readOffer_eq_some, readPackId_eq_some, readFinish_eq_some, readLane_eq_some]
    constructor
    · rintro ⟨⟨hlo, hhi, hs, hid⟩, hfin, hlane, ⟨hr, hc, hc', hro, hro', hco⟩, h1, h2, h3⟩
      have hid' := congrArg PackId.serial hid
      dsimp only at hid'
      refine ⟨hlo, hhi, by omega, by omega, hc, hc', hro, hro', hco, hfin, hlane, ?_⟩
      cases o
      simp_all
    · rintro ⟨hlo, hhi, hs, hs', hc, hc', hro, hro', hco, hfin, hlane, ho⟩
      rw [ho]
      exact ⟨⟨hlo, hhi, by omega, rfl⟩, hfin, hlane, ⟨hs', hc, hc', hro, hro', hco⟩, rfl, rfl, rfl⟩
  · rw [exec_offer b hf]
    refine ⟨fun ha => by rw [State.withPack_discarded (s := s.received) _ ha], fun ha => ⟨_, rfl, ?_⟩⟩
    cases ho : readOffer b with
    | none =>
      cases hw : readPackId b.id with
      | none => exact State.withPack_malformed (s := s.received) _ ha hw
      | some id =>
        rw [State.withPack_taken (s := s.received) _ ha hw]
        simp only [State.takeOffer, ho]
    | some o =>
      rw [State.withPack_taken (s := s.received) _ ha (readPackId_of_readOffer ho)]
      simp only [State.takeOffer, ho]
      by_cases hfeed : o.id.feed ≠ sender.toNat
      · simp only [if_pos hfeed]
      · simp only [if_neg hfeed]
        cases he : s.received.entry o.id with
        | some e => simp only [if_pos (show ∃ e ∈ s.packs.entries, e.offer.id = o.id from
            ⟨e, State.entry_mem he, State.entry_id he⟩)]
        | none =>
          simp only [if_neg (State.entry_eq_none.1 he : ¬ ∃ e ∈ s.packs.entries, e.offer.id = o.id)]
          by_cases hroom : 64 ≤ s.packs.entries.length
          · simp only [if_pos hroom, State.received_frame, tableCapacity, if_neg (Nat.not_lt.2 hroom)]
          · simp only [if_neg hroom, State.received_frame, tableCapacity, if_pos (Nat.lt_of_not_le hroom)]
            refine ⟨s.received.withOffer o, rfl, ?_⟩
            split
            · next bid load hp hc =>
              rw [State.enterOffer_bid (s := s.received) hp hc]
              exact State.placeBid_placed bid load (by rw [State.consider_bid_run hc]; nofun)
            · next hno => exact State.enterOffer_noBid fun bid load hp hc => hno bid load hp hc

end Sys2Proof.Machine

namespace Sys2Proof.Machine

open Sys2Proof.Config

/-! ### Where a drain is judged (R190) -/

theorem DrainJudged.imp {P Q : Prop} {s t : State} (h : DrainJudged P s t) (hq : Q → P) : DrainJudged Q s t :=
  ⟨h.1, h.2.1, fun q => h.2.2 (hq q)⟩

theorem DrainJudged.of_ctl {P : Prop} {s t : State} (hc : t.ctl = s.ctl) (hp : ¬ P) : DrainJudged P s t :=
  ⟨by rw [hc], Or.inl (by rw [hc]), fun p => absurd p hp⟩

theorem State.releaseBid_judged (id : PackId) (s : State) : DrainJudged True s (s.releaseBid id) :=
  (s.dropBid id).judgeDrain_judged

/-- A removal judges the drain exactly when it releases the pending bid. -/
theorem State.removeBid_judged (id : PackId) (s : State) :
    DrainJudged ((s.removeBid id).packs.bids ≠ s.packs.bids) s (s.removeBid id) := by
  unfold State.removeBid
  split
  · exact (s.releaseBid_judged id).imp fun _ => trivial
  · next e _ =>
    split
    · exact DrainJudged.of_ctl rfl fun h => h rfl
    · exact ((s.dropFrame e.number).releaseBid_judged id).imp fun _ => trivial

theorem State.resolveRetired_judged (id : PackId) (s : State) :
    DrainJudged ((s.resolveRetired id).packs.bids ≠ s.packs.bids) s (s.resolveRetired id) := by
  unfold State.resolveRetired
  split
  · exact DrainJudged.of_ctl rfl fun h => h rfl
  · split
    · exact s.removeBid_judged id
    · exact (s.releaseBid_judged id).imp fun _ => trivial

theorem DrainJudged.counters {P : Prop} {s t : State} (h : DrainJudged P s t) : t.ctl.counters = s.ctl.counters := by
  rw [h.1]

/-- This station's pending bid for a pack it does not get, with what that leaves unchanged (R36, R39). -/
theorem State.resolveRetired_spec (id : PackId) (s : State) :
    MechanismUnchanged s (s.resolveRetired id) ∧ BidResolved id s (s.resolveRetired id) ∧
      DrainJudged ((s.resolveRetired id).packs.bids ≠ s.packs.bids) s (s.resolveRetired id) := by
  obtain ⟨hres, heq⟩ := s.resolveRetired_resolved id
  refine ⟨?_, hres, s.resolveRetired_judged id⟩
  rw [heq]
  exact ⟨rfl, rfl, rfl, rfl, rfl, rfl⟩

/-! ### CLOSE (R10, R36, R37) -/

theorem State.placeEntry_entry {id : PackId} {e : Entry} {s : State} (owner : Nat) (a : Option Annex)
    (h : s.entry id = some e) : (s.placeEntry id owner a).entry id = some { e with state := .placed owner a } := by
  unfold State.placeEntry
  rw [State.entry_onEntry id id (fun e => { e with state := .placed owner a }) s fun _ => rfl, if_pos rfl, h]
  rfl

/-- A station that has not won resolves its pending bid as at a retirement. -/
theorem State.resolvePlaced_lost {id : PackId} {owner : Nat} {s : State} (h : owner ≠ s.address) :
    s.resolvePlaced id owner = (s.placeEntry id owner none).resolveRetired id := by
  have hp : (s.placeEntry id owner none).pendingBid id = s.pendingBid id := rfl
  unfold State.resolvePlaced State.resolveRetired
  rw [hp]
  cases s.pendingBid id with
  | none => rfl
  | some b => cases hb : b.stage <;> simp only [hb, if_neg h]

/-- A station that has won commits the claims of its SENT pending bid, or takes the pack without an annex. -/
theorem State.resolvePlaced_cases (id : PackId) (owner : Nat) (s : State) :
    s.resolvePlaced id owner = (s.placeEntry id owner none).resolveRetired id ∨
      ∃ b a, s.resolvePlaced id owner = (s.placeEntry id owner (some a)).commitClaims b := by
  have hp : (s.placeEntry id owner none).pendingBid id = s.pendingBid id := rfl
  unfold State.resolvePlaced State.resolveRetired
  rw [hp]
  cases s.pendingBid id with
  | none => exact Or.inl rfl
  | some b =>
    cases hb : b.stage with
    | queued => exact Or.inl (by simp only [hb])
    | sent =>
      by_cases ho : owner = s.address
      · exact Or.inr ⟨b, _, by simp only [hb, if_pos ho]; rfl⟩
      · exact Or.inl (by simp only [hb, if_neg ho])

theorem State.commitClaims_frame (b : PendingBid) (s : State) :
    (s.commitClaims b).part = s.part ∧ (s.commitClaims b).config = s.config ∧ (s.commitClaims b).store = s.store ∧
      (s.commitClaims b).rack.tray = s.rack.tray ∧ (s.commitClaims b).head.queue = s.head.queue ∧
      (s.commitClaims b).head.state = s.head.state ∧ (s.commitClaims b).head.readings = s.head.readings ∧
      (s.commitClaims b).ctl = s.ctl ∧ (s.commitClaims b).packs.entries = s.packs.entries := by
  simp [State.commitClaims]

/-- What a CLOSE leaves of this station whatever it finds: the part, the configuration, the store, the tray, the finish queue, the
head's work and its readings. -/
structure ClosingKeeps (s t : State) : Prop where
  part : t.part = s.part
  config : t.config = s.config
  store : t.store = s.store
  tray : t.rack.tray = s.rack.tray
  queue : t.head.queue = s.head.queue
  state : t.head.state = s.head.state
  readings : t.head.readings = s.head.readings

theorem ClosingKeeps.ofReceived {s t : State} (h : ClosingKeeps s.received t) : ClosingKeeps s t :=
  ⟨h.part, h.config, h.store, h.tray, h.queue, h.state, h.readings⟩

theorem MechanismUnchanged.closingKeeps {s t : State} (h : MechanismUnchanged s t) : ClosingKeeps s t := by
  obtain ⟨-, hh, hr, hs, hc, hp⟩ := h
  exact ⟨hp, hc, hs, by rw [hr], by rw [hh], by rw [hh], by rw [hh]⟩

theorem ClosingKeeps.and {s t : State} {Q : Prop} (h : ClosingKeeps s t) (q : Q) :
    t.part = s.part ∧ t.config = s.config ∧ t.store = s.store ∧ t.rack.tray = s.rack.tray ∧
      t.head.queue = s.head.queue ∧ t.head.state = s.head.state ∧ t.head.readings = s.head.readings ∧ Q :=
  ⟨h.part, h.config, h.store, h.tray, h.queue, h.state, h.readings, q⟩

/-- The pack is PLACED with the owner, and the counters stand. -/
theorem State.resolvePlaced_placed {id : PackId} {e : Entry} {s : State} (owner : Nat) (h : s.entry id = some e) :
    ClosingKeeps s (s.resolvePlaced id owner) ∧ (s.resolvePlaced id owner).ctl.counters = s.ctl.counters ∧
      ∃ a, (s.resolvePlaced id owner).entry id = some { e with state := .placed owner a } ∧
        (s.resolvePlaced id owner).packs.entries = entriesPlaced id owner a s.packs.entries := by
  rcases s.resolvePlaced_cases id owner with heq | ⟨b, a, heq⟩ <;> rw [heq]
  · obtain ⟨hm, -, hd⟩ := (s.placeEntry id owner none).resolveRetired_spec id
    have hent := (s.placeEntry id owner none).resolveRetired_entries id
    exact ⟨MechanismUnchanged.closingKeeps (s := s) hm, hd.counters, none,
      (State.entry_congr hent id).trans (State.placeEntry_entry owner none h), hent⟩
  · obtain ⟨hp, hc, hs, ht, hq, hst, hr, hctl, hent⟩ := (s.placeEntry id owner (some a)).commitClaims_frame b
    exact ⟨⟨hp, hc, hs, ht, hq, hst, hr⟩, by rw [hctl]; rfl, some a,
      (State.entry_congr hent id).trans (State.placeEntry_entry owner (some a) h), hent⟩

/-- What a pack that ends without an owner here, or with another owner, leaves: the entries `after`, the mechanism, and the pending bid
resolved. -/
theorem State.resolveRetired_from {id : PackId} {s u : State} (hu : u = { s with packs := { s.packs with entries := u.packs.entries } }) :
    (u.resolveRetired id).packs.entries = u.packs.entries ∧ MechanismUnchanged s (u.resolveRetired id) ∧
      BidResolved id s (u.resolveRetired id) ∧
      DrainJudged ((u.resolveRetired id).packs.bids ≠ s.packs.bids) s (u.resolveRetired id) := by
  obtain ⟨hm, hb, hd⟩ := u.resolveRetired_spec id
  refine ⟨u.resolveRetired_entries id, ?_⟩
  rw [hu] at hm hb hd ⊢
  exact ⟨hm, hb, hd⟩

section TakeClose

variable {sender : Nat} {id : PackId} {e : Entry} {s : State}

theorem State.takeClose_unlisted (h : s.entry id = none) : s.takeClose sender id = s.count .outOfSequence := by
  simp only [State.takeClose, h]

theorem State.takeClose_foreign (h : s.entry id = some e) (hf : id.feed ≠ sender) :
    s.takeClose sender id = s.count .outOfSequence := by
  simp only [State.takeClose, h, State.entry_id h, if_pos hf]

variable (h : s.entry id = some e) (hf : ¬ id.feed ≠ sender)
include h hf

theorem State.takeClose_placed {o : Nat} {a : Option Annex} (hst : e.state = .placed o a) :
    s.takeClose sender id = s.count .outOfSequence := by
  simp only [State.takeClose, h, State.entry_id h, if_neg hf, hst]

theorem State.takeClose_unplaced (hst : e.state = .bidding []) :
    s.takeClose sender id = (s.retire id).resolveRetired id := by
  simp only [State.takeClose, h, State.entry_id h, if_neg hf, hst, winner]

theorem State.takeClose_won {bids : List BidRecord} {w : BidRecord} (hst : e.state = .bidding bids)
    (hw : winner bids = some w) : s.takeClose sender id = s.resolvePlaced id w.station := by
  simp only [State.takeClose, h, State.entry_id h, if_neg hf, hst, hw]

end TakeClose

/-- Settles O23: by the entry of the CLOSE's pack and the winner of its list. -/
theorem closeFollowsTheBidList : Obligations.CloseFollowsTheBidList := by
  intro sender w s hf
  rw [exec_close w hf]
  refine ⟨fun ha => by rw [State.withPack_discarded (s := s.received) _ ha], fun ha => ?_⟩
  have counted : ∀ c, ClosingKeeps s (s.received.count c) := fun c => ⟨rfl, rfl, rfl, rfl, rfl, rfl, rfl⟩
  refine ⟨_, rfl, ?_⟩
  cases hw : readPackId w with
  | none =>
    rw [State.withPack_malformed (s := s.received) _ ha hw]
    exact (counted _).and rfl
  | some id =>
    rw [State.withPack_taken (s := s.received) _ ha hw]
    dsimp only
    cases he : s.entry id with
    | none =>
      rw [State.takeClose_unlisted (s := s.received) he]
      exact (counted _).and rfl
    | some e =>
      by_cases hfeed : id.feed ≠ sender.toNat
      · rw [State.takeClose_foreign (s := s.received) he hfeed]
        simp only [if_pos hfeed]
        exact (counted _).and trivial
      · dsimp only
        rw [if_neg hfeed]
        cases hst : e.state with
        | placed o a =>
          rw [State.takeClose_placed (s := s.received) he hfeed hst]
          exact (counted _).and rfl
        | bidding bids =>
          dsimp only
          cases hwin : winner bids with
          | none =>
            obtain rfl := winner_eq_none.1 hwin
            rw [State.takeClose_unplaced (s := s.received) he hfeed hst]
            obtain ⟨hent, hm, hb, hd⟩ := State.resolveRetired_from (id := id) (s := s.received) (u := s.received.retire id) rfl
            exact (MechanismUnchanged.closingKeeps (s := s) hm).and
              ⟨hd.counters, fun _ => ⟨hent, hm, hb, hd⟩, fun _ h => absurd rfl h⟩
          | some r =>
            rw [State.takeClose_won (s := s.received) he hfeed hst hwin]
            obtain ⟨hk, hc, hplaced⟩ := State.resolvePlaced_placed (s := s.received) r.station he
            refine ClosingKeeps.and (s := s) hk.ofReceived ⟨hc, ?_, fun hn _ => ?_⟩
            · rintro rfl
              exact absurd hwin nofun
            · obtain ⟨hmem, hbest⟩ := winner_best hn hwin
              refine ⟨r, hmem, hbest, hplaced, fun hlost => ?_⟩
              rw [State.resolvePlaced_lost (s := s.received) hlost]
              exact State.resolveRetired_from (id := id) (s := s.received) (u := s.received.placeEntry id r.station none) rfl

/-! ### WITHDRAW (R12, R39, R79) -/

@[simp] theorem State.withdrawAtOwner_frame (p : PocketId) (s : State) :
    (s.withdrawAtOwner p).store = s.store ∧ (s.withdrawAtOwner p).rack.tray = s.rack.tray ∧
      (s.withdrawAtOwner p).config = s.config ∧ (s.withdrawAtOwner p).part = s.part := by
  unfold State.withdrawAtOwner
  (repeat' split) <;> simp

section TakeWithdraw

variable {sender : Nat} {id : PackId} {e : Entry} {s : State}

theorem State.takeWithdraw_foreign (h : sender ≠ 30 ∧ id.feed ≠ sender) :
    s.takeWithdraw sender id = s.count .outOfSequence := by
  simp only [State.takeWithdraw, if_pos (show sender ≠ 30 ∧ sender ≠ id.feed from ⟨h.1, h.2.symm⟩)]

variable (hf : ¬ (sender ≠ 30 ∧ id.feed ≠ sender))
include hf

theorem State.takeWithdraw_unlisted (h : s.entry id = none) : s.takeWithdraw sender id = s.count .outOfSequence := by
  have hf' : ¬ (sender ≠ 30 ∧ sender ≠ id.feed) := fun hs => hf ⟨hs.1, hs.2.symm⟩
  simp only [State.takeWithdraw, if_neg hf', h]

theorem State.takeWithdraw_bidding {bids : List BidRecord} (h : s.entry id = some e) (hst : e.state = .bidding bids) :
    s.takeWithdraw sender id = (s.retire id).resolveRetired id := by
  have hf' : ¬ (sender ≠ 30 ∧ sender ≠ id.feed) := fun hs => hf ⟨hs.1, hs.2.symm⟩
  simp only [State.takeWithdraw, if_neg hf', h, hst]

theorem State.takeWithdraw_owned {a : Annex} (h : s.entry id = some e) (hst : e.state = .placed s.address (some a)) :
    s.takeWithdraw sender id = s.withdrawAtOwner a.pocket := by
  have hf' : ¬ (sender ≠ 30 ∧ sender ≠ id.feed) := fun hs => hf ⟨hs.1, hs.2.symm⟩
  simp only [State.takeWithdraw, if_neg hf', h, hst, if_true]

/-- A PLACED pack is left to its owner's pocket. -/
theorem State.takeWithdraw_placed {o : Nat} {x : Option Annex} (h : s.entry id = some e) (hst : e.state = .placed o x) :
    (s.takeWithdraw sender id).store = s.store ∧ (s.takeWithdraw sender id).rack.tray = s.rack.tray ∧
      (s.takeWithdraw sender id).config = s.config ∧ (s.takeWithdraw sender id).part = s.part ∧
      (o ≠ s.address → s.takeWithdraw sender id = s) := by
  have hf' : ¬ (sender ≠ 30 ∧ sender ≠ id.feed) := fun hs => hf ⟨hs.1, hs.2.symm⟩
  by_cases ho : o = s.address
  · cases x with
    | none => simp [State.takeWithdraw, if_neg hf', h, hst, ho]
    | some a =>
      rw [State.takeWithdraw_owned hf h (ho ▸ hst)]
      obtain ⟨hs, ht, hc, hp⟩ := State.withdrawAtOwner_frame a.pocket s
      exact ⟨hs, ht, hc, hp, fun hn => absurd ho hn⟩
  · have heq : s.takeWithdraw sender id = s := by simp only [State.takeWithdraw, if_neg hf', h, hst, if_neg ho]
    rw [heq]
    exact ⟨rfl, rfl, rfl, rfl, fun _ => rfl⟩

end TakeWithdraw

theorem console_toNat {sender : LinkAddress} : sender.toNat = 30 ↔ sender = 30 :=
  ⟨fun h => BitVec.eq_of_toNat_eq h, fun h => by rw [h]; rfl⟩

/-- Settles O25: by the sender, and the entry of the WITHDRAW's pack. -/
theorem withdrawEndsBiddingAndLeavesOthersPacks : Obligations.WithdrawEndsBiddingAndLeavesOthersPacks := by
  intro sender w s hsend
  rw [exec_withdraw w hsend.1 hsend.2]
  refine ⟨fun ha => by rw [State.withPack_discarded (s := s.received) _ ha], fun ha => ⟨_, rfl, ?_⟩⟩
  cases hw : readPackId w with
  | none =>
    rw [State.withPack_malformed (s := s.received) _ ha hw]
    exact ⟨rfl, rfl, rfl, rfl, rfl⟩
  | some id =>
    rw [State.withPack_taken (s := s.received) _ ha hw]
    have hiff : sender ≠ 30 ∧ id.feed ≠ sender.toNat ↔ sender.toNat ≠ 30 ∧ id.feed ≠ sender.toNat := by
      rw [Ne, Ne, ← console_toNat]
    by_cases hf : sender ≠ 30 ∧ id.feed ≠ sender.toNat
    · rw [State.takeWithdraw_foreign (hiff.1 hf)]
      simp only [if_pos hf]
      exact ⟨rfl, rfl, rfl, rfl, trivial⟩
    · have hf' := mt hiff.2 hf
      simp only [if_neg hf]
      cases he : s.entry id with
      | none =>
        rw [State.takeWithdraw_unlisted (s := s.received) hf' he]
        exact ⟨rfl, rfl, rfl, rfl, rfl⟩
      | some e =>
        cases hst : e.state with
        | bidding bids =>
          rw [State.takeWithdraw_bidding (s := s.received) hf' he hst]
          simp only [hst]
          obtain ⟨hent, hm, hb, hd⟩ := State.resolveRetired_from (id := id) (s := s.received) (u := s.received.retire id) rfl
          have hk := MechanismUnchanged.closingKeeps (s := s) hm
          exact ⟨hk.store, hk.tray, hk.config, hk.part, hent, hm, hb, hd⟩
        | placed o x =>
          simp only [hst]
          exact State.takeWithdraw_placed (s := s.received) hf' he hst

/-! ### A re-scan (R22) -/

/-- Outside RUN check 1 of R24 ends a re-scan at once. -/
theorem rescanOver_not_run (es : List Entry) {s : State} (h : s.ctl.station ≠ .run) : rescanOver es s = s := by
  induction es with
  | nil => rfl
  | cons e es ih =>
    unfold rescanOver
    split
    · simp only [State.consider, if_pos h]
    · exact ih

theorem State.rescan_not_run {s : State} (h : s.ctl.station ≠ .run) : s.rescan = s := rescanOver_not_run _ h

/-- A re-scan changes the pending bids and the link alone. -/
theorem State.rescan_eq (s : State) :
    s.rescan = { s with packs := { s.packs with bids := s.rescan.packs.bids }, link := s.rescan.link } := by
  obtain ⟨h1, h2, h3, h4, h5, h6, h7, h8, h9, -⟩ := s.rescan_frame
  generalize s.rescan = t at *
  obtain ⟨pending, part, config, ctl, link, ⟨entries, bids⟩, pockets, head, rack, store⟩ := t
  dsimp only at h1 h2 h3 h4 h5 h6 h7 h8 h9
  subst h1 h2 h3 h4 h5 h6 h7 h8 h9
  rfl

theorem State.rescan_rescanned (s : State) : Rescanned s.packs.bids s.link s.rescan := by
  have h : ({ s.rescan with packs := { s.rescan.packs with bids := s.packs.bids }, link := s.link } : State) = s := by
    rw [State.rescan_eq]
  unfold Rescanned
  rw [h]
  exact ⟨rfl, rfl⟩

/-- Outside RUN a state counts as re-scanned with the bids and the link it has. -/
theorem rescanned_not_run {t : State} (h : t.ctl.station ≠ .run) : Rescanned t.packs.bids t.link t := by
  unfold Rescanned
  rw [State.rescan_not_run (by exact h)]
  exact ⟨rfl, rfl⟩

/-- A drain judged after a re-scan does not change what the re-scan did. -/
theorem State.rescan_judgeDrain_rescanned (s : State) : Rescanned s.packs.bids s.link s.rescan.judgeDrain := by
  by_cases hr : s.ctl.station = .run
  · have hj : s.rescan.judgeDrain = s.rescan := by
      simp [State.judgeDrain, hr]
    rw [hj]
    exact s.rescan_rescanned
  · rw [State.rescan_not_run hr]
    have hn : s.judgeDrain.ctl.station ≠ .run := by
      unfold State.judgeDrain
      split
      · simp
      · exact hr
    have h := rescanned_not_run hn
    rwa [s.judgeDrain_packs.1, s.judgeDrain_packs.2] at h

/-! ### The echo of an own end message (R14, R78) -/

theorem State.freeRetired_eq {p : PocketId} {j : Job} {s : State} (h : (s.pockets.get p).state = .retiring j) :
    s.freeRetired p = ((s.onPocket p fun _ => Pocket.empty).rescan).judgeDrain := by
  simp only [State.freeRetired, h]

/-- The pocket is FREE, a re-scan has run over the rest, and a drain has been judged. -/
theorem State.freeRetired_spec {p : PocketId} {j : Job} {s : State} (h : (s.pockets.get p).state = .retiring j) :
    (s.freeRetired p).pockets.get p = Pocket.empty ∧ OtherPocketsUnchanged p s (s.freeRetired p) ∧
      (s.freeRetired p).head = s.head ∧ (s.freeRetired p).rack = s.rack ∧ (s.freeRetired p).store = s.store ∧
      (s.freeRetired p).config = s.config ∧ (s.freeRetired p).part = s.part ∧
      (s.freeRetired p).link.sendRun = s.link.sendRun ∧ DrainJudged True s (s.freeRetired p) ∧
      Rescanned s.packs.bids s.link (s.freeRetired p) := by
  have hd := ((s.onPocket p fun _ => Pocket.empty).rescan).judgeDrain_judged
  have hr := (s.onPocket p fun _ => Pocket.empty).rescan_judgeDrain_rescanned
  rw [State.freeRetired_eq h]
  refine ⟨by simp, fun q hq => by simp [State.onPocket_other _ _ hq], by simp, by simp, by simp, by simp, by simp, by simp,
    ?_, hr⟩
  unfold DrainJudged at hd ⊢
  simpa using hd

theorem State.takeEnd_own {id : PackId} {e : Entry} {a : Annex} {s : State} (h : s.entry id = some e)
    (hst : e.state = .placed s.address (some a)) : s.takeEnd s.address id = (s.retire id).freeRetired a.pocket := by
  simp only [State.takeEnd, h, hst, if_true]

/-- Settles O28: the echo comes to R14 on the state whose queue the frame has left. -/
theorem ownEndMessageEchoFreesThePocket : Obligations.OwnEndMessageEchoFreesThePocket := by
  intro e c id s he hc
  have hexec : exec c s = .next (State.takeEndEcho e (s.echoed e)) := by
    rcases hc with ⟨⟨bin, flags, hf⟩, rfl⟩ | ⟨⟨r, hf⟩, rfl⟩
    · exact exec_delivered_echo he hf
    · exact exec_aside_echo he hf
  have htake : s.ctl.station.applies = true → State.takeEndEcho e (s.echoed e) = (s.echoed e).takeEnd s.address id := by
    intro ha
    rcases hc with ⟨⟨bin, flags, hf⟩, -⟩ | ⟨⟨r, hf⟩, -⟩ <;>
      simp only [State.takeEndEcho, hf, State.echoed_frame, ha, if_true] <;> rfl
  rw [hexec]
  refine ⟨fun ha => by simp [State.takeEndEcho, ha], fun ha => ⟨fun hno => ?_, fun n a j hn hst hp => ?_⟩⟩
  · rw [htake ha, State.takeEnd_unowned (s := s.echoed e) hno]
  · rw [htake ha, show (s.echoed e).takeEnd s.address id = _ from State.takeEnd_own (s := s.echoed e) hn hst]
    obtain ⟨h1, h2, h3, h4, h5, h6, h7, h8, h9, h10⟩ := State.freeRetired_spec (s := (s.echoed e).retire id) hp
    exact ⟨_, rfl, State.freeRetired_entries _ _, h1, h2, h3, h4, h5, h6, h7, h8, h9, h10⟩

/-! ### The echo of an own HALT or JOIN (R15 to R17) -/

theorem State.owns_iff {id : PackId} {s : State} :
    s.owns id = true ↔ ∃ n a, s.entry id = some n ∧ n.state = .placed s.address a := by
  unfold State.owns
  cases s.entry id with
  | none => simp
  | some n =>
    cases hn : n.state <;> simp [Entry.ownedBy, hn]

theorem TxFrame.endsPack_iff {p : PackId → Bool} {f : TxFrame} :
    f.endsPack p = true ↔ ∃ id, p id = true ∧ ((∃ bin flags, f = .delivered id bin flags) ∨ ∃ r, f = .aside id r) := by
  cases f <;> simp [TxFrame.endsPack]

/-- What leaves the queue with the echo's own frame: the end messages of the packs that are retired. -/
theorem State.forgetSelf_ends (e : TxEntry) (s : State) : OwnEndsRemoved e s (s.echoed e).forgetSelf.link := by
  have hlink : (s.echoed e).forgetSelf.link =
      { s.link with
        queue := (s.link.queue.filter fun x => decide (x.number ≠ e.number)).filter fun x =>
          !x.frame.endsPack (s.echoed e).owns
        sendRun := 0 } := rfl
  rw [hlink]
  refine ⟨rfl, List.filter_sublist.trans List.filter_sublist, fun x => ?_⟩
  have howns : ∀ id, (s.echoed e).owns id = s.owns id := fun _ => rfl
  simp only [List.mem_filter, decide_eq_true_eq, Bool.not_eq_true', ← Bool.not_eq_true, TxFrame.endsPack_iff, howns,
    State.owns_iff, and_assoc]
  refine and_congr_right fun _ => and_congr_right fun _ => ⟨fun h id n a hn hst => ⟨fun bin flags hx => ?_, fun r hx => ?_⟩,
    fun h => ?_⟩
  · exact h ⟨id, ⟨n, a, hn, hst⟩, Or.inl ⟨bin, flags, hx⟩⟩
  · exact h ⟨id, ⟨n, a, hn, hst⟩, Or.inr ⟨r, hx⟩⟩
  · rintro ⟨id, ⟨n, a, hn, hst⟩, ⟨bin, flags, hx⟩ | ⟨r, hx⟩⟩
    · exact (h id n a hn hst).1 bin flags hx
    · exact (h id n a hn hst).2 r hx

theorem State.enterHalting_head (c : HaltCause) (s : State) :
    (s.enterHalting c).head = { s.head with state := .stopped, testWaiting := false } := by
  simp [State.enterHalting, State.stopHead]

/-- Settles O31: in RUN the re-scan runs; with a held cause the station is in HALTING, where the re-scan ends at check 1. -/
theorem joinEchoLeavesJoining : Obligations.JoinEchoLeavesJoining := by
  intro e cause stapler edge outcome capacity s he hf hs
  have hjoin : (s.echoed e).joinEchoed = (((s.echoed e).forgetSelf.enter .run).haltOnHeld).rescan := by
    simp only [State.joinEchoed, State.echoed_frame, hs]
  have hends := s.forgetSelf_ends e
  rw [exec_joinEcho he hf, hjoin]
  generalize hu : (s.echoed e).forgetSelf = u at *
  have hctl : u.ctl = s.ctl := by rw [← hu]; rfl
  have hhead : u.head = s.head := by rw [← hu]; rfl
  have hent : u.packs.entries = entriesWithout s.address s.packs.entries := by rw [← hu]; rfl
  have hbids : u.packs.bids = s.packs.bids := by rw [← hu]; rfl
  have hframe : u.part = s.part ∧ u.config = s.config ∧ u.pockets = s.pockets ∧ u.rack = s.rack ∧ u.store = s.store := by
    rw [← hu]; exact ⟨rfl, rfl, rfl, rfl, rfl⟩
  cases hc : s.ctl.heldCause with
  | none =>
    have hheld : (u.enter .run).haltOnHeld = u.enter .run := by
      simp [State.haltOnHeld, State.enter, hctl, hc]
    rw [hheld]
    refine ⟨_, rfl, ?_⟩
    simp only [State.rescan_frame, State.enter_frame, hframe, hent, true_and]
    refine ⟨_, hends, ?_, hhead, ?_⟩
    · simp [State.enter, hctl]
    · have h := (u.enter .run).rescan_rescanned
      rw [show (u.enter .run).packs.bids = s.packs.bids from hbids] at h
      exact h
  | some cause =>
    have hheld : (u.enter .run).haltOnHeld =
        ((u.enter .run).onCtl fun k => { k with heldCause := none }).enterHalting cause := by
      simp [State.haltOnHeld, State.enter, hctl, hc]
    have hspec := ((u.enter .run).onCtl fun k => { k with heldCause := none }).enterHalting_spec cause
    have hkeeps := ((u.enter .run).onCtl fun k => { k with heldCause := none }).enterHalting_frame cause
    have hstopped := ((u.enter .run).onCtl fun k => { k with heldCause := none }).enterHalting_head cause
    rw [hheld]
    generalize ((u.enter .run).onCtl fun k => { k with heldCause := none }).enterHalting cause = t at *
    obtain ⟨-, -, hentries, htctl, m, hm, hq⟩ := hspec
    rw [State.rescan_not_run (by rw [htctl]; nofun)]
    refine ⟨_, rfl, ?_⟩
    simp only [hkeeps, State.onCtl_part, State.onCtl_config, State.onCtl_pockets, State.onCtl_rack, State.onCtl_store,
      State.onCtl_packs, State.enter_frame, hframe, hent, true_and]
    refine ⟨_, hends, ?_, ?_, m, ?_, hq⟩
    · rw [htctl]
      simp [State.enter, hctl]
    · rw [hstopped]
      simp [hhead]
    · rw [← hbids]
      exact hm

end Sys2Proof.Machine

namespace Sys2Proof.Machine

open Sys2Proof.Config

/-! ### ASK (R175, R176) -/

theorem StationState.takesAsk_iff {st : StationState} {a : Ask} :
    st.takesAsk a = true ↔ st.answers = true ∨ st = .configFault ∧ a = .summary := by
  simp [StationState.takesAsk]

/-- In SAFE no ASK is taken (R175). -/
theorem StationState.takesAsk_not_safe {st : StationState} {a : Ask} (h : st.takesAsk a = true) : st ≠ .safe := by
  rintro rfl
  simp [StationState.takesAsk, StationState.answers] at h

/-- The report slot is no part of what a REPORT shows. -/
theorem reportQueued_onSlot {a b : Ask} {kept : TxEntry → Prop} {l : BayLink} {s t : State}
    (h : ReportQueued a kept l (s.onCtl fun k => { k with reportSlot := some b }) t) : ReportQueued a kept l s t := by
  obtain ⟨hhead, c, hshow, hq⟩ := h
  exact ⟨hhead, c, by cases a <;> exact hshow, hq⟩

/-- The REPORT that is queued already is marked while it is under attempt, and replaced otherwise (R169, R176). -/
theorem State.replaceReport_replaces (a : Ask) {s : State} (h : s.ctl.station ≠ .safe) :
    s.replaceReport a = { s with link := (s.replaceReport a).link, head := (s.replaceReport a).head } ∧
      match s.link.queue.find? fun x => x.frame.isReport with
      | none => ReportQueued a (fun _ => True) s.link s (s.replaceReport a)
      | some y =>
        if y.attempting then
          (s.replaceReport a).head = s.head ∧
            (s.replaceReport a).link =
              { s.link with
                queue := s.link.queue.map fun x => if x.number = y.number then { x with mark := .replace } else x }
        else ReportQueued a (fun x => x.number ≠ y.number) s.link s (s.replaceReport a) := by
  unfold State.replaceReport
  cases s.link.queue.find? fun x => x.frame.isReport with
  | none => exact State.appendReport_queued a h
  | some y =>
    cases hy : y.attempting with
    | true =>
      simp only [hy, if_true]
      exact ⟨rfl, rfl, rfl⟩
    | false =>
      simp only [hy, Bool.false_eq_true, if_false]
      exact State.appendReport_queuedWithout a y.number s.link h rfl

/-- Settles O34: an empty slot queues the REPORT, and a full one replaces the REPORT in the queue. -/
theorem askQueuesTheReport : Obligations.AskQueuesTheReport := by
  rintro h a s r hd rfl
  rw [exec_ask a hd, ← StationState.takesAsk_iff]
  refine ⟨_, rfl, fun hno => by simp [State.asked, hno], fun htake => ?_⟩
  have hasked : s.received.asked a = s.received.takeAsk a := by simp [State.asked, htake]
  have hsafe : (s.received.onCtl fun k => { k with reportSlot := some a }).ctl.station ≠ .safe :=
    StationState.takesAsk_not_safe htake
  rw [hasked]
  cases hslot : s.ctl.reportSlot with
  | none =>
    have heq : s.received.takeAsk a = (s.received.onCtl fun k => { k with reportSlot := some a }).appendReport a := by
      simp only [State.takeAsk, State.received_frame, hslot]
    obtain ⟨hall, hq⟩ := State.appendReport_queued a hsafe
    rw [heq]
    exact ⟨hall, fun _ => reportQueued_onSlot hq, fun hn => absurd rfl hn⟩
  | some b =>
    have heq : s.received.takeAsk a = (s.received.onCtl fun k => { k with reportSlot := some a }).replaceReport a := by
      simp only [State.takeAsk, State.received_frame, hslot]
    obtain ⟨hall, hq⟩ := State.replaceReport_replaces a hsafe
    rw [heq]
    refine ⟨hall, fun hn => absurd hn nofun, fun _ => ?_⟩
    generalize hx : List.find? _ s.link.queue = o
    have hy : (s.link.queue.find? fun x => x.frame.isReport) = o := hx
    simp only [State.onCtl_link, State.received_frame, hy] at hq
    cases o with
    | none => exact reportQueued_onSlot hq
    | some y =>
      dsimp only at hq ⊢
      cases hya : y.attempting with
      | true =>
        simp only [hya, if_true] at hq ⊢
        exact hq
      | false =>
        simp only [hya, Bool.false_eq_true, if_false] at hq ⊢
        exact reportQueued_onSlot hq

/-! ### The halt consequences (R144, R145) -/

theorem Pocket.holdsCommitments_iff (q : Pocket) :
    q.holdsCommitments = true ↔
      q.state = .reserved ∨ q.state = .filling ∨ (∃ r, q.state = .absorbing r) ∨ q.state = .waiting .finish ∨
        q.state = .atHead .finish := by
  unfold Pocket.holdsCommitments
  cases q.state with
  | waiting j => cases j <;> simp
  | atHead j => cases j <;> simp
  | _ => simp

theorem State.undriven_eq (p : PocketId) (s : State) :
    s.undriven p =
      match (s.pockets.get p).bound.bind fun b => s.entry b.pack with
      | none => 0
      | some n => staplesNeeded n.offer.finish - (s.pockets.get p).driven := by
  unfold State.undriven
  cases (s.pockets.get p).bound with
  | none => rfl
  | some b => cases s.entry b.pack <;> rfl

theorem State.targetBin_iff {p : PocketId} {n : Nat} {s : State} :
    s.targetBin p = some n ↔
      ∃ b x o a, (s.pockets.get p).bound = some b ∧ s.entry b.pack = some x ∧ x.state = .placed o (some a) ∧
        a.bin = n := by
  unfold State.targetBin
  cases (s.pockets.get p).bound with
  | none => simp
  | some b =>
    cases hx : s.entry b.pack with
    | none => simp [hx]
    | some x =>
      cases hst : x.state with
      | bidding bids => simp [hx, Entry.annex, hst]
      | placed o a => cases a <;> simp [hx, Entry.annex, hst]

theorem State.onBin_head (n : Nat) (f : Bin → Bin) (s : State) : (s.onBin n f).head = s.head := by simp

/-- A release of commitments changes of the head its committed staples alone. -/
theorem State.releaseCommitments_head (p : PocketId) (s : State) :
    (s.releaseCommitments p).head =
      { s.head with staples := { s.head.staples with committed := s.head.staples.committed - s.undriven p } } := by
  unfold State.releaseCommitments
  split
  · rfl
  · exact State.onBin_head _ _ _

/-- What a pocket gives back: the staples not yet driven, where its pack holds commitments (R145). -/
def State.staplesHeld (s : State) (p : PocketId) : Nat :=
  if (s.pockets.get p).holdsCommitments then s.undriven p else 0

/-- Whether a pocket's pack holds a place in bin `n` (R145). -/
def State.holdsPlace (s : State) (n : Nat) (p : PocketId) : Bool :=
  (s.pockets.get p).holdsCommitments && decide (s.targetBin p = some n)

theorem State.giveBack_spec (p : PocketId) (s : State) :
    (s.giveBack p).head =
        { s.head with staples := { s.head.staples with committed := s.head.staples.committed - s.staplesHeld p } } ∧
      ∀ n, (s.giveBack p).bin n =
        (s.bin n).map fun r => { r with committed := r.committed - [p].countP (s.holdsPlace n) } := by
  unfold State.giveBack State.staplesHeld
  cases hc : (s.pockets.get p).holdsCommitments with
  | false => simp [State.holdsPlace, hc]
  | true =>
    refine ⟨s.releaseCommitments_head p, fun n => ?_⟩
    rw [if_pos rfl, (s.releaseCommitments_spec p).2 n]
    by_cases hn : s.targetBin p = some n <;> simp [State.holdsPlace, hc, hn]

/-- The pockets give back one after another what each holds. -/
theorem giveBack_all (ps : List PocketId) (s : State) :
    (ps.foldl (fun u p => u.giveBack p) s).head =
        { s.head with
          staples := { s.head.staples with committed := s.head.staples.committed - (ps.map s.staplesHeld).sum } } ∧
      ∀ n, (ps.foldl (fun u p => u.giveBack p) s).bin n =
        (s.bin n).map fun r => { r with committed := r.committed - ps.countP (s.holdsPlace n) } := by
  induction ps generalizing s with
  | nil => simp
  | cons p ps ih =>
    obtain ⟨hhead, hbin⟩ := s.giveBack_spec p
    have hpockets : (s.giveBack p).pockets = s.pockets := by simp
    have hpacks : (s.giveBack p).packs = s.packs := by simp
    have hu : (s.giveBack p).staplesHeld = s.staplesHeld := funext fun q => by
      simp only [State.staplesHeld, hpockets, State.undriven_congr (by rw [hpockets]) (congrArg _ hpacks)]
    have hb : ∀ n, (s.giveBack p).holdsPlace n = s.holdsPlace n := fun n => funext fun q => by
      simp only [State.holdsPlace, hpockets, State.targetBin_congr (by rw [hpockets]) (congrArg _ hpacks)]
    obtain ⟨ihhead, ihbin⟩ := ih (s.giveBack p)
    rw [List.foldl_cons, ihhead]
    refine ⟨by simp only [hhead, hu, List.map_cons, List.sum_cons, Nat.sub_sub], fun n => ?_⟩
    rw [ihbin, hbin, hb, List.countP_cons, Option.map_map]
    refine congrArg (Option.map · (s.bin n)) (funext fun r => ?_)
    simp only [Function.comp_apply, List.countP_cons, List.countP_nil, Nat.zero_add, Nat.sub_sub, Nat.add_comm]

theorem Pocket.afterHalt_eq (q : Pocket) :
    q.afterHalt =
      match q.state with
      | .free => q
      | .leftover => q
      | .reserved => Pocket.empty
      | .retiring _ => Pocket.empty
      | _ => { Pocket.empty with state := .leftover } := by
  unfold Pocket.afterHalt
  cases q.state <;> rfl

/-- What leaves the queue with the own packs turns on the link, the pack table and the part alone. -/
theorem State.forgetSelf_link_congr {s u : State} (hl : u.link = s.link) (hp : u.packs = s.packs) (hpart : u.part = s.part) :
    u.forgetSelf.link = s.forgetSelf.link := by
  have howns : u.owns = s.owns := funext fun id => by
    simp only [State.owns, State.entry, State.address, hp, hpart]
  simp only [State.forgetSelf, State.onLink_link, State.forgetStation_frame, hl, howns]

/-- In HALTED the re-scan that a freed pocket starts ends at check 1. -/
theorem State.haltEchoed_eq (s : State) :
    s.haltEchoed =
      (((((PocketId.all.foldl (fun u p => u.giveBack p) s).forgetSelf.onPacks fun k => { k with bids := [] }).onPockets
        fun ps => { p1 := ps.p1.afterHalt, p2 := ps.p2.afterHalt, p3 := ps.p3.afterHalt, p4 := ps.p4.afterHalt }).onHead
        fun h => { h with queue := [] }).enter .halted) :=
  State.rescan_not_run nofun

/-- What the halt consequences leave (R144, R145). -/
theorem State.haltEchoed_spec (s : State) :
    s.haltEchoed.part = s.part ∧ s.haltEchoed.config = s.config ∧ s.haltEchoed.store = s.store ∧
      s.haltEchoed.ctl = { s.ctl with station := .halted } ∧ s.haltEchoed.link = s.forgetSelf.link ∧
      s.haltEchoed.packs = { entries := entriesWithout s.address s.packs.entries, bids := [] } ∧
      (∀ p, s.haltEchoed.pockets.get p = (s.pockets.get p).afterHalt) ∧
      s.haltEchoed.head =
        { s.head with
          queue := []
          staples :=
            { s.head.staples with
              committed := s.head.staples.committed - (PocketId.all.map s.staplesHeld).sum } } ∧
      s.haltEchoed.rack.tray = s.rack.tray ∧
      ∀ n, s.haltEchoed.bin n =
        (s.bin n).map fun r => { r with committed := r.committed - PocketId.all.countP (s.holdsPlace n) } := by
  obtain ⟨hhead, hbin⟩ := giveBack_all PocketId.all s
  have hkeeps := fun {β : Type} (proj : State → β) (h : ∀ p u, proj (State.giveBack p u) = proj u) =>
    foldl_keeps proj (fun u p => State.giveBack p u) (fun u p => h p u) PocketId.all s
  have hpart := hkeeps State.part fun p u => by simp
  have hconfig := hkeeps State.config fun p u => by simp
  have hstore := hkeeps State.store fun p u => by simp
  have hctl := hkeeps State.ctl fun p u => by simp
  have hlink := hkeeps State.link fun p u => by simp
  have hpacks := hkeeps State.packs fun p u => by simp
  have hpockets := hkeeps State.pockets fun p u => by simp
  have htray := hkeeps (fun u => u.rack.tray) fun p u => by simp
  rw [State.haltEchoed_eq]
  generalize PocketId.all.foldl (fun u p => u.giveBack p) s = v at *
  refine ⟨by simpa using hpart, by simpa using hconfig, by simpa using hstore, ?_,
    by simpa using State.forgetSelf_link_congr hlink hpacks hpart, ?_, fun p => ?_, ?_, by simpa using htray,
    fun n => (State.bin_congr (by simp) n).trans (hbin n)⟩
  · rw [← hctl]; rfl
  · rw [← hpacks, show s.address = v.address by simp only [State.address, hpart]]; rfl
  · rw [← hpockets]
    cases p <;> rfl
  · change { v.head with queue := [] } = _
    rw [hhead]

/-- Settles O30: the halt consequences on the state whose queue the HALT has left. -/
theorem haltEchoBreaksTheWork : Obligations.HaltEchoBreaksTheWork := by
  refine ⟨Pocket.holdsCommitments_iff, fun p s => ⟨s.undriven_eq p, fun n => State.targetBin_iff⟩,
    fun e cause s he hf => ⟨_, exec_haltEcho he hf, ?_⟩⟩
  obtain ⟨hpart, hconfig, hstore, hctl, hlink, hpacks, hpockets, hhead, htray, hbin⟩ := (s.echoed e).haltEchoed_spec
  refine ⟨hpart, hconfig, hstore, hctl, ?_, hpacks, fun p => ?_, hhead, htray, hbin⟩
  · rw [hlink]
    exact s.forgetSelf_ends e
  · rw [hpockets p, Pocket.afterHalt_eq]
    rfl

end Sys2Proof.Machine

namespace Sys2Proof.Machine

open Sys2Proof.Config

/-! ### An end message asked for on the way (R13) -/

/-- What an end message asks is of the pack table and the address before it, and of the link and the pack table after it. -/
theorem EndRequested.transfer {id : PackId} {f : TxFrame} {l : BayLink} {s u t v : State} (h : EndRequested id f l s t)
    (hp : u.packs = s.packs) (ha : u.address = s.address) (hl : v.link = t.link) (hv : v.packs = t.packs) :
    EndRequested id f l u v := by
  have he : u.entry id = s.entry id := State.entry_congr (by rw [hp]) id
  have hve : v.entry id = t.entry id := State.entry_congr (by rw [hv]) id
  unfold EndRequested at h ⊢
  rwa [he, ha, hp, hl, hv, hve]

theorem State.accountAside_head (p : PocketId) (r : AsideReason) (s : State) :
    (s.accountAside p r).head =
      { s.head with staples := { s.head.staples with committed := s.head.staples.committed - s.undriven p } } :=
  s.releaseCommitments_head p

theorem State.accountAside_ctl (p : PocketId) (r : AsideReason) (s : State) :
    (s.accountAside p r).ctl = { s.ctl with counters := s.ctl.counters.bump (.setAside r) } := by
  simp [State.accountAside, State.count]

theorem State.accountAside_released (p : PocketId) (r : AsideReason) (s : State) :
    CommitmentsReleased p s (s.accountAside p r) := s.releaseCommitments_spec p

theorem State.retireUngathered_head (p : PocketId) (r : AsideReason) (s : State) :
    (s.retireUngathered p r).head = { s.head with staples := (s.retireUngathered p r).head.staples } := by
  unfold State.retireUngathered
  split <;> simp [State.accountAside_head]

theorem State.retireUngathered_requested {p : PocketId} {b : Binding} (r : AsideReason) {s : State}
    (hb : (s.pockets.get p).bound = some b) (hs : s.ctl.station ≠ .safe) :
    EndRequested b.pack (.aside b.pack r) s.link s (s.retireUngathered p r) := by
  have heq : s.retireUngathered p r =
      ((s.accountAside p r).pocketStops p (.retiring (.setAside r))).requestEnd b.pack (.aside b.pack r) := by
    simp only [State.retireUngathered, hb]
  have hreq := State.requestEnd_requested b.pack (.aside b.pack r)
    (s := (s.accountAside p r).pocketStops p (.retiring (.setAside r))) (by simpa using hs)
  rw [heq]
  simpa using hreq.transfer (u := s) (by simp) (by simp [State.address]) rfl rfl

theorem StationState.gates_not_safe {st : StationState} (h : st.gates = true) : st ≠ .safe := by
  rintro rfl
  exact absurd h nofun

theorem StationState.applies_of_gates {st : StationState} (h : st.gates = true) : st.applies = true := by
  revert h
  cases st <;> decide

/-! ### What a selection does to one pocket and to one entry (R77, R91) -/

/-- Serving changes of a pocket's record the state alone. -/
theorem State.serve_pocket_record (s : State) (p : PocketId) :
    s.serve.pockets.get p = { s.pockets.get p with state := (s.serve.pockets.get p).state } := by
  rcases s.serve_cases with e | ⟨-, -, e⟩ | ⟨x, -, -, -, -, -, e⟩ <;> rw [e]
  · rfl
  · rw [State.grant_pocket]
    split <;> rfl

/-- An entry is in the queue, or has been granted the head (R89). -/
def QueuedOrGranted (x : QueueEntry) (t : State) : Prop :=
  x ∈ t.head.queue ∨
    x.blocked = none ∧
      ∃ op, t.head.state = .busy op ∧ op.pocket = x.pocket ∧ op.job = x.job ∧ op.lane = x.lane ∧ op.stamp = x.stamp ∧
        op.passOvers = x.passOvers

theorem passOver_eq (n : Nat) (e : QueueEntry) : passOver n e = { e with passOvers := (passOver n e).passOvers } := by
  unfold passOver
  split <;> rfl

/-- An entry ahead of which nothing later is chosen keeps its pass-over count. -/
theorem passOver_of_le {n : Nat} {e : QueueEntry} (h : n ≤ e.stamp) : passOver n e = e := by
  unfold passOver
  rw [if_neg fun hc => Nat.not_lt.2 h hc.2]

/-- An entry of the queue is still in it after a selection, or is granted; only a later ready entry that is chosen gives it a
pass-over. -/
theorem State.serve_entry {s : State} {y : QueueEntry} (hy : y ∈ s.head.queue) :
    ∃ x, x = { y with passOvers := x.passOvers } ∧ QueuedOrGranted x s.serve ∧
      (x.passOvers = y.passOvers ∨
        ∃ g ∈ s.head.queue, g ≠ y ∧ g.blocked = none ∧ y.stamp < g.stamp ∧ s.head.state = .idle ∧
          s.ctl.station.selects = true) := by
  rcases s.serve_cases with e | ⟨-, -, e⟩ | ⟨g, hg, hready, -, hidle, hsel, e⟩ <;> rw [e]
  · exact ⟨y, rfl, Or.inl hy, Or.inl rfl⟩
  · exact ⟨y, rfl, Or.inl hy, Or.inl rfl⟩
  · by_cases hgy : y = g
    · subst hgy
      exact ⟨y, rfl, Or.inr ⟨hready, s.grant_busy y⟩, Or.inl rfl⟩
    · have hmem : passOver g.stamp y ∈ (s.grant g).head.queue := by
        simp only [State.grant, State.headTo_queue, State.pocketTo_frame, State.onHead_head]
        exact List.mem_map_of_mem ((List.mem_erase_of_ne hgy).2 hy)
      refine ⟨passOver g.stamp y, passOver_eq _ _, Or.inl hmem, ?_⟩
      by_cases hlt : y.stamp < g.stamp
      · exact Or.inr ⟨g, hg, fun h => hgy h.symm, hready, hlt, hidle, hsel⟩
      · exact Or.inl (by rw [passOver_of_le (Nat.not_lt.1 hlt)])

theorem StationState.selects_iff {st : StationState} :
    st.selects = true ↔ st = .loading ∨ st = .joining ∨ st = .run ∨ st = .drain ∨ st = .standby := by
  cases st <;> simp [StationState.selects]

/-! ### A conversion (R76, R88) -/

section Convert

variable (p : PocketId) (r : AsideReason) (s : State)

/-- A pocket whose job and queue entry have been converted, before the head is served (R76, R88). -/
def State.converted : State :=
  let t := (s.accountAside p r).pocketTo p (.waiting (.setAside r))
  t.onHead fun h => { h with queue := h.queue.map (t.convertEntry p r) }

theorem State.convertWaiting_eq : s.convertWaiting p r = (s.converted p r).serve := rfl

theorem State.converted_pocket :
    (s.converted p r).pockets.get p = { s.pockets.get p with state := .waiting (.setAside r) } := by
  simp [State.converted, State.pocketTo_get]

theorem State.converted_other {q : PocketId} (h : q ≠ p) : (s.converted p r).pockets.get q = s.pockets.get q := by
  simp [State.converted, State.pocketTo_other _ _ h]

/-- The reason with which the converted entry stands (R86). -/
def State.asideReason : Option BlockedReason :=
  ((s.accountAside p r).pocketTo p (.waiting (.setAside r))).blockedReason p (.setAside r)

/-- The entry of a converted pocket (R88). -/
def State.asideEntry (y : QueueEntry) : QueueEntry :=
  { y with job := .setAside r, lane := .normal, blocked := s.asideReason p r }

theorem State.mem_converted_queue {x : QueueEntry} :
    x ∈ (s.converted p r).head.queue ↔
      ∃ y ∈ s.head.queue, x = if y.pocket = p then s.asideEntry p r y else y := by
  simp only [State.converted, State.onHead_head, State.pocketTo_frame, State.accountAside_frame, List.mem_map,
    State.convertEntry, eq_comm (b := x)]
  rfl

/-- A set-aside entry is blocked by the tray alone. -/
theorem BlockedBy.setAside_congr {b : Option BlockedReason} {t : State} {p r s} (h : BlockedBy p (.setAside r) b s)
    (hr : t.rack.tray = s.rack.tray) (hc : t.config = s.config) : BlockedBy p (.setAside r) b t := by
  simpa only [BlockedBy, hr, hc] using h

theorem State.asideReason_blocked : BlockedBy p (.setAside r) (s.asideReason p r) s := by
  have h := ((s.accountAside p r).pocketTo p (.waiting (.setAside r))).blockedReason_blockedBy p (.setAside r)
  exact h.setAside_congr (by simp) (by simp)

/-- A converted pocket stands WAITING with its new job, or has been granted the head with it. -/
theorem State.convertWaiting_job : ((s.convertWaiting p r).pockets.get p).job = some (.setAside r) := by
  rw [State.convertWaiting_eq]
  have hself := s.converted_pocket p r
  rcases (s.converted p r).serve_cases with e | ⟨-, -, e⟩ | ⟨g, hg, -, -, -, -, e⟩ <;> rw [e]
  · rw [hself]; rfl
  · rw [show (s.converted p r).startTest.pockets = (s.converted p r).pockets from rfl, hself]; rfl
  · rw [State.grant_pocket]
    split
    · next hp =>
      obtain ⟨y, -, rfl⟩ := (s.mem_converted_queue p r).1 hg
      split at hp
      · next hy => rw [if_pos hy]; rfl
      · next hy => exact absurd hp.symm hy
    · rw [hself]; rfl

/-- What a conversion does to the pocket, the commitments and the counters (R75, R76). -/
theorem State.convertWaiting_spec :
    (s.convertWaiting p r).pockets.get p =
        { s.pockets.get p with state := ((s.convertWaiting p r).pockets.get p).state } ∧
      CommitmentsReleased p s (s.convertWaiting p r) ∧
      (s.convertWaiting p r).ctl = { s.ctl with counters := s.ctl.counters.bump (.setAside r) } ∧
      (s.convertWaiting p r).head.arrivals = s.head.arrivals := by
  rw [State.convertWaiting_eq]
  refine ⟨?_, ⟨?_, fun n => ?_⟩, ?_, ?_⟩
  · rw [State.serve_pocket_record, State.converted_pocket]
  · simpa [State.converted] using (s.accountAside_released p r).1
  · rw [← (s.accountAside_released p r).2 n]
    exact State.bin_congr (by simp [State.converted]) n
  · simp [State.converted, State.accountAside_ctl]
  · rw [State.serve_arrivals]
    simp [State.converted, State.accountAside_head]

variable {p r s} (h : QueueHoldsWaiting s)
include h

/-- The entry of the pocket has been converted; where an IDLE head had no ready entry, the converted one alone can be granted. -/
theorem State.convertWaiting_entry : EntryConverted p r s (s.convertWaiting p r) := by
  intro y hy hyp
  have hmem : s.asideEntry p r y ∈ (s.converted p r).head.queue :=
    (s.mem_converted_queue p r).2 ⟨y, hy, (if_pos hyp).symm⟩
  obtain ⟨x, hx, hq, hover⟩ := State.serve_entry hmem
  have hblocked : x.blocked = s.asideReason p r := by rw [hx]; rfl
  refine ⟨x, ?_, fun hserved => ?_, ?_, ?_⟩
  · rw [hx]
    rfl
  · rcases hover with hover | ⟨g, hg, hne, hready, -, hidle, hsel⟩
    · exact hover
    · exfalso
      obtain ⟨z, hz, rfl⟩ := (s.mem_converted_queue p r).1 hg
      split at hne
      · next hzp =>
        have : z = y := List.inj_on_of_nodup_map h.1 hz hy (hzp.trans hyp.symm)
        exact hne (by rw [this])
      · next hzp =>
        rw [if_neg hzp] at hready
        have hstation : s.ctl.station.selects = true := by simpa [State.converted] using hsel
        have hstate : s.head.state = .idle := by simpa [State.converted, State.accountAside_head] using hidle
        exact (hserved hstate).2 (StationState.selects_iff.1 hstation) z hz hready
  · rw [hblocked]
    exact (s.asideReason_blocked p r).setAside_congr (by simp) (by simp)
  · have hparts : x.pocket = p ∧ x.job = .setAside r ∧ x.lane = .normal := by rw [hx]; exact ⟨hyp, rfl, rfl⟩
    refine hq.imp_right fun ⟨hb, op, hop, h1, h2, h3, h4, h5⟩ => ⟨hb, op, hop, ?_, ?_, ?_, h4, h5⟩
    · rw [h1, hparts.1]
    · rw [h2, hparts.2.1]
    · rw [h3, hparts.2.2]

/-- The other pockets and entries stand, but for a grant. -/
theorem State.convertWaiting_others : OthersServed (fun q => q = p) s (s.convertWaiting p r) := by
  have hwait : ∀ x ∈ (s.converted p r).head.queue,
      ((s.converted p r).pockets.get x.pocket).state = .waiting x.job := by
    intro x hx
    obtain ⟨y, hy, rfl⟩ := (s.mem_converted_queue p r).1 hx
    split
    · next hyp =>
      rw [show (s.asideEntry p r y).pocket = p from hyp, State.converted_pocket]
      rfl
    · next hyp =>
      rw [State.converted_other _ _ _ hyp]
      exact h.2.1 y hy
  refine State.serve_others hwait (fun q hq => s.converted_other p r hq) (fun y hy hyp => ?_) fun x hx => ?_
  · exact ⟨y, (s.mem_converted_queue p r).2 ⟨y, hy, (if_neg hyp).symm⟩, rfl⟩
  · obtain ⟨y, hy, rfl⟩ := (s.mem_converted_queue p r).1 hx
    split
    · next hyp => exact Or.inl hyp
    · exact Or.inr ⟨y, hy, rfl⟩

end Convert

/-! ### A withdrawal at the owner (R79) -/

/-- Settles O26: by the state of the bound pocket. -/
theorem withdrawnPocketActsByItsState : Obligations.WithdrawnPocketActsByItsState := by
  intro sender w id e a s hsend hw he hst
  have hsender : 16 ≤ sender.toNat ∧ sender.toNat ≤ 19 ∨ sender = 30 := hsend.2.imp_left fun ⟨hf, hlo, hhi⟩ => by omega
  have hf : ¬ (sender.toNat ≠ 30 ∧ id.feed ≠ sender.toNat) := by
    rcases hsend.2 with ⟨hf, -⟩ | rfl
    · exact fun hn => hn.2 hf.symm
    · exact fun hn => hn.1 rfl
  rw [exec_withdraw w hsend.1 hsender]
  refine ⟨_, rfl, ?_⟩
  by_cases hg : s.ctl.station.gates = true
  · refine ⟨fun hn => absurd (hg.symm.trans hn) nofun, fun _ => ?_⟩
    have htake : s.received.withPack w (State.takeWithdraw sender.toNat) = s.received.withdrawAtOwner a.pocket := by
      rw [State.withPack_taken (s := s.received) _ (StationState.applies_of_gates hg) hw,
        State.takeWithdraw_owned (s := s.received) hf he hst]
    rw [htake]
    have hacts : s.received.withdrawAtOwner a.pocket = match (s.pockets.get a.pocket).state with
        | .reserved => s.received.retireUngathered a.pocket .withdrawn
        | .filling => s.received.pocketTo a.pocket (.absorbing .withdrawn)
        | .absorbing _ => s.received
        | .waiting .finish => s.received.convertWaiting a.pocket .withdrawn
        | .waiting (.setAside _) => s.received
        | .waiting .clear => s.received
        | .atHead _ => s.received.count .tooLate
        | .retiring _ => s.received
        | .free => s.received
        | .leftover => s.received := if_pos hg
    rw [hacts]
    cases hp : (s.pockets.get a.pocket).state with
    | reserved =>
      obtain ⟨hpocket, hothers, hreleased, hctl, -⟩ := s.received.retireUngathered_spec a.pocket .withdrawn
      refine ⟨hpocket, hothers, hreleased, hctl, by simp, by simp, by simp, by simp,
        s.received.retireUngathered_head a.pocket .withdrawn, fun b hb => ?_⟩
      exact (State.retireUngathered_requested .withdrawn (s := s.received) hb (StationState.gates_not_safe hg)).transfer rfl
        rfl rfl rfl
    | filling =>
      exact ⟨rfl, State.pocketTo_get _ _ _, fun q hq => State.pocketTo_other _ _ hq⟩
    | absorbing r => rfl
    | waiting j =>
      cases j with
      | finish =>
        obtain ⟨hpocket, hreleased, hctl, harrivals⟩ := s.received.convertWaiting_spec a.pocket .withdrawn
        exact ⟨s.received.convertWaiting_job a.pocket .withdrawn, hpocket, hreleased, by simp, by simp, hctl, by simp,
          by simp, by simp, by simp, by simp, harrivals, fun hq =>
          ⟨State.convertWaiting_entry (s := s.received) hq, State.convertWaiting_others (s := s.received) hq,
            State.serve_served _⟩⟩
      | setAside r => rfl
      | clear => trivial
    | atHead j => rfl
    | retiring j => rfl
    | free => trivial
    | leftover => trivial
  · refine ⟨fun _ => ?_, fun hg' => absurd hg' hg⟩
    by_cases ha : s.ctl.station.applies = true
    · rw [State.withPack_taken (s := s.received) _ ha hw, State.takeWithdraw_owned (s := s.received) hf he hst]
      exact if_neg hg
    · rw [State.withPack_discarded (s := s.received) _ (Bool.eq_false_iff.2 ha)]

end Sys2Proof.Machine

namespace Sys2Proof.Machine

open Sys2Proof.Config

/-! ### A pocket closes (R74, R85, R157) -/

/-- The commitments that a closing gives back (R75): those of a set-aside alone. -/
def State.accounted (p : PocketId) (j : Job) (s : State) : State :=
  match j with
  | .setAside r => s.accountAside p r
  | .finish => s
  | .clear => s

/-- The counters after a closing (R75). -/
def Job.counted (j : Job) (k : Counters) : Counters :=
  match j with
  | .setAside r => k.bump (.setAside r)
  | _ => k

theorem State.closePocket_eq (p : PocketId) (j : Job) (s : State) :
    s.closePocket p j =
      (((s.accounted p j).pocketStops p (.waiting j)).enqueue p j (s.laneFor p j)).serve := by
  cases j <;> rfl

@[simp] theorem State.accounted_frame (p : PocketId) (j : Job) (s : State) :
    (s.accounted p j).part = s.part ∧ (s.accounted p j).config = s.config ∧ (s.accounted p j).link = s.link ∧
      (s.accounted p j).packs = s.packs ∧ (s.accounted p j).pockets = s.pockets ∧
      (s.accounted p j).rack.tray = s.rack.tray ∧ (s.accounted p j).head.queue = s.head.queue ∧
      (s.accounted p j).head.arrivals = s.head.arrivals := by
  cases j <;> simp [State.accounted, State.accountAside_head]

@[simp] theorem State.accounted_ctl (p : PocketId) (j : Job) (s : State) :
    (s.accounted p j).ctl = { s.ctl with counters := j.counted s.ctl.counters } := by
  cases j with
  | setAside r => exact s.accountAside_ctl p r
  | finish => rfl
  | clear => rfl

theorem State.laneFor_laneOf (p : PocketId) (j : Job) (s : State) : LaneOf p j (s.laneFor p j) s := by
  cases j with
  | finish =>
    intro b e hb he
    simp [State.laneFor, State.offerOf, hb, he]
  | setAside r => rfl
  | clear => rfl

/-- A pocket that is not WAITING has no queue entry (R84). -/
theorem QueueHoldsWaiting.not_queued {s : State} {p : PocketId} (h : QueueHoldsWaiting s)
    (hp : ∀ j, (s.pockets.get p).state ≠ .waiting j) : ∀ x ∈ s.head.queue, x.pocket ≠ p := by
  rintro x hx rfl
  exact hp x.job (h.2.1 x hx)

/-- An append makes the hold condition rise as it does from any state with the same queue, tray count and hold. -/
theorem State.enqueue_hold {p : PocketId} {j : Job} (l : Lane) {s v : State} (hq : v.head.queue = s.head.queue)
    (ht : v.rack.tray = s.rack.tray) (hc : v.config = s.config) (hst : v.ctl.station = s.ctl.station)
    (hh : v.ctl.hold = s.ctl.hold) (hl : v.link = s.link) :
    (v.enqueue p j l).ctl = { v.ctl with hold := (v.enqueue p j l).ctl.hold } ∧
      HoldRaised (ConditionRises (s.head.queue.length + 1) s.rack.tray s) s.ctl.hold (v.enqueue p j l).ctl.hold ∧
      HoldQueued (ConditionRises (s.head.queue.length + 1) s.rack.tray s) s.ctl.hold s.cfg.holdTime s.link
        (v.enqueue p j l).link := by
  let u := v.onHead fun h => { h with queue := h.queue ++ [v.newEntry p j l], arrivals := h.arrivals + 1 }
  have hwanted : v.holdCondition = false ↔ ¬ HoldWanted s.head.queue.length s.rack.tray s := by
    rw [← Bool.not_eq_true, v.holdCondition_iff, HoldWanted, HoldWanted, hq, ht, hc]
  have hlength : HoldWanted u.head.queue.length u.rack.tray u ↔
      HoldWanted (s.head.queue.length + 1) s.rack.tray s := by
    simp [HoldWanted, u, hq, ht, hc]
  obtain ⟨hctl, hraised, hqueued⟩ := u.noteHold_raised v.holdCondition
    (ConditionRises (s.head.queue.length + 1) s.rack.tray s) (by
      rw [hwanted, hlength, show u.ctl = v.ctl from rfl, hst, hh]
      rfl)
  have hcfg : u.cfg = s.cfg := by simp only [State.cfg, show u.config = v.config from rfl, hc]
  rw [show u.ctl = v.ctl from rfl, hh] at hraised hqueued
  rw [hcfg, show u.link = v.link from rfl, hl] at hqueued
  exact ⟨congrArg State.ctl hctl, hraised, hqueued⟩

section Close

variable {p : PocketId} {s : State} (j : Job)

/-- The record of the closing pocket, but for its state (R74). -/
theorem State.closePocket_record :
    (s.closePocket p j).pockets.get p =
      { s.pockets.get p with state := ((s.closePocket p j).pockets.get p).state, timer := none } := by
  rw [State.closePocket_eq, State.serve_pocket_record]
  simp [State.pocketStops_get]

/-- The entry of the closing pocket is the last in arrival order, so no selection of the same step passes it over (R85, R91). -/
theorem State.closePocket_appended : EntryAppended p j (s.head.arrivals + 1) s (s.closePocket p j) := by
  let v := (s.accounted p j).pocketStops p (.waiting j)
  let y := v.newEntry p j (s.laneFor p j)
  have hqueue : (v.enqueue p j (s.laneFor p j)).head.queue = s.head.queue ++ [y] := by
    simp [State.enqueue_queue, v, y]
  have hstamp : y.stamp = s.head.arrivals + 1 := by simp [y, State.newEntry, v]
  obtain ⟨x, hx, hgrant, hover⟩ := State.serve_entry (s := v.enqueue p j (s.laneFor p j)) (y := y) (by simp [hqueue])
  have hblocked : BlockedBy p j y.blocked (s.closePocket p j) := by
    rw [State.closePocket_eq]
    have hpocket : (v.enqueue p j (s.laneFor p j)).serve.pockets.get p =
        { v.pockets.get p with state := ((v.enqueue p j (s.laneFor p j)).serve.pockets.get p).state } := by
      rw [State.serve_pocket_record]
      simp
    refine (v.blockedReason_blockedBy p j).congr (by simp [v]) (State.undriven_bound ?_ ?_ ?_)
      (State.targetBin_bound ?_ ?_) (by simp [v]) (by simp [v]) ?_
    · rw [hpocket]
    · rw [hpocket]
    · simp [v]
    · rw [hpocket]
    · simp [v]
    · rw [hpocket]
  refine ⟨x, by rw [hx]; rfl, by rw [hx]; rfl, ?_, by rw [hx]; exact hstamp, fun horder => ?_, by rw [hx]; rfl, ?_, ?_⟩
  · rw [hx]
    exact s.laneFor_laneOf p j
  · rcases hover with hover | ⟨g, hg, hne, -, hlt, -⟩
    · rw [hover]
      rfl
    · rw [hqueue, List.mem_append, List.mem_singleton] at hg
      have := (horder.2 g (hg.resolve_right hne)).1
      omega
  · rw [hx]
    exact hblocked
  · rw [State.closePocket_eq]
    refine hgrant.imp_right fun ⟨hb, op, hop, h1, h2, h3, h4, h5⟩ => ⟨hb, op, hop, ?_, ?_, h3, h4, h5⟩
    · rw [h1, hx]
      rfl
    · rw [h2, hx]
      rfl

variable (hq : ∀ x ∈ s.head.queue, x.pocket ≠ p)
  (hw : ∀ x ∈ s.head.queue, (s.pockets.get x.pocket).state = .waiting x.job)
include hq hw

/-- Everything the closing of a pocket without a queue entry does. -/
theorem State.closePocket_queued : ClosedAndQueued p j s.ctl.counters s (s.closePocket p j) := by
  obtain ⟨hclosed, -, -, -, hothers, hserved⟩ := State.closePocket_spec j hq hw
  let v := (s.accounted p j).pocketStops p (.waiting j)
  obtain ⟨hctl, hraised, hqueued⟩ := State.enqueue_hold (p := p) (j := j) (s.laneFor p j) (s := s) (v := v) (by simp [v])
    (by simp [v]) (by simp [v]) (by simp [v]) (by simp [v]) (by simp [v])
  have hc : (s.closePocket p j).ctl = (v.enqueue p j (s.laneFor p j)).ctl := by
    rw [State.closePocket_eq]
    simp [v]
  have hl : (s.closePocket p j).link = (v.enqueue p j (s.laneFor p j)).link := by
    rw [State.closePocket_eq]
    simp [v]
  refine ⟨hclosed, State.closePocket_appended j, hothers, hserved, ?_, by simp, by simp, by simp, by simp, ?_, ?_, ?_⟩
  · rw [State.closePocket_eq]
    simp
  · rw [hc, hctl]
    simp only [v, State.pocketStops_frame, State.accounted_ctl]
    cases j <;> rfl
  · rwa [hc]
  · rwa [hl]

end Close

/-! ### The pocket timers (R67, R71, R72) -/

theorem exec_gapTimerExpiry {p : PocketId} {s : State} (h : s.running = true) :
    exec (.gapTimerExpiry p) s = .next (s.gapExpires p) := event_running h

theorem exec_firstSheetTimerExpiry {p : PocketId} {s : State} (h : s.running = true) :
    exec (.firstSheetTimerExpiry p) s = .next (s.firstSheetExpires p) := event_running h

/-- Settles O42: by the state of the station and of the pocket. -/
theorem pocketTimersEndTheWait : Obligations.PocketTimersEndTheWait := by
  intro p s hr hq
  rw [exec_gapTimerExpiry hr, exec_firstSheetTimerExpiry hr]
  refine ⟨fun hg => ?_, fun hg => ⟨⟨_, rfl, ?_⟩, _, rfl, ?_⟩⟩
  · simp [State.gapExpires, State.firstSheetExpires, hg]
  · have closes : ∀ r, (∀ j, (s.pockets.get p).state ≠ .waiting j) → s.gapExpires p = s.closePocket p (.setAside r) →
        ClosedAndQueued p (.setAside r) s.ctl.counters s (s.gapExpires p) ∧ (s.gapExpires p).part = s.part ∧
          (s.gapExpires p).pockets.get p =
            { s.pockets.get p with state := ((s.gapExpires p).pockets.get p).state, timer := none } := by
      intro r hnw heq
      rw [heq]
      exact ⟨State.closePocket_queued _ (hq.not_queued hnw) hq.2.1, by simp, State.closePocket_record _⟩
    cases hp : (s.pockets.get p).state with
    | filling => exact closes .gap (by simp [hp]) (by simp [State.gapExpires, hg, hp])
    | absorbing r => exact closes r (by simp [hp]) (by simp [State.gapExpires, hg, hp])
    | _ => simp [State.gapExpires, hg, hp]
  · cases hp : (s.pockets.get p).state with
    | reserved =>
      have heq : s.firstSheetExpires p = s.retireUngathered p .noSheets := by simp [State.firstSheetExpires, hg, hp]
      obtain ⟨hpocket, hothers, hreleased, hctl, -⟩ := s.retireUngathered_spec p .noSheets
      rw [heq]
      exact ⟨hpocket, hothers, hreleased, hctl, by simp, by simp, by simp, by simp, s.retireUngathered_head p .noSheets,
        fun b hb => State.retireUngathered_requested .noSheets hb (StationState.gates_not_safe hg)⟩
    | _ => simp [State.firstSheetExpires, hg, hp]

end Sys2Proof.Machine

namespace Sys2Proof.Machine

open Sys2Proof.Config

/-! ### The end of a head operation (R87, R90, R99, R101) -/

/-- A write of the retained values, seen from an earlier and a later state that agree on what the write reads. -/
theorem StoreWritten.transfer {s u t v : State} (h : StoreWritten s t) (hs : u.store = s.store)
    (hc : u.config = s.config) (hst : v.store = t.store) (hb : v.rack = t.rack)
    (hr : v.head.staples = t.head.staples) : StoreWritten u v := by
  unfold StoreWritten at h ⊢
  rwa [hs, hc, hst, hb, hr]

/-- A re-evaluation changes the reasons of the entries alone. -/
theorem State.mem_reevaluate {s : State} {x : QueueEntry} (h : x ∈ s.reevaluate.head.queue) :
    ∃ y ∈ s.head.queue, x = { y with passOvers := x.passOvers, blocked := x.blocked } := by
  unfold State.reevaluate at h
  split at h
  · exact ⟨x, h, rfl⟩
  · obtain ⟨y, hy, rfl⟩ := List.mem_map.1 h
    exact ⟨y, hy, rfl⟩

theorem State.reevaluate_mem {s : State} {y : QueueEntry} (h : y ∈ s.head.queue) :
    ∃ x ∈ s.reevaluate.head.queue, x = { y with passOvers := x.passOvers, blocked := x.blocked } := by
  unfold State.reevaluate
  split
  · exact ⟨y, h, rfl⟩
  · exact ⟨_, List.mem_map_of_mem h, rfl⟩

theorem passOver_keeps (n : Nat) (e : QueueEntry) :
    (passOver n e).pocket = e.pocket ∧ (passOver n e).job = e.job ∧ (passOver n e).blocked = e.blocked := by
  rw [passOver_eq]
  exact ⟨rfl, rfl, rfl⟩

/-- A selection reads the blocked reasons and leaves them fresh. -/
theorem BlocksFresh.serve {s u : State} (h : BlocksFresh s u) : BlocksFresh s u.serve := by
  intro hf x hx
  obtain ⟨y, hy, hxy⟩ := State.serve_queue hx
  have hparts : x.pocket = y.pocket ∧ x.job = y.job ∧ x.blocked = y.blocked := by
    rcases hxy with rfl | ⟨n, rfl⟩
    · exact ⟨rfl, rfl, rfl⟩
    · exact passOver_keeps n y
  obtain ⟨hpocket, hjob, hblocked⟩ := hparts
  rw [hpocket, hjob, hblocked]
  have hrecord := u.serve_pocket_record y.pocket
  refine (h hf y hy).congr (by simp) (State.undriven_bound ?_ ?_ (by simp)) (State.targetBin_bound ?_ (by simp)) (by simp)
    (by simp) ?_ <;> rw [hrecord]

/-- A selection grants a queued pocket alone. -/
theorem State.serve_busy_pocket {s : State} {p : PocketId} (hi : s.head.state = .idle)
    (hq : ∀ x ∈ s.head.queue, x.pocket ≠ p) {op : Operation} (h : s.serve.head.state = .busy op) : op.pocket ≠ p := by
  rcases s.serve_cases with e | ⟨-, -, e⟩ | ⟨z, hz, -, -, -, -, e⟩ <;> rw [e] at h
  · exact absurd (hi.symm.trans h) nofun
  · exact absurd h nofun
  · obtain ⟨op', hb, hp, -⟩ := s.grant_busy z
    obtain rfl : op' = op := HeadState.busy.inj (hb.symm.trans h)
    rw [hp]
    exact hq z hz

section HeadIdle

variable {p : PocketId} {s u : State} (hh : u.head = s.head) (hq : ∀ x ∈ s.head.queue, x.pocket ≠ p)
include hh

theorem State.headIdle_arrivals : u.headIdle.head.arrivals = s.head.arrivals := by
  rw [show u.headIdle = ((u.headTo .idle).reevaluate).serve from rfl, State.serve_arrivals, ← hh]
  unfold State.reevaluate
  split <;> rfl

theorem State.headIdle_freed_of : HeadFreed s u.headIdle := by
  have h := u.headIdle_freed
  unfold HeadFreed at h ⊢
  rwa [hh] at h

omit hh in
theorem State.headIdle_fresh (hst : u.ctl.station = s.ctl.station) : BlocksFresh s u.headIdle := by
  have h : BlocksFresh (u.headTo .idle) u.headIdle := (u.headTo .idle).reevaluate_fresh.serve
  intro hf
  exact h (by rwa [← hst] at hf)

include hq

/-- No entry of the freed head names the operation's pocket. -/
theorem State.headTo_idle_unqueued : ∀ x ∈ ((u.headTo .idle).reevaluate).head.queue, x.pocket ≠ p := by
  intro x hx
  obtain ⟨y, hy, hxy⟩ := State.mem_reevaluate hx
  rw [hxy]
  exact hq y (by rwa [State.headTo_queue, hh] at hy)

theorem State.headIdle_pocket : u.headIdle.pockets.get p = u.pockets.get p := by
  rw [show u.headIdle = ((u.headTo .idle).reevaluate).serve from rfl,
    State.serve_pocket (State.headTo_idle_unqueued hh hq)]
  simp

theorem State.headIdle_busy_pocket {op : Operation} (h : u.headIdle.head.state = .busy op) : op.pocket ≠ p :=
  State.serve_busy_pocket (by simp) (State.headTo_idle_unqueued hh hq) h

theorem State.headIdle_waiting (hw : QueueHoldsWaiting s) (ho : ∀ q, q ≠ p → u.pockets.get q = s.pockets.get q) :
    ∀ x ∈ ((u.headTo .idle).reevaluate).head.queue,
      (((u.headTo .idle).reevaluate).pockets.get x.pocket).state = .waiting x.job := by
  intro x hx
  obtain ⟨y, hy, hxy⟩ := State.mem_reevaluate hx
  rw [State.headTo_queue, hh] at hy
  rw [hxy]
  simpa [ho _ (hq y hy)] using hw.2.1 y hy

theorem State.headIdle_others (hw : QueueHoldsWaiting s) (ho : ∀ q, q ≠ p → u.pockets.get q = s.pockets.get q) :
    OthersServed (fun q => q = p) s u.headIdle := by
  refine State.serve_others (State.headIdle_waiting hh hq hw ho) (fun q hqp => ?_) (fun y hy _ => ?_) fun x hx => Or.inr ?_
  · simpa using ho q hqp
  · exact State.reevaluate_mem (by rwa [State.headTo_queue, hh])
  · obtain ⟨y, hy, hxy⟩ := State.mem_reevaluate hx
    exact ⟨y, by rwa [State.headTo_queue, hh] at hy, hxy⟩

end HeadIdle

/-! ### The drop (R98, R99, R131) -/

theorem exec_ejectComplete {b : Bool} {s : State} (h : s.running = true) :
    exec (.ejectComplete b) s = .next (s.ejectCompletes b) := event_running h

theorem exec_dropConfirmed {s : State} (h : s.running = true) : exec .dropConfirmed s = .next s.dropConfirms :=
  event_running h

theorem State.ejectCompletes_cleared {op : Operation} {s : State} (h : s.head.state = .busy op) (hp : op.phase = .eject) :
    s.ejectCompletes false = (s.readOccupied op.pocket false).startPhase op .drop := by
  simp [State.ejectCompletes, h, hp]

theorem State.dropConfirms_delivers {op : Operation} {o : Offer} {n : Nat} {s : State} (h : s.head.state = .busy op)
    (hp : op.phase = .drop) (ho : s.offerOf op.pocket = some o) (hb : s.targetBin op.pocket = some n) :
    s.dropConfirms = (s.deliverPack op o n).headIdle := by
  simp [State.dropConfirms, h, hp, ho, hb]

theorem State.recordDrop_bin (op : Operation) (o : Offer) (n : Nat) (s : State) (k : Nat) :
    (s.recordDrop op o n).bin k =
      if k = n then
        (s.bin k).map fun b =>
          { fillPacks := b.fillPacks + 1, fillSheets := b.fillSheets + (s.pockets.get op.pocket).sheets,
            committed := b.committed - 1, roster := b.roster ++ [s.rosterRecord op o n] }
      else s.bin k := by
  rw [← State.bin_onBin]
  exact State.bin_congr (by simp [State.recordDrop]) k

theorem State.recordDrop_written (op : Operation) (o : Offer) (n : Nat) (s : State) :
    StoreWritten s (s.recordDrop op o n) :=
  (State.writeStore_written _).transfer (by simp) (by simp) rfl rfl rfl

@[simp] theorem State.recordDrop_frame (op : Operation) (o : Offer) (n : Nat) (s : State) :
    (s.recordDrop op o n).part = s.part ∧ (s.recordDrop op o n).config = s.config ∧
      (s.recordDrop op o n).ctl = s.ctl ∧ (s.recordDrop op o n).link = s.link ∧ (s.recordDrop op o n).packs = s.packs ∧
      (s.recordDrop op o n).pockets = s.pockets ∧ (s.recordDrop op o n).head = s.head ∧
      (s.recordDrop op o n).rack.tray = s.rack.tray := by
  simp [State.recordDrop]

@[simp] theorem State.deliverPack_frame (op : Operation) (o : Offer) (n : Nat) (s : State) :
    (s.deliverPack op o n).part = s.part ∧ (s.deliverPack op o n).config = s.config ∧
      (s.deliverPack op o n).ctl = { s.ctl with counters := s.ctl.counters.bump .delivered } ∧
      (s.deliverPack op o n).head = s.head ∧ (s.deliverPack op o n).rack = (s.recordDrop op o n).rack ∧
      (s.deliverPack op o n).store = (s.recordDrop op o n).store := by
  simp [State.deliverPack, State.count]

theorem State.deliverPack_pocket (op : Operation) (o : Offer) (n : Nat) (s : State) :
    (s.deliverPack op o n).pockets.get op.pocket = { s.pockets.get op.pocket with state := .retiring op.job } := by
  simp [State.deliverPack, State.pocketTo_get]

theorem State.deliverPack_other {op : Operation} (o : Offer) (n : Nat) (s : State) {q : PocketId} (h : q ≠ op.pocket) :
    (s.deliverPack op o n).pockets.get q = s.pockets.get q := by
  simp [State.deliverPack, State.pocketTo_other _ _ h]

theorem State.deliverPack_requested (op : Operation) (o : Offer) (n : Nat) {s : State} (h : s.ctl.station ≠ .safe) :
    EndRequested o.id (.delivered o.id n (s.dropFlags op o n)) s.link s (s.deliverPack op o n) := by
  have hr := State.requestEnd_requested o.id (.delivered o.id n (s.dropFlags op o n))
    (s := ((s.recordDrop op o n).count .delivered).pocketTo op.pocket (.retiring op.job)) (by simpa using h)
  simpa [State.deliverPack] using hr.transfer (u := s) (by simp) (by simp [State.address]) rfl rfl

/-- Settles O46: the drop is recorded and DELIVERED is asked for, and then the head is freed. -/
theorem ejectedPackIsDroppedAndDelivered : Obligations.EjectedPackIsDroppedAndDelivered := by
  refine ⟨fun op s hr hop hphase => ?_, ?_⟩
  · rw [exec_ejectComplete hr, State.ejectCompletes_cleared hop hphase]
    rfl
  · intro op b e a r flags s hr hop hphase hb he hst hlive hbin hsafe hq hflags
    have hid : e.offer.id = b.pack := State.entry_id he
    have hoffer : s.offerOf op.pocket = some e.offer := by simp [State.offerOf, hb, he]
    have htarget : s.targetBin op.pocket = some a.bin := State.targetBin_iff.2 ⟨b, e, _, a, hb, he, hst, rfl⟩
    have hdrop : s.dropFlags op e.offer a.bin = flags := hflags.symm
    have hhead : (s.deliverPack op e.offer a.bin).head = s.head := by simp
    have hbins : ∀ n, (s.deliverPack op e.offer a.bin).headIdle.bin n = (s.recordDrop op e.offer a.bin).bin n :=
      State.bin_congr (by simp)
    rw [exec_dropConfirmed hr, State.dropConfirms_delivers hop hphase hoffer htarget]
    refine ⟨_, rfl, by simp, by simp, by simp, by simp, by simp, by simp, State.headIdle_arrivals hhead, ?_, fun n hn => ?_,
      ?_, ?_, ?_, fun hw => State.headIdle_others hhead hq hw fun q h => State.deliverPack_other _ _ _ h,
      State.headIdle_fresh (by simp), State.headIdle_freed_of hhead, fun x hx => State.headIdle_busy_pocket hhead hq hx⟩
    · rw [hbins, State.recordDrop_bin, if_pos rfl, hbin]
      simp only [Option.map_some, State.rosterRecord, hdrop, hid]
    · rw [hbins, State.recordDrop_bin, if_neg hn]
    · exact (s.recordDrop_written op e.offer a.bin).transfer rfl rfl (by simp) (by simp) (by simp)
    · rw [State.headIdle_pocket hhead hq, State.deliverPack_pocket]
    · have h := State.deliverPack_requested op e.offer a.bin hsafe
      rw [hid, hdrop] at h
      exact h.transfer rfl rfl (by simp) (by simp)

end Sys2Proof.Machine

namespace Sys2Proof.Machine

open Sys2Proof.Config

/-! ### What a re-scan reads (R22 to R32) -/

/-- Two states agree on all that a re-scan reads. Of a pocket it reads whether it is FREE and whether it is bound. -/
structure SameForBids (s t : State) : Prop where
  packs : t.packs = s.packs
  link : t.link = s.link
  config : t.config = s.config
  part : t.part = s.part
  station : t.ctl.station = s.ctl.station
  staples : t.head.staples = s.head.staples
  readings : t.head.readings = s.head.readings
  rack : t.rack = s.rack
  free : ∀ p, (t.pockets.get p).state = .free ↔ (s.pockets.get p).state = .free
  bound : ∀ p, (t.pockets.get p).isBound = (s.pockets.get p).isBound

section SameForBids

variable {s t : State} (h : SameForBids s t)
include h

theorem SameForBids.cfg : t.cfg = s.cfg := by
  simp only [State.cfg, h.config]

theorem SameForBids.openTo (e : Entry) : t.openTo e = s.openTo e := by
  unfold State.openTo
  rw [show t.address = s.address by simp only [State.address, h.part],
    State.pendingBid_congr (congrArg PackTable.bids h.packs)]

theorem SameForBids.freePocket : t.freePocket = s.freePocket := by
  simp only [State.freePocket, State.claimed, h.free, h.packs]

theorem SameForBids.load : t.load = s.load := by
  simp only [State.load, h.bound, h.packs]

theorem SameForBids.hasPlace (n : Nat) : t.hasPlace n = s.hasPlace n := by
  unfold State.hasPlace
  rw [State.bin_congr (congrArg Rack.bins h.rack), show t.tentative n = s.tentative n by simp only [State.tentative, h.packs],
    h.cfg]

theorem SameForBids.consider (o : Offer) : t.consider o = s.consider o := by
  have hstaples : staplesFit t o = staplesFit s o := by
    have hunpromised : t.unpromised = s.unpromised := by
      simp only [State.unpromised, State.tentativeStaples, h.staples, h.packs]
    unfold staplesFit
    rw [hunpromised]
  have hfinish : finishFits t o = finishFits s o := by
    simp only [finishFits, h.cfg, h.readings]
  have hbin : chooseBin t o = chooseBin s o := by
    simp only [chooseBin, h.cfg, h.hasPlace]
  simp only [State.consider, h.station, h.freePocket, h.cfg, h.load, hstaples, hfinish, hbin]

/-- The agreement survives a bid. -/
theorem SameForBids.placeBid (b : PendingBid) (load : Nat) : SameForBids (s.placeBid b load) (t.placeBid b load) := by
  obtain ⟨hpacks, hlink, hconfig, hpart, hstation, hstaples, hreadings, hrack, hfree, hbound⟩ := h
  refine ⟨?_, ?_, ?_, ?_, ?_, ?_, ?_, ?_, ?_, ?_⟩
  · simp [State.placeBid, State.onPacks, hpacks]
  · by_cases hs : s.ctl.station = .safe <;>
      simp [State.placeBid, State.append, State.onPacks, State.onLink, hstation, hs, hlink]
  · simpa using hconfig
  · simpa using hpart
  · simpa using hstation
  · simpa using hstaples
  · simpa using hreadings
  · simpa using hrack
  · simpa using hfree
  · simpa using hbound

theorem SameForBids.rescanOver (es : List Entry) : SameForBids (rescanOver es s) (rescanOver es t) := by
  induction es generalizing s t with
  | nil => exact h
  | cons e es ih =>
    unfold Machine.rescanOver
    rw [h.openTo e, h.consider e.offer]
    split
    · cases s.consider e.offer with
      | stop => exact h
      | skip => exact ih h
      | bid b load => exact ih (h.placeBid b load)
    · exact ih h

theorem SameForBids.rescan : SameForBids s.rescan t.rescan := by
  unfold State.rescan
  rw [h.packs]
  exact h.rescanOver _

/-- What a re-scan did stands while what it reads stands. -/
theorem Rescanned.transfer {bids : List PendingBid} {l : BayLink} (hr : Rescanned bids l s) : Rescanned bids l t := by
  have hsame : SameForBids { s with packs := { s.packs with bids := bids }, link := l }
      { t with packs := { t.packs with bids := bids }, link := l } :=
    { h with packs := by simp [h.packs], link := rfl }
  exact ⟨h.packs.trans (hr.1.trans hsame.rescan.packs.symm), h.link.trans (hr.2.trans hsame.rescan.link.symm)⟩

end SameForBids

/-- A grant leaves the FREE and the bound pockets as they are. -/
theorem State.headIdle_sameForBids {p : PocketId} {s u : State} (hh : u.head = s.head)
    (hq : ∀ x ∈ s.head.queue, x.pocket ≠ p) (hw : QueueHoldsWaiting s)
    (ho : ∀ q, q ≠ p → u.pockets.get q = s.pockets.get q) : SameForBids u u.headIdle := by
  have hstands : ∀ q, u.headIdle.pockets.get q = u.pockets.get q ∨
      ∃ j, (u.pockets.get q).state = .waiting j ∧
        u.headIdle.pockets.get q = { u.pockets.get q with state := .atHead j } := by
    intro q
    have h := State.serve_pockets (State.headIdle_waiting hh hq hw ho) q
    rwa [show ((u.headTo .idle).reevaluate).pockets = u.pockets by simp] at h
  refine ⟨by simp, by simp, by simp, by simp, by simp, by simp, by simp, by simp, fun q => ?_, fun q => ?_⟩
  · rcases hstands q with h | ⟨j, hj, h⟩ <;> rw [h]
    simp [hj]
  · rcases hstands q with h | ⟨j, hj, h⟩ <;> rw [h]
    simp [Pocket.isBound, hj]

/-! ### The tray (R100, R101, R134, R157) -/

@[simp] theorem State.trayTakes_frame (s : State) :
    s.trayTakes.part = s.part ∧ s.trayTakes.config = s.config ∧ s.trayTakes.head = s.head ∧
      s.trayTakes.packs = s.packs ∧ s.trayTakes.pockets = s.pockets ∧ s.trayTakes.ctl.station = s.ctl.station ∧
      s.trayTakes.rack = { s.rack with tray := s.rack.tray + 1 } := by
  simp [State.trayTakes, State.onRack]

theorem State.trayTakes_written (s : State) : StoreWritten s s.trayTakes :=
  (State.writeStore_written (s.onRack fun r => { r with tray := r.tray + 1 })).transfer rfl rfl
    (by simp [State.trayTakes]) (by simp [State.trayTakes]) (by simp [State.trayTakes])

@[simp] theorem State.readOccupied_frame (p : PocketId) (b : Bool) (s : State) :
    (s.readOccupied p b).part = { s.part with occupied := s.part.occupied.set b p } ∧
      (s.readOccupied p b).config = s.config ∧ (s.readOccupied p b).ctl = s.ctl ∧
      (s.readOccupied p b).head = s.head ∧ (s.readOccupied p b).rack = s.rack :=
  ⟨rfl, rfl, rfl, rfl, rfl⟩

/-- A pack that falls into the tray may raise the hold. -/
theorem State.trayTakes_hold (s : State) :
    s.trayTakes.ctl = { s.ctl with hold := s.trayTakes.ctl.hold } ∧
      HoldRaised (ConditionRises s.head.queue.length (s.rack.tray + 1) s) s.ctl.hold s.trayTakes.ctl.hold ∧
      HoldQueued (ConditionRises s.head.queue.length (s.rack.tray + 1) s) s.ctl.hold s.cfg.holdTime s.link
        s.trayTakes.link := by
  let u := (s.onRack fun r => { r with tray := r.tray + 1 }).writeStore
  have hctl : u.ctl = s.ctl := by simp [u]
  have hlink : u.link = s.link := by simp [u]
  have hconfig : u.config = s.config := by simp [u]
  have hnow : s.holdCondition = false ↔ ¬ HoldWanted s.head.queue.length s.rack.tray s := by
    rw [← Bool.not_eq_true, s.holdCondition_iff]
  have hthen : HoldWanted u.head.queue.length u.rack.tray u ↔ HoldWanted s.head.queue.length (s.rack.tray + 1) s := by
    simp [HoldWanted, u, State.onRack]
  obtain ⟨heq, hraised, hqueued⟩ := u.noteHold_raised s.holdCondition
    (ConditionRises s.head.queue.length (s.rack.tray + 1) s) (by
      rw [hnow, hthen, hctl]
      rfl)
  rw [hctl] at hraised hqueued
  rw [hlink, show u.cfg = s.cfg by simp only [State.cfg, hconfig]] at hqueued
  refine ⟨?_, hraised, hqueued⟩
  have h := congrArg State.ctl heq
  rwa [hctl] at h

theorem State.asidePack_bound {op : Operation} {b : Binding} (r : AsideReason) {s : State}
    (h : (s.pockets.get op.pocket).bound = some b) :
    s.asidePack op r =
      (s.pocketTo op.pocket (.retiring (.setAside r))).requestEnd b.pack (.aside b.pack r) := by
  simp only [State.asidePack, h]

@[simp] theorem State.asidePack_frame (op : Operation) (r : AsideReason) (s : State) :
    (s.asidePack op r).part = s.part ∧ (s.asidePack op r).config = s.config ∧ (s.asidePack op r).head = s.head ∧
      (s.asidePack op r).ctl = s.ctl ∧ (s.asidePack op r).rack = s.rack ∧ (s.asidePack op r).store = s.store ∧
      (s.asidePack op r).packs.bids = s.packs.bids ∧
      (s.asidePack op r).pockets = (s.pocketTo op.pocket (.retiring (.setAside r))).pockets := by
  unfold State.asidePack
  split <;> simp

/-- How an operation that ends at the tray ends, by its job (R100, R101). -/
def State.trayEnded (op : Operation) (s : State) : State :=
  match op.job with
  | .setAside r => s.trayTakes.asidePack op r
  | .clear => (s.trayTakes.onPocket op.pocket fun _ => Pocket.empty).rescan
  | .finish => s.trayTakes

theorem State.trayDropConfirms_ends {op : Operation} {s : State} (h : s.head.state = .busy op)
    (hp : op.phase = .trayDrop) :
    s.trayDropConfirms false = ((s.readOccupied op.pocket false).trayEnded op).headIdle := by
  simp only [State.trayDropConfirms, h, hp, State.trayEnded, Bool.false_eq_true, if_false]
  cases op.job <;> rfl

@[simp] theorem State.trayEnded_frame (op : Operation) (s : State) :
    (s.trayEnded op).part = s.part ∧ (s.trayEnded op).config = s.config ∧ (s.trayEnded op).head = s.head ∧
      (s.trayEnded op).ctl = s.trayTakes.ctl ∧ (s.trayEnded op).rack = { s.rack with tray := s.rack.tray + 1 } ∧
      (s.trayEnded op).store = s.trayTakes.store := by
  unfold State.trayEnded
  split <;> simp

theorem State.trayEnded_other {op : Operation} (s : State) {q : PocketId} (h : q ≠ op.pocket) :
    (s.trayEnded op).pockets.get q = s.pockets.get q := by
  unfold State.trayEnded
  split <;> simp [State.pocketTo_other _ _ h, State.onPocket_other _ _ h]

theorem State.trayEnded_written (op : Operation) (s : State) : StoreWritten s (s.trayEnded op) :=
  s.trayTakes_written.transfer rfl rfl (by simp) (by simp) (by simp)

theorem exec_trayDropConfirmed {b : Bool} {s : State} (h : s.running = true) :
    exec (.trayDropConfirmed b) s = .next (s.trayDropConfirms b) := event_running h

/-- A CLEAR operation frees its pocket and runs a re-scan (R101). -/
theorem State.trayEnded_clear {op : Operation} {s : State} (h : op.job = .clear) :
    (s.trayEnded op).pockets.get op.pocket = Pocket.empty ∧ (s.trayEnded op).packs.entries = s.packs.entries ∧
      Rescanned s.packs.bids s.trayTakes.link (s.trayEnded op) := by
  have heq : s.trayEnded op = (s.trayTakes.onPocket op.pocket fun _ => Pocket.empty).rescan := by
    simp only [State.trayEnded, h]
  rw [heq]
  refine ⟨by simp, by simp, ?_⟩
  simpa using (s.trayTakes.onPocket op.pocket fun _ => Pocket.empty).rescan_rescanned

/-- A SET_ASIDE operation retires its pocket and asks for ASIDE (R77, R101). -/
theorem State.trayEnded_setAside {op : Operation} {r : AsideReason} {s : State} (h : op.job = .setAside r) :
    (s.trayEnded op).pockets.get op.pocket = { s.pockets.get op.pocket with state := .retiring (.setAside r) } ∧
      (s.trayEnded op).packs.bids = s.packs.bids ∧
      ∀ b, (s.pockets.get op.pocket).bound = some b → s.ctl.station ≠ .safe →
        EndRequested b.pack (.aside b.pack r) s.trayTakes.link s (s.trayEnded op) := by
  have heq : s.trayEnded op = s.trayTakes.asidePack op r := by simp only [State.trayEnded, h]
  rw [heq]
  refine ⟨by simp [State.pocketTo_get], by simp, fun b hb hs => ?_⟩
  have hreq := State.requestEnd_requested b.pack (.aside b.pack r)
    (s := s.trayTakes.pocketTo op.pocket (.retiring (.setAside r))) (by simpa using hs)
  rw [State.asidePack_bound r (by simpa using hb)]
  simpa using hreq.transfer (u := s) (by simp) (by simp [State.address]) rfl rfl

/-- Settles O47: the pack falls into the tray, the operation ends by its job, and then the head is freed. -/
theorem trayDropEndsTheOperation : Obligations.TrayDropEndsTheOperation := by
  intro op c s hr hop hphase hc hq
  let u := s.readOccupied op.pocket false
  obtain ⟨hctl, hraised, hqueued⟩ := u.trayTakes_hold
  have hhead : (u.trayEnded op).head = s.head := (u.trayEnded_frame op).2.2.1
  have hother : ∀ q, q ≠ op.pocket → (u.trayEnded op).pockets.get q = s.pockets.get q := fun q h => u.trayEnded_other h
  have htime : u.cfg.holdTime = c.holdTime := by
    simp only [State.cfg, show u.config = s.config from rfl, hc, Option.getD_some]
  rw [htime] at hqueued
  rw [exec_trayDropConfirmed hr, State.trayDropConfirms_ends hop hphase]
  have hctlIdle : (u.trayEnded op).headIdle.ctl = u.trayTakes.ctl := by simp
  have hpacks : (u.trayEnded op).headIdle.packs = (u.trayEnded op).packs := by simp
  have hstation : (u.trayEnded op).ctl.station = s.ctl.station := by simp [u]
  refine ⟨_, rfl, by simp, by simp, by simp,
    (u.trayEnded_written op).transfer rfl rfl (by simp [u]) (by simp [u]) (by simp [u]),
    by simp, by simp,
    State.headIdle_arrivals hhead, fun hw => State.headIdle_others hhead hq hw hother, ?_, State.headIdle_fresh hstation,
    State.headIdle_freed_of hhead, fun x hx => State.headIdle_busy_pocket hhead hq hx, ?_, fun hj => ?_, fun r hj => ?_⟩
  · rw [hctlIdle]
    exact hctl
  · rw [hctlIdle]
    exact hraised
  · obtain ⟨hpocket, hentries, hrescanned⟩ := u.trayEnded_clear hj
    refine ⟨(State.headIdle_pocket hhead hq).trans hpocket, (congrArg PackTable.entries hpacks).trans hentries,
      fun hw => ⟨_, hqueued, ?_⟩⟩
    exact hrescanned.transfer (State.headIdle_sameForBids hhead hq hw hother)
  · obtain ⟨hpocket, hbids, hrequested⟩ := u.trayEnded_setAside hj
    refine ⟨(State.headIdle_pocket hhead hq).trans hpocket, (congrArg PackTable.bids hpacks).trans hbids, _, hqueued,
      fun b hb hs => ?_⟩
    exact (hrequested b hb hs).transfer rfl rfl (by simp [u]) hpacks

end Sys2Proof.Machine

namespace Sys2Proof.Machine

open Sys2Proof.Config

/-! ### A sound transmit queue (R165, R168, R169) -/

/-- The mark of an element fits it: only a BID waits to be removed and only a REPORT to be replaced, each for the end of its attempt
(R169). -/
def TxEntry.MarkFits (e : TxEntry) : Prop :=
  (e.mark ≠ .none → e.attempting = true) ∧ (e.mark = .remove → e.frame.isKind .bid = true) ∧
    (e.mark = .replace → e.frame.isKind .report = true)

/-- What TransmitSound says of the link whatever the station state. -/
structure LinkSound (l : BayLink) : Prop where
  order : l.queue.Pairwise SentBefore
  distinct : (l.queue.map TxEntry.number).Nodup
  below : ∀ e ∈ l.queue, e.number < l.nextNumber
  attempts : l.queue.countP TxEntry.attempting ≤ 1
  marks : ∀ e ∈ l.queue, e.MarkFits

/-- The number of HALT frames in the transmit queue. -/
def haltsIn (l : BayLink) : Nat := l.queue.countP fun e => e.frame.isKind .halt

/-- A sound link with `n` HALT frames, empty in SAFE, at a station that is in HALTING or not. -/
structure LinkHolds (halting : Bool) (n : Nat) (s : State) : Prop where
  sound : LinkSound s.link
  halts : haltsIn s.link = n
  safe : s.ctl.station = .safe → s.link.queue = []
  station : s.ctl.station = .halting ↔ halting = true

theorem transmitSound_iff {s : State} : TransmitSound s ↔ ∃ d : Bool, LinkHolds d d.toNat s := by
  constructor
  · rintro ⟨horder, hdistinct, hbelow, hattempts, hmarks, hhalts, hsafe⟩
    refine ⟨decide (s.ctl.station = .halting), ⟨horder, hdistinct, hbelow, hattempts, hmarks⟩, ?_, hsafe, by simp⟩
    rw [haltsIn, hhalts]
    split <;> simp_all
  · rintro ⟨d, ⟨horder, hdistinct, hbelow, hattempts, hmarks⟩, hhalts, hsafe, hstation⟩
    refine ⟨horder, hdistinct, hbelow, hattempts, hmarks, ?_, hsafe⟩
    rw [haltsIn] at hhalts
    cases d <;> simp_all

theorem LinkHolds.transmitSound {d : Bool} {s : State} (h : LinkHolds d d.toNat s) : TransmitSound s :=
  transmitSound_iff.2 ⟨d, h⟩

/-- Some of the frames of a sound queue, in its order. -/
theorem LinkSound.sublist {l m : BayLink} (h : LinkSound l) (hq : m.queue.Sublist l.queue)
    (hn : m.nextNumber = l.nextNumber) : LinkSound m where
  order := h.order.sublist hq
  distinct := h.distinct.sublist (hq.map _)
  below := fun e he => hn ▸ h.below e (hq.subset he)
  attempts := hq.countP_le.trans h.attempts
  marks := fun e he => h.marks e (hq.subset he)

/-- A change of attempts and marks alone. -/
theorem LinkSound.map {l m : BayLink} {f : TxEntry → TxEntry} (h : LinkSound l) (hq : m.queue = l.queue.map f)
    (hn : m.nextNumber = l.nextNumber) (hf : ∀ x, (f x).number = x.number ∧ (f x).frame = x.frame)
    (ha : m.queue.countP TxEntry.attempting ≤ 1) (hm : ∀ e ∈ l.queue, (f e).MarkFits) : LinkSound m where
  order := by
    rw [hq, List.pairwise_map]
    refine h.order.imp fun {x y} hxy => ?_
    simpa only [SentBefore, (hf x).1, (hf x).2, (hf y).1, (hf y).2] using hxy
  distinct := by
    have : TxEntry.number ∘ f = TxEntry.number := funext fun x => (hf x).1
    rw [hq, List.map_map, this]
    exact h.distinct
  below := by
    rw [hq, hn]
    intro e he
    obtain ⟨x, hx, rfl⟩ := List.mem_map.1 he
    exact (hf x).1 ▸ h.below x hx
  attempts := ha
  marks := by
    rw [hq]
    intro e he
    obtain ⟨x, hx, rfl⟩ := List.mem_map.1 he
    exact hm x hx

theorem haltsIn_map {l m : BayLink} {f : TxEntry → TxEntry} (hq : m.queue = l.queue.map f)
    (hf : ∀ x, (f x).frame = x.frame) : haltsIn m = haltsIn l := by
  simp only [haltsIn, hq, List.countP_map, Function.comp_def, hf]

theorem pairwise_insertFrame {e : TxEntry} {q : List TxEntry} (h : q.Pairwise SentBefore)
    (hn : ∀ x ∈ q, x.number < e.number) : (insertFrame e q).Pairwise SentBefore := by
  induction q with
  | nil => exact List.pairwise_singleton _ _
  | cons x xs ih =>
    obtain ⟨hx, hxs⟩ := List.pairwise_cons.1 h
    unfold insertFrame
    split
    · next hle =>
      refine List.pairwise_cons.2 ⟨fun y hy => ?_, ih hxs fun y hy => hn y (List.mem_cons_of_mem x hy)⟩
      rcases mem_insertFrame.1 hy with rfl | hy
      · have := hn x List.mem_cons_self
        unfold SentBefore
        omega
      · exact hx y hy
    · next hgt =>
      refine List.pairwise_cons.2 ⟨fun y hy => Or.inl ?_, h⟩
      rcases List.mem_cons.1 hy with rfl | hy
      · omega
      · have := hx y hy
        unfold SentBefore at this
        omega

/-- A new frame goes in behind its precedence (R168). -/
theorem LinkSound.insert {l : BayLink} (h : LinkSound l) (f : TxFrame) :
    LinkSound
      { l with
        queue := insertFrame { number := l.nextNumber, frame := f, attempting := false, mark := .none } l.queue
        nextNumber := l.nextNumber + 1 } where
  order := pairwise_insertFrame h.order h.below
  distinct := by
    rw [((insertFrame_perm _ _).map TxEntry.number).nodup_iff, List.map_cons, List.nodup_cons]
    refine ⟨fun hm => ?_, h.distinct⟩
    obtain ⟨x, hx, hxn⟩ := List.mem_map.1 hm
    exact Nat.lt_irrefl _ (hxn ▸ h.below x hx)
  below := fun e he => by
    rcases mem_insertFrame.1 he with rfl | he
    · exact Nat.lt_succ_self _
    · exact Nat.lt_succ_of_lt (h.below e he)
  attempts := by
    rw [(insertFrame_perm _ _).countP_eq, List.countP_cons]
    simpa using h.attempts
  marks := fun e he => by
    rcases mem_insertFrame.1 he with rfl | he
    · simp [TxEntry.MarkFits]
    · exact h.marks e he

theorem haltsIn_insert (l : BayLink) (f : TxFrame) (n : Nat) :
    haltsIn { l with
      queue := insertFrame { number := l.nextNumber, frame := f, attempting := false, mark := .none } l.queue
      nextNumber := n } = haltsIn l + (f.isKind .halt).toNat := by
  simp only [haltsIn]
  rw [(insertFrame_perm _ _).countP_eq, List.countP_cons]
  cases f.isKind .halt <;> rfl

/-- Frames that leave the queue, none of them a HALT, leave as many HALT frames. -/
theorem haltsIn_filter {l m : BayLink} {p : TxEntry → Bool} (hq : m.queue = l.queue.filter p)
    (hp : ∀ x ∈ l.queue, p x = false → x.frame.isKind .halt = false) : haltsIn m = haltsIn l := by
  simp only [haltsIn, hq, List.countP_filter]
  refine List.countP_congr fun x hx => ?_
  cases h : p x
  · simp [hp x hx h]
  · simp

theorem attempt_mem {s : State} {e : TxEntry} (h : s.attempt = some e) : e ∈ s.link.queue ∧ e.attempting = true :=
  ⟨List.mem_of_find?_eq_some h, by simpa using List.find?_some h⟩

theorem TxFrame.not_halt_of_bid {f : TxFrame} (h : f.isKind .bid = true) : f.isKind .halt = false := by
  cases f <;> simp_all [TxFrame.isKind, TxFrame.kind]

theorem TxFrame.not_halt_of_report {f : TxFrame} (h : f.isKind .report = true) : f.isKind .halt = false := by
  cases f <;> simp_all [TxFrame.isKind, TxFrame.kind]

theorem TxFrame.isKind_of_isBidFor {f : TxFrame} {id : PackId} (h : f.isBidFor id = true) : f.isKind .bid = true := by
  cases f <;> simp_all [TxFrame.isBidFor, TxFrame.isKind, TxFrame.kind]

theorem TxFrame.isKind_of_isReport {f : TxFrame} (h : f.isReport = true) : f.isKind .report = true := by
  cases f <;> simp_all [TxFrame.isReport, TxFrame.isKind, TxFrame.kind]

/-! ### What keeps a sound link -/

section LinkHolds

variable {d : Bool} {n : Nat} {s t : State}

theorem LinkHolds.congr (h : LinkHolds d n s) (hl : t.link = s.link) (hs : t.ctl.station = s.ctl.station) :
    LinkHolds d n t := by
  obtain ⟨hsound, hhalts, hsafe, hstation⟩ := h
  exact ⟨hl ▸ hsound, hl ▸ hhalts, hl ▸ hs ▸ hsafe, hs ▸ hstation⟩

theorem keepsLink_of_eq {f : State → State} (h : ∀ s, (f s).link = s.link ∧ (f s).ctl.station = s.ctl.station) :
    Keeps (LinkHolds d n) f := fun s hs => hs.congr (h s).1 (h s).2

/-- The station goes from one state outside HALTING to another that is not SAFE. -/
theorem LinkHolds.move (h : LinkHolds false n s) (hl : t.link = s.link) (hh : t.ctl.station ≠ .halting)
    (hs : t.ctl.station ≠ .safe) : LinkHolds false n t := by
  obtain ⟨hsound, hhalts, -, -⟩ := h
  exact ⟨hl ▸ hsound, hl ▸ hhalts, fun hn => absurd hn hs, by simpa using hh⟩

theorem LinkHolds.not_halting (h : LinkHolds false n s) : s.ctl.station ≠ .halting := fun hs =>
  absurd (h.station.1 hs) nofun

/-- Outside HALTING, and so with no HALT queued, a sound transmit queue is one with this condition. -/
theorem TransmitSound.calm (h : TransmitSound s) (hs : s.ctl.station ≠ .halting) : LinkHolds false 0 s := by
  obtain ⟨d, hd⟩ := transmitSound_iff.1 h
  cases d with
  | false => exact hd
  | true => exact absurd (hd.station.2 rfl) hs

theorem keepsTransmit_of {f : State → State} (h : ∀ d n, Keeps (LinkHolds d n) f) : Keeps TransmitSound f := by
  intro s hs
  obtain ⟨d, hd⟩ := transmitSound_iff.1 hs
  exact (h d _ s hd).transmitSound

/-- Some of the frames stay, with every HALT among them. -/
theorem LinkHolds.filter {p : TxEntry → Bool} (h : LinkHolds d n s) (hq : t.link.queue = s.link.queue.filter p)
    (hn : t.link.nextNumber = s.link.nextNumber) (hs : t.ctl.station = s.ctl.station)
    (hp : ∀ x ∈ s.link.queue, p x = false → x.frame.isKind .halt = false) : LinkHolds d n t where
  sound := h.sound.sublist (hq ▸ List.filter_sublist) hn
  halts := (haltsIn_filter hq hp).trans h.halts
  safe := fun hsafe => by rw [hq, h.safe (hs ▸ hsafe), List.filter_nil]
  station := hs ▸ h.station

/-- An append, to which SAFE is closed (R172). -/
theorem LinkHolds.append (h : LinkHolds d n s) (f : TxFrame) (hs : s.ctl.station ≠ .safe) :
    LinkHolds d (n + (f.isKind .halt).toNat) (s.append f) := by
  have hl : (s.append f).link =
      { s.link with
        queue := insertFrame { number := s.link.nextNumber, frame := f, attempting := false, mark := .none } s.link.queue
        nextNumber := s.link.nextNumber + 1 } := by
    simp [State.append, hs]
  refine ⟨hl ▸ h.sound.insert f, ?_, fun hsafe => ?_, ?_⟩
  · rw [hl, haltsIn_insert, h.halts]
  · exact absurd hsafe (by simpa using hs)
  · simpa using h.station

theorem append_keepsLink {f : TxFrame} (hf : f.isKind .halt = false) : Keeps (LinkHolds d n) (State.append f) := by
  intro s h
  by_cases hs : s.ctl.station = .safe
  · rwa [State.append_safe hs]
  · simpa [hf] using h.append f hs

theorem appendReport_keepsLink (a : Ask) : Keeps (LinkHolds d n) (State.appendReport a) := by
  intro s h
  refine (append_keepsLink (f := .report a (s.reportContent a)) rfl s h).congr ?_ ?_ <;>
    cases a <;> simp [State.appendReport]

/-- A frame that is no HALT leaves the queue. -/
theorem LinkHolds.dropFrame {e : TxEntry} (h : LinkHolds d n s) (he : e ∈ s.link.queue)
    (hf : e.frame.isKind .halt = false) : LinkHolds d n (s.dropFrame e.number) := by
  refine h.filter (p := fun x => decide (x.number ≠ e.number)) rfl rfl rfl fun x hx hp => ?_
  have hnum : x.number = e.number := by simpa using hp
  rwa [number_inj h.sound.distinct hx he hnum]

/-- A frame under attempt is marked. -/
theorem LinkHolds.markFrame {e : TxEntry} {m : TxMark} (h : LinkHolds d n s) (he : e ∈ s.link.queue)
    (hm : ({ e with mark := m } : TxEntry).MarkFits) : LinkHolds d n (s.markFrame e.number m) where
  sound := by
    have hf : ∀ x : TxEntry, (if x.number = e.number then { x with mark := m } else x).attempting = x.attempting :=
      fun x => by split <;> rfl
    refine h.sound.map (f := fun x => if x.number = e.number then { x with mark := m } else x) rfl rfl
      (fun x => by split <;> exact ⟨rfl, rfl⟩) ?_ fun x hx => ?_
    · simpa [State.markFrame, List.countP_map, Function.comp_def, hf] using h.sound.attempts
    · split
      · next hnum => rwa [number_inj h.sound.distinct hx he hnum]
      · exact h.sound.marks x hx
  halts := (haltsIn_map (f := fun x => if x.number = e.number then { x with mark := m } else x) rfl
    fun x => by split <;> rfl).trans h.halts
  safe := fun hs => by simp [State.markFrame, h.safe hs]
  station := h.station

theorem replaceReport_keepsLink (a : Ask) : Keeps (LinkHolds d n) (State.replaceReport a) := by
  intro s h
  unfold State.replaceReport
  split
  · exact appendReport_keepsLink a s h
  · next e he =>
    have hmem := List.mem_of_find?_eq_some he
    have hkind : e.frame.isKind .report = true := TxFrame.isKind_of_isReport (by simpa using List.find?_some he)
    split
    · next ha => exact h.markFrame hmem ⟨fun _ => ha, nofun, fun _ => hkind⟩
    · exact appendReport_keepsLink a _ (h.dropFrame hmem (TxFrame.not_halt_of_report hkind))

theorem takeAsk_keepsLink (a : Ask) : Keeps (LinkHolds d n) (State.takeAsk a) := by
  intro s h
  have hslot : LinkHolds d n (s.onCtl fun k => { k with reportSlot := some a }) := h.congr rfl rfl
  unfold State.takeAsk
  dsimp only
  split
  · exact appendReport_keepsLink a _ hslot
  · exact replaceReport_keepsLink a _ hslot

theorem asked_keepsLink (a : Ask) : Keeps (LinkHolds d n) (State.asked a) := by
  intro s h
  unfold State.asked
  split
  · exact takeAsk_keepsLink a s h
  · exact h

theorem judgeDrain_keepsLink : Keeps (LinkHolds d n) State.judgeDrain := by
  intro s h
  unfold State.judgeDrain
  split
  · next hdrain =>
    cases d with
    | false => exact h.move rfl nofun nofun
    | true => exact absurd (hdrain.1.symm.trans (h.station.2 rfl)) nofun
  · exact h

theorem releaseBid_keepsLink (id : PackId) : Keeps (LinkHolds d n) (State.releaseBid id) := fun s h =>
  judgeDrain_keepsLink (s.dropBid id) (h.congr rfl rfl)

theorem removeBid_keepsLink (id : PackId) : Keeps (LinkHolds d n) (State.removeBid id) := by
  intro s h
  unfold State.removeBid
  split
  · exact releaseBid_keepsLink id s h
  · next e he =>
    have hmem := List.mem_of_find?_eq_some he
    have hkind : e.frame.isKind .bid = true :=
      TxFrame.isKind_of_isBidFor (id := id) (by simpa using List.find?_some he)
    split
    · next ha => exact h.markFrame hmem ⟨fun _ => ha, fun _ => hkind, nofun⟩
    · exact releaseBid_keepsLink id _ (h.dropFrame hmem (TxFrame.not_halt_of_bid hkind))

/-- A condition that every step of a fold keeps, the fold keeps. -/
theorem foldl_keepsCondition {α : Type} {P : State → Prop} {f : State → α → State} (h : ∀ a, Keeps P fun s => f s a) (l : List α) :
    Keeps P fun s => l.foldl f s := by
  induction l with
  | nil => exact fun _ hs => hs
  | cons a l ih => exact fun s hs => ih _ (h a s hs)

theorem withdrawUnsent_keepsLink : Keeps (LinkHolds d n) State.withdrawUnsent := fun s h =>
  foldl_keepsCondition (f := fun t (b : PendingBid) => t.removeBid b.id) (fun b => removeBid_keepsLink b.id) _ s h

end LinkHolds

end Sys2Proof.Machine

namespace Sys2Proof.Machine

open Sys2Proof.Config

section LinkHolds

variable {d : Bool} {n : Nat}

/-- The attempt of `e` is over: the frame is neither under attempt nor marked. -/
theorem LinkHolds.attemptOver {s : State} (e : TxEntry) (h : LinkHolds d n s) :
    LinkHolds d n (s.onLink fun l =>
      { l with
        queue := l.queue.map fun x => if x.number = e.number then { x with attempting := false, mark := .none } else x
        lastEnded := some e.number }) := by
  let f : TxEntry → TxEntry := fun x => if x.number = e.number then { x with attempting := false, mark := .none } else x
  have hf : ∀ x, (f x).number = x.number ∧ (f x).frame = x.frame := fun x => by
    simp only [f]
    split <;> exact ⟨rfl, rfl⟩
  have hfewer : ∀ x, (f x).attempting = true → x.attempting = true := fun x => by
    simp only [f]
    split <;> simp
  refine ⟨h.sound.map (f := f) rfl rfl hf ?_ fun x hx => ?_, (haltsIn_map (f := f) rfl fun x => (hf x).2).trans h.halts,
    fun hs => by simp [h.safe hs], h.station⟩
  · refine le_trans ?_ h.sound.attempts
    simp only [State.onLink_link, List.countP_map]
    exact List.countP_mono_left fun x _ => hfewer x
  · simp only [f]
    split
    · simp [TxEntry.MarkFits]
    · exact h.sound.marks x hx

theorem endAttempt_keepsLink : Keeps (LinkHolds d n) State.endAttempt := by
  intro s h
  unfold State.endAttempt
  split
  · exact h
  · next e he =>
    obtain ⟨hmem, -⟩ := attempt_mem he
    obtain ⟨-, hremove, hreplace⟩ := h.sound.marks e hmem
    have hover := h.attemptOver e
    have hdrop : e.frame.isKind .halt = false → LinkHolds d n ((s.onLink fun l =>
        { l with
          queue := l.queue.map fun x => if x.number = e.number then { x with attempting := false, mark := .none } else x
          lastEnded := some e.number }).dropFrame e.number) := fun hk =>
      hover.dropFrame (e := { e with attempting := false, mark := .none })
        (List.mem_map.2 ⟨e, hmem, if_pos rfl⟩) hk
    dsimp only
    split
    · exact hover
    · next hm =>
      have hd := hdrop (TxFrame.not_halt_of_bid (hremove hm))
      unfold State.reportRemoval
      split
      · exact releaseBid_keepsLink _ _ hd
      · exact hd
    · next hm =>
      have hd := hdrop (TxFrame.not_halt_of_report (hreplace hm))
      split
      · exact hd
      · exact appendReport_keepsLink _ _ hd

/-- The head of a queue in which nothing is under attempt takes part in a contention. -/
theorem LinkSound.attemptHead {l : BayLink} {e : TxEntry} {rest : List TxEntry} (h : LinkSound l)
    (hq : l.queue = e :: rest) (hno : ∀ x ∈ l.queue, x.attempting = false) :
    LinkSound { l with queue := { e with attempting := true } :: rest } where
  order := by
    have horder := h.order
    rw [hq, List.pairwise_cons] at horder
    exact List.pairwise_cons.2 horder
  distinct := by
    have hdistinct := h.distinct
    rw [hq] at hdistinct
    exact hdistinct
  below := by
    have hbelow := h.below
    rw [hq, List.forall_mem_cons] at hbelow
    exact List.forall_mem_cons.2 hbelow
  attempts := by
    have hzero : rest.countP TxEntry.attempting = 0 :=
      List.countP_eq_zero.2 fun x hx => by simp [hno x (hq ▸ List.mem_cons_of_mem e hx)]
    simp [hzero]
  marks := by
    have hmarks := h.marks
    rw [hq, List.forall_mem_cons] at hmarks
    exact List.forall_mem_cons.2 ⟨⟨fun _ => rfl, hmarks.1.2⟩, hmarks.2⟩

theorem State.attempt_eq_none {s : State} : s.attempt = none ↔ ∀ x ∈ s.link.queue, x.attempting = false := by
  simp [State.attempt]

theorem State.startAttempt_head {s : State} {e : TxEntry} {rest : List TxEntry} (hq : s.link.queue = e :: rest)
    (hno : s.attempt = none) :
    s.startAttempt = { s with link := { s.link with queue := { e with attempting := true } :: rest } } := by
  simp only [State.startAttempt, hno, State.onLink, hq]

theorem State.startAttempt_nil {s : State} (hq : s.link.queue = []) : s.startAttempt = s := by
  have hl : s.link = { s.link with queue := [] } := by rw [← hq]
  unfold State.startAttempt
  split
  · rfl
  · simp only [State.onLink, hq]
    rw [← hl]

theorem State.startAttempt_under {s : State} {e : TxEntry} (h : s.attempt = some e) : s.startAttempt = s := by
  simp only [State.startAttempt, h]

theorem startAttempt_keepsLink : Keeps (LinkHolds d n) State.startAttempt := by
  intro s h
  cases hno : s.attempt with
  | some e => rwa [State.startAttempt_under hno]
  | none =>
    cases hq : s.link.queue with
    | nil => rwa [State.startAttempt_nil hq]
    | cons e rest =>
      rw [State.startAttempt_head hq hno]
      refine ⟨h.sound.attemptHead hq (State.attempt_eq_none.1 hno), ?_, fun hs => ?_, h.station⟩
      · rw [← h.halts]
        simp [haltsIn, hq, List.countP_cons]
      · exact absurd (h.safe hs) (by rw [hq]; nofun)

theorem arbitrate_keepsLink (others : List Arbitration) : Keeps (LinkHolds d n) (State.arbitrate others) := by
  intro s h
  unfold State.arbitrate
  split
  · exact h
  · split
    · exact h
    · exact endAttempt_keepsLink s h

theorem enterContention_keepsLink : Keeps (LinkHolds d n) State.enterContention := fun s h =>
  startAttempt_keepsLink _ (endAttempt_keepsLink s h)

theorem contends_keepsLink (m : ContentionMoment) : Keeps (LinkHolds d n) (State.contends m) := by
  intro s h
  unfold State.contends
  split
  · cases m with
    | whole others => exact arbitrate_keepsLink others _ (enterContention_keepsLink s h)
    | begins => exact enterContention_keepsLink s h
    | arbitrates others => exact arbitrate_keepsLink others s h
    | differs => exact endAttempt_keepsLink s h
  · exact h

/-! The hold (R156, R157) -/

theorem raiseHold_keepsLink : Keeps (LinkHolds d n) State.raiseHold := by
  intro s h
  unfold State.raiseHold
  split
  · split
    · exact h.congr rfl rfl
    · exact (append_keepsLink (f := .hold s.cfg.holdTime) rfl s h).congr rfl rfl
  · exact h

theorem noteHold_keepsLink (before : Bool) : Keeps (LinkHolds d n) (State.noteHold before) := by
  intro s h
  unfold State.noteHold
  split
  · exact raiseHold_keepsLink s h
  · exact h

theorem judgeHold_keepsLink : Keeps (LinkHolds d n) State.judgeHold := by
  intro s h
  unfold State.judgeHold
  split
  · exact raiseHold_keepsLink s h
  · exact h

theorem renewHold_keepsLink : Keeps (LinkHolds d n) State.renewHold := by
  intro s h
  unfold State.renewHold
  split
  · split
    · exact (append_keepsLink (f := .hold s.cfg.holdTime) rfl s h).congr rfl rfl
    · exact h.congr rfl rfl
  · exact h

theorem holdEchoed_keepsLink : Keeps (LinkHolds d n) State.holdEchoed := keepsLink_of_eq fun _ => ⟨rfl, rfl⟩

/-! Pack frames and pockets -/

theorem requestEnd_keepsLink (id : PackId) {f : TxFrame} (hf : f.isKind .halt = false) :
    Keeps (LinkHolds d n) (State.requestEnd id f) := by
  intro s h
  unfold State.requestEnd
  split
  · exact h
  · split
    · exact (append_keepsLink hf s h).congr rfl rfl
    · exact h

theorem retireUngathered_keepsLink (p : PocketId) (r : AsideReason) :
    Keeps (LinkHolds d n) (State.retireUngathered p r) := by
  intro s h
  have ht : LinkHolds d n ((s.accountAside p r).pocketStops p (.retiring (.setAside r))) := h.congr (by simp) (by simp)
  unfold State.retireUngathered
  dsimp only
  split
  · exact ht
  · exact requestEnd_keepsLink _ rfl _ ht

theorem placeBid_keepsLink (b : PendingBid) (load : Nat) : Keeps (LinkHolds d n) (State.placeBid b load) := fun _ h =>
  append_keepsLink rfl _ (h.congr rfl rfl)

theorem considerNew_keepsLink (e : Entry) : Keeps (LinkHolds d n) fun s => s.considerNew e := by
  intro s h
  dsimp only
  unfold State.considerNew
  split
  · split
    · exact h
    · exact h
    · exact placeBid_keepsLink _ _ s h
  · exact h

theorem rescanOver_keepsLink (es : List Entry) : Keeps (LinkHolds d n) (rescanOver es) := by
  induction es with
  | nil => exact fun _ h => h
  | cons e es ih =>
    intro s h
    unfold rescanOver
    split
    · split
      · exact h
      · exact ih s h
      · exact ih _ (placeBid_keepsLink _ _ s h)
    · exact ih s h

theorem rescan_keepsLink : Keeps (LinkHolds d n) State.rescan := fun s h => rescanOver_keepsLink s.packs.entries s h

theorem enqueue_keepsLink (p : PocketId) (j : Job) (lane : Lane) : Keeps (LinkHolds d n) (State.enqueue p j lane) :=
  fun _ h => noteHold_keepsLink _ _ (h.congr rfl rfl)

/-- The entry that a put-back returns to the queue (R89). -/
def State.returnedEntry (s : State) (op : Operation) (j : Job) (lane : Lane) (strokes : Option StrokesDone) : QueueEntry :=
  { pocket := op.pocket, job := j, lane := lane, stamp := op.stamp, passOvers := op.passOvers,
    blocked := s.blockedReason op.pocket j, strokes := strokes }

/-- The pocket and the queue once an entry has been put back, before the hold is judged and the head freed (R89). -/
def State.returned (op : Operation) (j : Job) (lane : Lane) (strokes : Option StrokesDone) (s : State) : State :=
  (s.pocketTo op.pocket (.waiting j)).onHead fun h =>
    { h with queue := insertByStamp (s.returnedEntry op j lane strokes) h.queue }

theorem State.putBack_eq (op : Operation) (j : Job) (lane : Lane) (strokes : Option StrokesDone) (s : State) :
    s.putBack op j lane strokes = ((s.returned op j lane strokes).noteHold s.holdCondition).headIdle := rfl

theorem putBack_keepsLink (op : Operation) (j : Job) (lane : Lane) (strokes : Option StrokesDone) :
    Keeps (LinkHolds d n) (State.putBack op j lane strokes) := by
  intro s h
  have hreturned : LinkHolds d n (s.returned op j lane strokes) := h.congr rfl rfl
  rw [State.putBack_eq]
  exact (noteHold_keepsLink s.holdCondition _ hreturned).congr (by simp) (by simp)

theorem closePocket_keepsLink (p : PocketId) (j : Job) : Keeps (LinkHolds d n) (State.closePocket p j) := by
  intro s h
  rw [State.closePocket_eq]
  have hstopped : LinkHolds d n ((s.accounted p j).pocketStops p (.waiting j)) := h.congr (by simp) (by simp)
  exact (enqueue_keepsLink p j (s.laneFor p j) _ hstopped).congr (by simp) (by simp)

theorem checkPocket_keepsLink (p : PocketId) (occupied : Bool) : Keeps (LinkHolds d n) (State.checkPocket p occupied) := by
  intro s h
  unfold State.checkPocket
  split
  · exact enqueue_keepsLink _ _ _ _ (h.congr rfl rfl)
  · exact h.congr rfl rfl

theorem takeOffer_keepsLink (sender : Nat) (b : OfferBody) : Keeps (LinkHolds d n) (State.takeOffer sender b) := by
  intro s h
  unfold State.takeOffer
  split
  · exact h.congr rfl rfl
  · split
    · exact h.congr rfl rfl
    · split
      · exact h.congr rfl rfl
      · split
        · exact considerNew_keepsLink _ _ (h.congr rfl rfl)
        · exact h.congr rfl rfl

theorem takeBid_keepsLink (sender : Nat) (mine : Bool) (fit load : Nat) (id : PackId) :
    Keeps (LinkHolds d n) (State.takeBid sender mine fit load id) := by
  intro s h
  have hrel : ∀ c, LinkHolds d n (if mine then (s.count c).releaseBid id else s.count c) := by
    intro c
    split
    · exact releaseBid_keepsLink id _ (h.congr rfl rfl)
    · exact h.congr rfl rfl
  unfold State.takeBid
  split
  · exact hrel _
  · split
    · exact hrel _
    · dsimp only
      split
      · exact h.congr rfl rfl
      · split <;> exact h.congr rfl rfl

theorem takeBidFrom_keepsLink (sender : Nat) (b : BidBody) (id : PackId) :
    Keeps (LinkHolds d n) (State.takeBidFrom sender b id) := by
  intro s h
  unfold State.takeBidFrom
  split
  · exact takeBid_keepsLink _ _ _ _ _ s h
  · exact h.congr rfl rfl

theorem takeBidEcho_keepsLink (e : TxEntry) : Keeps (LinkHolds d n) (State.takeBidEcho e) := by
  intro s h
  unfold State.takeBidEcho
  split
  · split
    · exact takeBid_keepsLink _ _ _ _ _ s h
    · exact h
  · exact h

theorem resolveRetired_keepsLink (id : PackId) : Keeps (LinkHolds d n) (State.resolveRetired id) := by
  intro s h
  unfold State.resolveRetired
  split
  · exact h
  · split
    · exact removeBid_keepsLink id s h
    · exact releaseBid_keepsLink id s h

theorem resolvePlaced_keepsLink (id : PackId) (owner : Nat) : Keeps (LinkHolds d n) (State.resolvePlaced id owner) := by
  intro s h
  rcases s.resolvePlaced_cases id owner with heq | ⟨b, a, heq⟩ <;> rw [heq]
  · exact resolveRetired_keepsLink id _ (h.congr rfl rfl)
  · exact h.congr (by simp [State.commitClaims, State.placeEntry]) (by simp [State.commitClaims, State.placeEntry])

theorem takeClose_keepsLink (sender : Nat) (id : PackId) : Keeps (LinkHolds d n) (State.takeClose sender id) := by
  intro s h
  unfold State.takeClose
  split
  · exact h.congr rfl rfl
  · split
    · exact h.congr rfl rfl
    · split
      · exact h.congr rfl rfl
      · split
        · exact resolveRetired_keepsLink id _ (h.congr rfl rfl)
        · exact resolvePlaced_keepsLink id _ s h

theorem withdrawAtOwner_keepsLink (p : PocketId) : Keeps (LinkHolds d n) (State.withdrawAtOwner p) := by
  intro s h
  unfold State.withdrawAtOwner
  split
  · split
    case h_1 => exact retireUngathered_keepsLink p .withdrawn s h
    case h_4 => exact h.congr (by simp) (by simp)
    all_goals exact h.congr rfl rfl
  · exact h

theorem takeWithdraw_keepsLink (sender : Nat) (id : PackId) : Keeps (LinkHolds d n) (State.takeWithdraw sender id) := by
  intro s h
  unfold State.takeWithdraw
  split
  · exact h.congr rfl rfl
  · split
    · exact h.congr rfl rfl
    · split
      · exact resolveRetired_keepsLink id _ (h.congr rfl rfl)
      · split
        · split
          · exact withdrawAtOwner_keepsLink _ s h
          · exact h
        · exact h

theorem freeRetired_keepsLink (p : PocketId) : Keeps (LinkHolds d n) (State.freeRetired p) := by
  intro s h
  unfold State.freeRetired
  split
  · exact judgeDrain_keepsLink _ (rescan_keepsLink _ (h.congr rfl rfl))
  · exact h

theorem takeEnd_keepsLink (sender : Nat) (id : PackId) : Keeps (LinkHolds d n) (State.takeEnd sender id) := by
  intro s h
  have hr : LinkHolds d n (s.retire id) := h.congr rfl rfl
  unfold State.takeEnd
  split
  · exact h.congr rfl rfl
  · split
    · exact h.congr rfl rfl
    · split
      · split
        · exact hr
        · split
          · exact freeRetired_keepsLink _ _ hr
          · exact hr
      · exact h.congr rfl rfl

theorem takeEndEcho_keepsLink (e : TxEntry) : Keeps (LinkHolds d n) (State.takeEndEcho e) := by
  intro s h
  unfold State.takeEndEcho
  split
  · split
    · exact takeEnd_keepsLink _ _ s h
    · exact takeEnd_keepsLink _ _ s h
    · exact h
  · exact h

theorem takeForget_keepsLink (sender : Nat) : Keeps (LinkHolds d n) (State.takeForget sender) := by
  intro s h
  unfold State.takeForget
  split
  · exact h.congr rfl rfl
  · exact h

end LinkHolds

end Sys2Proof.Machine

namespace Sys2Proof.Machine

open Sys2Proof.Config

/-! ### HALTING, SAFE and back (R141, R144, R149, R150) -/

/-- Entry to HALTING queues the one HALT. -/
theorem enterHalting_link (c : HaltCause) {s : State} (h : LinkHolds false 0 s) : LinkHolds true 1 (s.enterHalting c) := by
  let u := ((s.onCtl fun k => { k with station := .halting, haltCause := some c }).stopHead).endHold
  have hu : LinkHolds true 0 u := ⟨h.sound, h.halts, nofun, by simp [u, State.endHold]⟩
  have hw : LinkHolds true 0 u.withdrawUnsent := withdrawUnsent_keepsLink u hu
  exact hw.append (.halt c) (by rw [hw.station.2 rfl]; nofun)

theorem holdFault_keepsLink {d : Bool} {n : Nat} (c : HaltCause) : Keeps (LinkHolds d n) (State.holdFault c) := by
  intro s h
  unfold State.holdFault
  split <;> exact h.congr rfl rfl

theorem takeFault_keepsTransmit (c : HaltCause) : Keeps TransmitSound (State.takeFault c) := by
  intro s h
  have halted : ∀ st, s.ctl.station = st → st ≠ .halting → TransmitSound (s.enterHalting c) := fun st hst hn =>
    (enterHalting_link c (h.calm (by rwa [hst]))).transmitSound
  unfold State.takeFault
  split
  · next hst => exact halted _ hst nofun
  · next hst => exact halted _ hst nofun
  · next hst => exact halted _ hst nofun
  · exact keepsTransmit_of (fun _ _ => holdFault_keepsLink c) s h
  · exact keepsTransmit_of (fun _ _ => holdFault_keepsLink c) s h
  all_goals exact h

theorem headFault_keepsTransmit (c : HaltCause) : Keeps TransmitSound (State.headFault c) := fun _ h =>
  takeFault_keepsTransmit c _ h

/-- Entry to SAFE clears the transmit queue. -/
theorem enterSafe_link {d : Bool} {n : Nat} {s : State} (h : LinkHolds d n s) : LinkHolds false 0 s.enterSafe :=
  ⟨h.sound.sublist (List.nil_sublist _) rfl, rfl, fun _ => rfl, by simp [State.enterSafe]⟩

theorem enterSafe_keepsTransmit : Keeps TransmitSound State.enterSafe := fun _ h =>
  have ⟨_, hd⟩ := transmitSound_iff.1 h
  (enterSafe_link hd).transmitSound

theorem linkLoss_keepsTransmit : Keeps TransmitSound State.linkLoss := by
  intro s h
  unfold State.linkLoss
  split
  · exact h
  · exact h
  all_goals exact enterSafe_keepsTransmit s h

theorem forgetSelf_keepsLink {d : Bool} {n : Nat} : Keeps (LinkHolds d n) State.forgetSelf := by
  intro s h
  refine h.filter (p := fun e => !e.frame.endsPack s.owns) rfl rfl rfl fun x _ hx => ?_
  cases hf : x.frame <;> simp_all [TxFrame.endsPack, TxFrame.isKind, TxFrame.kind]

/-- The echo of the one HALT takes it out of the queue. -/
theorem LinkHolds.dropHalt {s : State} {e : TxEntry} (h : LinkHolds true 1 s) (he : e ∈ s.link.queue)
    (hf : e.frame.isKind .halt = true) : LinkHolds true 0 (s.dropFrame e.number) where
  sound := h.sound.sublist List.filter_sublist rfl
  halts := by
    have hperm := List.perm_cons_erase he
    have hone : haltsIn s.link = (s.link.queue.erase e).countP (fun x => x.frame.isKind .halt) + 1 := by
      rw [haltsIn, hperm.countP_eq, List.countP_cons, if_pos hf]
    have hnone : ∀ x ∈ s.link.queue.erase e, x.frame.isKind .halt = false := by
      have hzero : (s.link.queue.erase e).countP (fun x => x.frame.isKind .halt) = 0 := by
        have := h.halts
        omega
      simpa using List.countP_eq_zero.1 hzero
    refine List.countP_eq_zero.2 fun x hx => ?_
    obtain ⟨hx, hnum⟩ := List.mem_filter.1 hx
    have hne : x ≠ e := fun heq => by simp [heq] at hnum
    simp [hnone x ((List.mem_erase_of_ne hne).2 hx)]
  safe := fun hs => by simp [State.dropFrame, h.safe hs]
  station := h.station

theorem haltEchoed_link {s : State} (h : LinkHolds true 0 s) : LinkHolds false 0 s.haltEchoed := by
  let g := PocketId.all.foldl (fun u p => u.giveBack p) s
  have hg : LinkHolds true 0 g :=
    h.congr (foldl_keeps (fun t => t.link) (fun u p => State.giveBack p u) (fun t p => by simp) _ s)
      (foldl_keeps (fun t => t.ctl.station) (fun u p => State.giveBack p u) (fun t p => by simp) _ s)
  obtain ⟨hsound, hhalts, -, -⟩ := forgetSelf_keepsLink g hg
  exact rescan_keepsLink _ ⟨hsound, hhalts, nofun, by simp [State.enter]⟩

theorem haltOnHeld_link {s : State} (h : LinkHolds false 0 s) : TransmitSound s.haltOnHeld := by
  have hu : LinkHolds false 0 (s.onCtl fun k => { k with heldCause := none }) := h.congr rfl rfl
  unfold State.haltOnHeld
  split
  · exact h.transmitSound
  · exact (enterHalting_link _ hu).transmitSound

theorem joinEchoed_keepsTransmit : Keeps TransmitSound State.joinEchoed := by
  intro s h
  unfold State.joinEchoed
  split
  · next hj =>
    have hf := forgetSelf_keepsLink s (h.calm (by rw [hj]; nofun))
    have hrun : LinkHolds false 0 (s.forgetSelf.enter .run) := hf.move rfl nofun nofun
    exact keepsTransmit_of (fun _ _ => rescan_keepsLink) _ (haltOnHeld_link hrun)
  · exact keepsTransmit_of (fun _ _ => forgetSelf_keepsLink) s h

theorem enterDrain_link {n : Nat} {s : State} (h : LinkHolds false n s) : LinkHolds false n s.enterDrain :=
  judgeDrain_keepsLink _ (withdrawUnsent_keepsLink _ (h.move (t := s.enter .drain) rfl nofun nofun))

theorem enterRun_link {n : Nat} {s : State} (h : LinkHolds false n s) : LinkHolds false n s.enterRun :=
  rescan_keepsLink _ (h.move (t := s.enter .run) rfl nofun nofun)

theorem resumePocket_keepsLink {d : Bool} {n : Nat} (occupied : PocketLevels) (p : PocketId) :
    Keeps (LinkHolds d n) fun s => s.resumePocket occupied p := by
  intro s h
  dsimp only [State.resumePocket]
  split
  · exact checkPocket_keepsLink p _ s h
  · exact h

theorem resume_link {n : Nat} (occupied : PocketLevels) {s : State} (h : LinkHolds false n s) :
    LinkHolds false n (s.resume occupied) := by
  let u := (s.onCtl fun k => { k with haltCause := none, station := .run }).headTo .idle
  have hu : LinkHolds false n u := h.move rfl nofun nofun
  have hchecked := foldl_keepsCondition (resumePocket_keepsLink occupied) PocketId.all u hu
  have hrescanned := rescan_keepsLink _ (judgeHold_keepsLink _ hchecked)
  exact hrescanned.congr (by simp [State.resume, u]) (by simp [State.resume, u])

theorem readSensors_resume_transmitSound (r : ResumeReadings) {s : State} (h : TransmitSound s)
    (hs : s.ctl.station ≠ .halting) : TransmitSound ((s.readSensors r).resume r.occupied) :=
  have hread : TransmitSound (s.readSensors r) := h
  (resume_link r.occupied (hread.calm hs)).transmitSound

/-! ### The console (R175 to R182) -/

theorem reportEchoed_keepsLink {d : Bool} {n : Nat} (e : TxEntry) : Keeps (LinkHolds d n) (State.reportEchoed e) := by
  intro s h
  have hcontent : ∀ a c, LinkHolds d n (s.contentReported a c) := by
    intro a c
    unfold State.contentReported
    split
    · exact h.congr rfl rfl
    · split
      · exact h.congr rfl rfl
      · exact h
    · exact h
  unfold State.reportEchoed
  split
  · next a c _ =>
    unfold State.freeReportSlot
    split
    · split
      · exact hcontent a c
      · exact appendReport_keepsLink _ _ (hcontent a c)
    · exact (hcontent a c).congr rfl rfl
    · exact (hcontent a c).congr rfl rfl
  · exact h

/-- An order that is obeyed and answered. -/
theorem takeOrder_keepsTransmit (o : OrderKind) {obey : State → Obeyed}
    (ho : Keeps TransmitSound fun s => (obey s).state) : Keeps TransmitSound (State.takeOrder o obey) := by
  intro s h
  unfold State.takeOrder
  split
  · split
    · exact h
    · exact keepsTransmit_of (fun _ _ => append_keepsLink (f := .answer o (obey s).code) rfl) _ (ho s h)
  · exact h

theorem obeyStandby_keepsTransmit : Keeps TransmitSound fun s => s.obeyStandby.state := by
  intro s h
  dsimp only [State.obeyStandby]
  split
  · next hs => exact (enterDrain_link (h.calm (by rw [hs]; nofun))).transmitSound
  all_goals exact h

theorem obeyResume_keepsTransmit (r : ResumeReadings) : Keeps TransmitSound fun s => (s.obeyResume r).state := by
  intro s h
  have resumes := readSensors_resume_transmitSound r h
  dsimp only [State.obeyResume]
  split
  · exact h
  · next hs => exact (enterRun_link (h.calm (by rw [hs]; nofun))).transmitSound
  · next hs =>
    split
    · exact h
    · exact (enterRun_link (h.calm (by rw [hs]; nofun))).transmitSound
  · next hs =>
    split
    · exact h
    · exact resumes (by rw [hs]; nofun)
  · exact h

theorem requestTest_keepsLink {d : Bool} {n : Nat} : Keeps (LinkHolds d n) State.requestTest :=
  keepsLink_of_eq fun s => by simp [State.requestTest]

theorem obeySelfTest_keepsTransmit : Keeps TransmitSound fun s => s.obeySelfTest.state := by
  intro s h
  dsimp only [State.obeySelfTest]
  split
  · split
    · exact h
    · exact keepsTransmit_of (fun _ _ => requestTest_keepsLink) s h
  · exact h

theorem buttonPressed_keepsTransmit (r : ResumeReadings) : Keeps TransmitSound (State.buttonPressed r) := by
  intro s h
  have resumes := readSensors_resume_transmitSound r h
  unfold State.buttonPressed
  split
  · exact h
  · split
    · next hs =>
      split
      · exact h
      · exact resumes (by rw [hs]; nofun)
    · next hs => exact (enterDrain_link (h.calm (by rw [hs]; nofun))).transmitSound
    · next hs => exact (enterRun_link (h.calm (by rw [hs]; nofun))).transmitSound
    · next hs => exact (enterRun_link (h.calm (by rw [hs]; nofun))).transmitSound
    · exact h

/-! ### Spoiled frames (R170, R171) -/

theorem ownSpoiled_keepsTransmit : Keeps TransmitSound State.ownSpoiled := by
  intro s h
  have hended : Keeps TransmitSound fun t => t.startAttempt.endAttempt :=
    keepsTransmit_of fun _ _ _ hs => endAttempt_keepsLink _ (startAttempt_keepsLink _ hs)
  unfold State.ownSpoiled
  dsimp only
  split
  · exact h
  · have hu := hended ((s.count .spoiledSeen).count .ownRetries) h
    split
    · exact linkLoss_keepsTransmit _ hu
    · exact hu

theorem receivedSpoiled_keepsTransmit (r : Reception) : Keeps TransmitSound (State.receivedSpoiled r) := by
  intro s h
  unfold State.receivedSpoiled
  dsimp only
  split
  · split
    · exact linkLoss_keepsTransmit _ h
    · exact h
  · exact h

theorem frameSpoiled_keepsTransmit (f : SpoiledFrame) : Keeps TransmitSound (State.frameSpoiled f) := by
  intro s h
  unfold State.frameSpoiled
  split
  · split
    · exact ownSpoiled_keepsTransmit s h
    · exact receivedSpoiled_keepsTransmit _ s h
  · exact h

end Sys2Proof.Machine

namespace Sys2Proof.Machine

open Sys2Proof.Config

/-! ### The gate and the pockets (R60 to R72) -/

section Gate

variable {d : Bool} {n : Nat}

theorem absorbSheet_keepsLink (p : PocketId) (r : AsideReason) (o : Offer) (m : Mark) :
    Keeps (LinkHolds d n) (State.absorbSheet p r o m) := by
  intro s h
  have ht : LinkHolds d n (if (s.pockets.get p).sheets < s.cfg.pocketCapacity then s.takeSheet p else s.passOwn) := by
    split <;> exact h.congr rfl rfl
  unfold State.absorbSheet
  dsimp only
  generalize (if (s.pockets.get p).sheets < s.cfg.pocketCapacity then s.takeSheet p else s.passOwn) = t at ht ⊢
  split
  · exact closePocket_keepsLink p _ _ ht
  · exact ht

theorem judgePack_keepsLink (p : PocketId) (o : Offer) (m : Mark) : Keeps (LinkHolds d n) (State.judgePack p o m) := by
  intro s h
  unfold State.judgePack
  split
  · exact closePocket_keepsLink p _ s h
  · split
    · split <;> exact closePocket_keepsLink p _ s h
    · exact h

theorem firstSheet_keepsLink (p : PocketId) (o : Offer) (m : Mark) : Keeps (LinkHolds d n) (State.firstSheet p o m) := by
  intro s h
  unfold State.firstSheet
  dsimp only
  split
  · exact judgePack_keepsLink p o m _ (h.congr rfl rfl)
  · split
    · exact closePocket_keepsLink p _ _ (h.congr rfl rfl)
    · exact h.congr rfl rfl

theorem fillingSheet_keepsLink (p : PocketId) (next : Nat) (o : Offer) (m : Mark) :
    Keeps (LinkHolds d n) (State.fillingSheet p next o m) := by
  intro s h
  unfold State.fillingSheet
  split
  · split
    · exact closePocket_keepsLink p _ _ (h.congr rfl rfl)
    · exact judgePack_keepsLink p o m _ (h.congr rfl rfl)
  · exact absorbSheet_keepsLink p _ o m _ (h.congr rfl rfl)

theorem sheetAtPocket_keepsLink (p : PocketId) (o : Offer) (m : Mark) :
    Keeps (LinkHolds d n) (State.sheetAtPocket p o m) := by
  intro s h
  unfold State.sheetAtPocket
  split
  · exact firstSheet_keepsLink p o m s h
  · split
    · exact h
    · exact fillingSheet_keepsLink p _ o m s h
  · exact absorbSheet_keepsLink p _ o m s h
  · exact h.congr (by simp [State.extraSheet, State.passOwn]) (by simp [State.extraSheet, State.passOwn])
  all_goals exact h.congr rfl rfl

theorem sheetArrives_keepsLink (raw : Option SheetMark) : Keeps (LinkHolds d n) (State.sheetArrives raw) := by
  intro s h
  have ht : LinkHolds d n (s.divertTo none) := h.congr rfl rfl
  unfold State.sheetArrives
  dsimp only
  split
  · split
    · exact ht.congr rfl rfl
    · split
      · exact ht
      · exact ht
      · exact ht
      · exact sheetAtPocket_keepsLink _ _ _ _ ht
  · exact ht

theorem gapExpires_keepsLink (p : PocketId) : Keeps (LinkHolds d n) (State.gapExpires p) := by
  intro s h
  unfold State.gapExpires
  split
  · split
    · exact closePocket_keepsLink p _ s h
    · exact closePocket_keepsLink p _ s h
    · exact h
  · exact h

theorem firstSheetExpires_keepsLink (p : PocketId) : Keeps (LinkHolds d n) (State.firstSheetExpires p) := by
  intro s h
  unfold State.firstSheetExpires
  split
  · split
    · exact retireUngathered_keepsLink p _ s h
    · exact h
  · exact h

/-! ### The head (R93 to R118) -/

theorem strokeCompletes_keepsLink (v : SenseReading) : Keeps (LinkHolds d n) (State.strokeCompletes v) := by
  intro s h
  unfold State.strokeCompletes
  split
  · next op _ =>
    split
    · next position retry _ =>
      have ht : LinkHolds d n ((s.writeClinch position v).spendStaple) :=
        h.congr (by simp [State.spendStaple, State.writeClinch]) (by simp [State.spendStaple, State.writeClinch])
      unfold State.strokeDone
      dsimp only
      split
      · refine ht.congr ?_ ?_ <;> unfold State.goodClinch <;> dsimp only <;> split <;> simp
      · split
        · unfold State.convertClinch
          dsimp only
          split
          · exact putBack_keepsLink _ _ _ _ _ (ht.congr (by simp) (by simp))
          · exact ht.congr (by simp) (by simp)
        · exact ht.congr rfl rfl
    · exact h
  · exact h

theorem noStapleFound_keepsLink : Keeps (LinkHolds d n) State.noStapleFound := by
  intro s h
  have he : LinkHolds d n s.emptyStaples := h.congr (by simp [State.emptyStaples]) (by simp [State.emptyStaples])
  have hserved : LinkHolds d n s.emptyStaples.reevaluateAndServe := he.congr (by simp) (by simp)
  unfold State.noStapleFound
  split
  · exact h
  · split
    · exact putBack_keepsLink _ _ _ _ _ he
    · exact hserved
  · exact hserved
  · exact hserved

theorem headIdle_keepsLink : Keeps (LinkHolds d n) State.headIdle := keepsLink_of_eq fun s => by simp

theorem deliverPack_keepsLink (op : Operation) (o : Offer) (bin : Nat) :
    Keeps (LinkHolds d n) (State.deliverPack op o bin) := fun s h =>
  requestEnd_keepsLink _ rfl _
    (h.congr (t := ((s.recordDrop op o bin).count .delivered).pocketTo op.pocket (.retiring op.job)) (by simp) (by simp))

theorem dropConfirms_keepsLink : Keeps (LinkHolds d n) State.dropConfirms := by
  intro s h
  unfold State.dropConfirms
  split
  · split
    · split
      · exact headIdle_keepsLink _ (deliverPack_keepsLink _ _ _ s h)
      · exact headIdle_keepsLink s h
    · exact h
  · exact h

theorem trayTakes_keepsLink : Keeps (LinkHolds d n) State.trayTakes := fun s h =>
  noteHold_keepsLink _ _ (h.congr (t := (s.onRack fun r => { r with tray := r.tray + 1 }).writeStore) (by simp) (by simp))

theorem trayEnded_keepsLink (op : Operation) : Keeps (LinkHolds d n) (State.trayEnded op) := by
  intro s h
  have ht := trayTakes_keepsLink s h
  unfold State.trayEnded
  split
  · unfold State.asidePack
    dsimp only
    split
    · exact ht.congr rfl rfl
    · exact requestEnd_keepsLink _ rfl _ (ht.congr rfl rfl)
  · exact rescan_keepsLink _ (ht.congr rfl rfl)
  · exact ht

theorem levelEnds_keepsLink (level : TestLevel) (j : Judgement) : Keeps (LinkHolds d n) (State.levelEnds level j) := by
  intro s h
  unfold State.levelEnds
  split
  · exact h.congr rfl rfl
  · exact h.congr rfl rfl
  · next l m =>
    have hr := rescan_keepsLink (s.onHead fun h =>
      { h with state := .idle, readings := { h.readings with outcome := ((l.worse m).worse j).outcome } })
      (h.congr rfl rfl)
    exact hr.congr (by simp [State.endTest]) (by simp [State.endTest])

theorem referenceRead_keepsLink (v : SenseReading) : Keeps (LinkHolds d n) (State.referenceRead v) := by
  intro s h
  unfold State.referenceRead
  split
  · exact levelEnds_keepsLink _ _ _ (h.congr rfl rfl)
  · exact h

theorem readingExpires_keepsLink : Keeps (LinkHolds d n) State.readingExpires := by
  intro s h
  unfold State.readingExpires
  split
  · exact levelEnds_keepsLink _ _ s h
  · exact h

/-! ### The senses of the rack and the cartridge (R110, R133, R135) -/

theorem refill_keepsLink (c : StationConfig) : Keeps (LinkHolds d n) (State.refill c) := fun s h =>
  rescan_keepsLink _ (h.congr
    (t := ((s.onStaples fun b => { b with remaining := c.cartridgeSize, state := .ready }).writeStore).reevaluateAndServe)
    (by simp) (by simp))

theorem emptyBin_keepsLink (bin : Nat) : Keeps (LinkHolds d n) (State.emptyBin bin) := by
  intro s h
  unfold State.emptyBin
  split
  · exact h
  · exact rescan_keepsLink _ (h.congr (by simp [State.forgetCursor]) (by simp [State.forgetCursor]))

theorem emptyTray_keepsLink : Keeps (LinkHolds d n) State.emptyTray := keepsLink_of_eq fun s => by simp [State.emptyTray]

theorem senseRaised_keepsLink (hold : HeldEvents → HeldEvents) {take : StationConfig → State → State}
    (ht : ∀ c, Keeps (LinkHolds d n) (take c)) : Keeps (LinkHolds d n) (State.senseRaised hold take) := by
  intro s h
  unfold State.senseRaised
  split
  · exact ht _ s h
  · split
    · exact h.congr rfl rfl
    · exact h

theorem tick_keepsLink : Keeps (LinkHolds d n) State.tick :=
  keepsLink_of_eq fun s => by
    unfold State.tick State.tickPockets
    split
    · split <;> exact ⟨rfl, rfl⟩
    · exact ⟨rfl, rfl⟩

end Gate

/-! ### Faults of the head and of the pockets (R102, R139) -/

theorem ejectCompletes_keepsTransmit (occupied : Bool) : Keeps TransmitSound (State.ejectCompletes occupied) := by
  intro s h
  unfold State.ejectCompletes
  split
  · split
    · dsimp only
      split
      · exact headFault_keepsTransmit _ _ h
      · exact h
    · exact h
  · exact h

theorem trayDropConfirms_keepsTransmit (occupied : Bool) : Keeps TransmitSound (State.trayDropConfirms occupied) := by
  intro s h
  cases hst : s.head.state with
  | busy op =>
    cases hph : op.phase with
    | trayDrop =>
      cases occupied with
      | true =>
        have heq : s.trayDropConfirms true = (s.readOccupied op.pocket true).headFault .ejectFault := by
          simp [State.trayDropConfirms, hst, hph]
        rw [heq]
        exact headFault_keepsTransmit _ _ h
      | false =>
        rw [State.trayDropConfirms_ends hst hph]
        exact keepsTransmit_of (fun _ _ u hu => headIdle_keepsLink _ (trayEnded_keepsLink op u hu))
          (s.readOccupied op.pocket false) h
    | _ => simpa [State.trayDropConfirms, hst, hph] using h
  | _ => simpa [State.trayDropConfirms, hst] using h

theorem limitExpires_keepsTransmit (inPhase : Phase → Bool) (c : HaltCause) :
    Keeps TransmitSound (State.limitExpires inPhase c) := by
  intro s h
  unfold State.limitExpires
  split
  · split
    · exact headFault_keepsTransmit c s h
    · exact h
  · exact h

theorem headJams_keepsTransmit : Keeps TransmitSound State.headJams := by
  intro s h
  unfold State.headJams
  split
  · exact h
  all_goals exact headFault_keepsTransmit _ s h

theorem pocketJams_keepsTransmit (p : PocketId) : Keeps TransmitSound (State.pocketJams p) := by
  intro s h
  unfold State.pocketJams
  dsimp only
  split
  · exact takeFault_keepsTransmit _ _ h
  · exact h

/-! ### Resets and the start sequence (R183 to R187) -/

theorem cutStore_keepsLink {d : Bool} {n : Nat} (cut : Bool) : Keeps (LinkHolds d n) (State.cutStore cut) := by
  intro s h
  unfold State.cutStore
  split
  · exact h.congr rfl rfl
  · exact h

theorem resetTo_transmitSound (cause : ResetCause) (s : State) : TransmitSound (s.resetTo cause) := reset_transmitSound

theorem reboot_transmitSound (straps : Straps) (cut : Bool) (s : State) : TransmitSound (s.reboot straps cut) :=
  keepsTransmit_of (fun _ _ => cutStore_keepsLink cut) _ (resetTo_transmitSound .reboot s)

theorem pinActive_keepsTransmit (cut : Bool) : Keeps TransmitSound (State.pinActive cut) := by
  intro s h
  unfold State.pinActive
  split
  · exact h
  · split
    · exact keepsTransmit_of (fun _ _ => cutStore_keepsLink cut) _ (resetTo_transmitSound .line s)
    · exact h

theorem pinReleased_keepsTransmit (straps : Straps) : Keeps TransmitSound (State.pinReleased straps) := by
  intro s h
  unfold State.pinReleased
  dsimp only
  split
  · split <;> exact h
  · exact h

theorem failLoading_transmitSound (f : ConfigFault) {s : State} (h : LinkHolds false 0 s) :
    TransmitSound (s.failLoading f) := by
  have ht : LinkHolds false 0 s.clearHeld.budgetUnset := h.congr rfl rfl
  unfold State.failLoading
  dsimp only
  split
  · exact (enterSafe_link ht).transmitSound
  · exact LinkHolds.transmitSound (d := false) (ht.move rfl nofun nofun)

theorem leaveLoading_transmitSound (c : StationConfig) {s : State} (h : LinkHolds false 0 s) :
    TransmitSound (s.leaveLoading c) := by
  unfold State.leaveLoading
  split
  · exact (enterSafe_link h).transmitSound
  · have hjoin := append_keepsLink
      (f := .join s.ctl.resetCause c.stapler c.edge s.head.readings.outcome c.pocketCapacity) rfl s h
    exact LinkHolds.transmitSound (d := false) (judgeHold_keepsLink _ (hjoin.move rfl nofun nofun))

section Start

variable {d : Bool} {n : Nat}

theorem takeHeld_keepsLink (c : StationConfig) : Keeps (LinkHolds d n) (State.takeHeld c) := by
  intro s h
  have hbins := foldl_keepsCondition (f := fun (u : State) bin => u.emptyBin bin)
    (fun bin => emptyBin_keepsLink (d := d) (n := n) bin) s.part.held.bins s h
  have htray : LinkHolds d n (if s.part.held.tray then (s.part.held.bins.foldl (fun u bin => u.emptyBin bin) s).emptyTray
      else s.part.held.bins.foldl (fun u bin => u.emptyBin bin) s) := by
    split
    · exact emptyTray_keepsLink _ hbins
    · exact hbins
  unfold State.takeHeld
  dsimp only
  split
  · exact (refill_keepsLink c _ htray).congr rfl rfl
  · exact htray.congr rfl rfl

theorem startTestIfFitted_keepsLink (c : StationConfig) : Keeps (LinkHolds d n) (State.startTestIfFitted c) := by
  intro s h
  unfold State.startTestIfFitted
  split
  · exact requestTest_keepsLink s h
  · exact h

theorem checkPockets_keepsLink (occupied : PocketLevels) : Keeps (LinkHolds d n) (State.checkPockets occupied) := fun s h =>
  foldl_keepsCondition (f := fun (t : State) p => (t.checkPocket p (occupied.get p)).serve)
    (fun p u hu => (checkPocket_keepsLink p (occupied.get p) u hu).congr (by simp) (by simp)) PocketId.all
    (s.onPart fun k => { k with occupied := occupied }) (h.congr rfl rfl)

end Start

theorem imageRead_keepsTransmit (bytes : List Byte) (occupied : PocketLevels) (cartridge : Bool) :
    Keeps TransmitSound (State.imageRead bytes occupied cartridge) := by
  intro s h
  unfold State.imageRead
  split
  · next hst =>
    have hcalm := h.calm (by rw [hst]; nofun)
    split
    · exact failLoading_transmitSound _ hcalm
    · next c _ =>
      have hchecked : LinkHolds false 0 ((s.withConfig (some c)).checkStore c cartridge) :=
        hcalm.congr (by simp [State.checkStore]) (by simp [State.checkStore])
      exact leaveLoading_transmitSound c (checkPockets_keepsLink occupied _
        (startTestIfFitted_keepsLink c _ (takeHeld_keepsLink c _ hchecked)))
  · exact h

/-! ### Every command -/

theorem orderOf_keepsTransmit (o : OrderKind) : Keeps TransmitSound (State.orderOf o) := by
  intro s h
  cases o with
  | standby => exact takeOrder_keepsTransmit _ obeyStandby_keepsTransmit s h
  | resume => exact takeOrder_keepsTransmit _ (obeyResume_keepsTransmit _) s h
  | selfTest => exact takeOrder_keepsTransmit _ obeySelfTest_keepsTransmit s h
  | clearCounters => exact takeOrder_keepsTransmit .clearCounters (obey := State.obeyClear) (fun _ hu => hu) s h
  | reboot => exact reboot_transmitSound _ _ s

theorem packFrame_keepsTransmit {take : PackId → State → State} (h : ∀ id d n, Keeps (LinkHolds d n) (take id)) (f : Frame)
    (w : WirePackId) : Keeps TransmitSound (State.fromMember f (State.withPack w take)) :=
  fromMember_keeps (fun _ hs => hs) (fun _ hs => hs)
    (withPack_keeps (fun _ hs => hs) (fun id => keepsTransmit_of (h id)) w) f

theorem handOn_keepsTransmit (f : Frame) : Keeps TransmitSound (State.handOn f) := by
  intro s hs
  have hpack : ∀ (w : WirePackId) {take : PackId → State → State}, (∀ id d n, Keeps (LinkHolds d n) (take id)) →
      TransmitSound (s.withPack w take) := fun w _ ht =>
    withPack_keeps (fun _ hs => hs) (fun id => keepsTransmit_of (ht id)) w s hs
  unfold State.handOn
  split
  · exact hpack _ fun _ _ _ => takeOffer_keepsLink _ _
  · exact hpack _ fun _ _ _ => takeBidFrom_keepsLink _ _ _
  · exact hpack _ fun _ _ _ => takeClose_keepsLink _ _
  · exact hpack _ fun _ _ _ => takeWithdraw_keepsLink _ _
  · exact hpack _ fun _ _ _ => takeEnd_keepsLink _ _
  · exact hpack _ fun _ _ _ => takeEnd_keepsLink _ _
  · exact keepsTransmit_of (fun _ _ => takeForget_keepsLink _) s hs
  · exact keepsTransmit_of (fun _ _ => takeForget_keepsLink _) s hs
  · split
    · exact hs
    · exact forThisStation_keeps (keepsTransmit_of fun _ _ => asked_keepsLink _) _ s hs
  · split
    · exact hs
    · exact forThisStation_keeps (orderOf_keepsTransmit _) _ s hs
  · exact hs

/-- An own frame that is no HALT leaves the queue at its echo. -/
theorem echoed_keepsLink {d : Bool} {n : Nat} {s : State} {e : TxEntry} (h : LinkHolds d n s) (he : e ∈ s.link.queue)
    (hf : e.frame.isKind .halt = false) : LinkHolds d n (s.echoed e) := by
  obtain ⟨hsound, hhalts, hsafe, hstation⟩ := h.dropFrame he hf
  exact ⟨hsound.sublist (List.Sublist.refl _) rfl, hhalts, hsafe, hstation⟩

theorem State.sending_mem {s : State} {e : TxEntry} (h : s.sending = some e) : e ∈ s.link.queue := by
  unfold State.sending at h
  split at h
  · next a ha => exact Option.some.inj h ▸ (attempt_mem ha).1
  · exact List.mem_of_head? h

theorem TxFrame.not_halt_of_kind {k : FrameKind} (hk : k ≠ .halt) {f : TxFrame} (h : f.isKind k = true) :
    f.isKind .halt = false := by
  simp only [TxFrame.isKind, decide_eq_true_eq, decide_eq_false_iff_not] at h ⊢
  rwa [h]

/-- The echo of a frame of a kind other than HALT. -/
theorem echo_keepsTransmit {handOn : TxEntry → State → State} {k : FrameKind} (hk : k ≠ .halt)
    (h : ∀ e, Keeps TransmitSound (handOn e)) : Keeps TransmitSound (State.echo (TxFrame.isKind k) handOn) := by
  intro s hs
  unfold State.echo
  split
  · split
    · exact hs
    · next e he =>
      split
      · next hf =>
        obtain ⟨d, hd⟩ := transmitSound_iff.1 hs
        exact h e _ (echoed_keepsLink hd (State.sending_mem he) (TxFrame.not_halt_of_kind hk hf)).transmitSound
      · exact hs
  · exact hs

/-- A HALT is queued in HALTING alone. -/
theorem TransmitSound.halting_of_halt {s : State} {e : TxEntry} (h : TransmitSound s) (he : e ∈ s.link.queue)
    (hf : e.frame.isKind .halt = true) : s.ctl.station = .halting ∧ LinkHolds true 1 s := by
  obtain ⟨d, hd⟩ := transmitSound_iff.1 h
  have hpos : 0 < haltsIn s.link := List.countP_pos_iff.2 ⟨e, he, hf⟩
  cases d with
  | false => exact absurd hd.halts (by simp; omega)
  | true => exact ⟨hd.station.2 rfl, hd⟩

theorem haltEcho_keepsTransmit : Keeps TransmitSound (State.echo (TxFrame.isKind .halt) fun _ => State.haltEchoed) := by
  intro s hs
  unfold State.echo
  split
  · split
    · exact hs
    · next e he =>
      split
      · next hf =>
        have hmem := State.sending_mem he
        obtain ⟨hsound, hhalts, hsafe, hstation⟩ := (hs.halting_of_halt hmem hf).2.dropHalt hmem hf
        have hechoed : LinkHolds true 0 (s.echoed e) := ⟨hsound.sublist (List.Sublist.refl _) rfl, hhalts, hsafe, hstation⟩
        exact (haltEchoed_link hechoed).transmitSound
      · exact hs
  · exact hs

theorem askDelivered_keepsTransmit (h : ConsoleHeader) (a : Ask) : Keeps TransmitSound (State.askDelivered h a) :=
  fromMember_keeps (fun _ hs => hs) (fun _ hs => hs)
    (forThisStation_keeps (keepsTransmit_of fun _ _ => asked_keepsLink a) _) _

theorem orderDelivered_keepsTransmit (h : ConsoleHeader) (o : OrderKind) {take : State → State}
    (ht : Keeps TransmitSound take) : Keeps TransmitSound (State.orderDelivered h o take) :=
  fromMember_keeps (fun _ hs => hs) (fun _ hs => hs) (forThisStation_keeps ht _) _

theorem memberFrame_keepsTransmit {handOn : State → State} (h : Keeps TransmitSound handOn) (f : Frame) :
    Keeps TransmitSound (State.fromMember f handOn) := fromMember_keeps (fun _ hs => hs) (fun _ hs => hs) h f

theorem exec_keepsTransmit (c : Instr) {s t : State} (hs : TransmitSound s) (h : exec c s = .next t) : TransmitSound t := by
  cases c with
  | powerReset straps =>
    obtain rfl := Host.Outcome.next.inj h
    exact resetTo_transmitSound .power s
  | resetPinActive cut =>
    obtain rfl := Host.Outcome.next.inj h
    exact pinActive_keepsTransmit cut s hs
  | resetPinReleased straps =>
    obtain rfl := Host.Outcome.next.inj h
    exact pinReleased_keepsTransmit straps s hs
  | imageReadComplete bytes occupied cartridge => exact event_keeps (imageRead_keepsTransmit _ _ _) h hs
  | imageReadTimeout => exact event_keeps (imageRead_keepsTransmit _ _ _) h hs
  | contention m => exact event_keeps (keepsTransmit_of fun _ _ => contends_keepsLink m) h hs
  | spoiledFrame f => exact event_keeps (frameSpoiled_keepsTransmit f) h hs
  | malformedFrame f => exact event_keeps (memberFrame_keepsTransmit (handOn_keepsTransmit f) f) h hs
  | offer sender b => exact event_keeps (packFrame_keepsTransmit (fun _ _ _ => takeOffer_keepsLink _ b) _ _) h hs
  | bid a =>
    cases a with
    | echo =>
      exact event_keeps (echo_keepsTransmit (k := .bid) (by decide)
        fun e => keepsTransmit_of fun _ _ => takeBidEcho_keepsLink e) h hs
    | other sender b => exact event_keeps (packFrame_keepsTransmit (fun id _ _ => takeBidFrom_keepsLink _ b id) _ _) h hs
  | close sender w => exact event_keeps (packFrame_keepsTransmit (fun id _ _ => takeClose_keepsLink _ id) _ _) h hs
  | withdraw sender w => exact event_keeps (packFrame_keepsTransmit (fun id _ _ => takeWithdraw_keepsLink _ id) _ _) h hs
  | delivered a =>
    cases a with
    | echo =>
      exact event_keeps (echo_keepsTransmit (k := .delivered) (by decide)
        fun e => keepsTransmit_of fun _ _ => takeEndEcho_keepsLink e) h hs
    | other sender b => exact event_keeps (packFrame_keepsTransmit (fun id _ _ => takeEnd_keepsLink _ id) _ _) h hs
  | aside a =>
    cases a with
    | echo =>
      exact event_keeps (echo_keepsTransmit (k := .aside) (by decide)
        fun e => keepsTransmit_of fun _ _ => takeEndEcho_keepsLink e) h hs
    | other sender b => exact event_keeps (packFrame_keepsTransmit (fun id _ _ => takeEnd_keepsLink _ id) _ _) h hs
  | halt sender cause =>
    exact event_keeps (memberFrame_keepsTransmit (keepsTransmit_of fun _ _ => takeForget_keepsLink _) _) h hs
  | haltEcho => exact event_keeps haltEcho_keepsTransmit h hs
  | join sender b =>
    exact event_keeps (memberFrame_keepsTransmit (keepsTransmit_of fun _ _ => takeForget_keepsLink _) _) h hs
  | joinEcho => exact event_keeps (echo_keepsTransmit (k := .join) (by decide) fun _ => joinEchoed_keepsTransmit) h hs
  | hold sender time => exact event_keeps (memberFrame_keepsTransmit Keeps.id _) h hs
  | holdEcho =>
    exact event_keeps (echo_keepsTransmit (k := .hold) (by decide)
      fun _ => keepsTransmit_of fun _ _ => holdEchoed_keepsLink) h hs
  | renewalTimerExpiry => exact event_keeps (keepsTransmit_of fun _ _ => renewHold_keepsLink) h hs
  | askSummary hd => exact event_keeps (askDelivered_keepsTransmit hd _) h hs
  | askPack hd id => exact event_keeps (askDelivered_keepsTransmit hd _) h hs
  | askPocket hd selector => exact event_keeps (askDelivered_keepsTransmit hd _) h hs
  | askBin hd selector => exact event_keeps (askDelivered_keepsTransmit hd _) h hs
  | askHead hd => exact event_keeps (askDelivered_keepsTransmit hd _) h hs
  | askCounters hd => exact event_keeps (askDelivered_keepsTransmit hd _) h hs
  | reportEcho =>
    exact event_keeps (echo_keepsTransmit (k := .report) (by decide)
      fun e => keepsTransmit_of fun _ _ => reportEchoed_keepsLink e) h hs
  | answerEcho =>
    exact event_keeps
      (echo_keepsTransmit (k := .answer) (handOn := fun _ => State.answerEchoed) (by decide) fun _ _ hu => hu) h hs
  | orderStandby hd => exact event_keeps (orderDelivered_keepsTransmit hd _ (orderOf_keepsTransmit .standby)) h hs
  | orderResume hd r =>
    exact event_keeps
      (orderDelivered_keepsTransmit hd _ (takeOrder_keepsTransmit _ (obeyResume_keepsTransmit r))) h hs
  | orderSelfTest hd => exact event_keeps (orderDelivered_keepsTransmit hd _ (orderOf_keepsTransmit .selfTest)) h hs
  | orderClearCounters hd =>
    exact event_keeps (orderDelivered_keepsTransmit hd _ (orderOf_keepsTransmit .clearCounters)) h hs
  | orderReboot hd straps cut =>
    exact event_keeps (orderDelivered_keepsTransmit hd _ fun u _ => reboot_transmitSound straps cut u) h hs
  | serviceButton r => exact event_keeps (buttonPressed_keepsTransmit r) h hs
  | sheetAtGate mark => exact event_keeps (keepsTransmit_of fun _ _ => sheetArrives_keepsLink mark) h hs
  | gapTimerExpiry p => exact event_keeps (keepsTransmit_of fun _ _ => gapExpires_keepsLink p) h hs
  | firstSheetTimerExpiry p => exact event_keeps (keepsTransmit_of fun _ _ => firstSheetExpires_keepsLink p) h hs
  | strokeComplete v => exact event_keeps (keepsTransmit_of fun _ _ => strokeCompletes_keepsLink v) h hs
  | strokeLimitExpiry => exact event_keeps (limitExpires_keepsTransmit _ _) h hs
  | noStaple => exact event_keeps (keepsTransmit_of fun _ _ => noStapleFound_keepsLink) h hs
  | headJam => exact event_keeps headJams_keepsTransmit h hs
  | ejectComplete occupied => exact event_keeps (ejectCompletes_keepsTransmit occupied) h hs
  | ejectLimitExpiry => exact event_keeps (limitExpires_keepsTransmit _ _) h hs
  | carriageJam => exact event_keeps (limitExpires_keepsTransmit _ _) h hs
  | dropConfirmed => exact event_keeps (keepsTransmit_of fun _ _ => dropConfirms_keepsLink) h hs
  | dropLimitExpiry => exact event_keeps (limitExpires_keepsTransmit _ _) h hs
  | trayDropConfirmed occupied => exact event_keeps (trayDropConfirms_keepsTransmit occupied) h hs
  | trayDropLimitExpiry => exact event_keeps (limitExpires_keepsTransmit _ _) h hs
  | referenceReading v => exact event_keeps (keepsTransmit_of fun _ _ => referenceRead_keepsLink v) h hs
  | readingLimitExpiry => exact event_keeps (keepsTransmit_of fun _ _ => readingExpires_keepsLink) h hs
  | cartridgeInserted =>
    exact event_keeps (f := fun u => State.senseRaised _ _ u.cartridgeShows)
      (fun u hu => keepsTransmit_of (fun _ _ => senseRaised_keepsLink _ refill_keepsLink) u.cartridgeShows hu) h hs
  | binEmptied bin =>
    exact event_keeps (keepsTransmit_of fun _ _ => senseRaised_keepsLink _ fun _ => emptyBin_keepsLink bin) h hs
  | trayEmptied =>
    exact event_keeps (keepsTransmit_of fun _ _ => senseRaised_keepsLink _ fun _ => emptyTray_keepsLink) h hs
  | pocketJam p =>
    obtain rfl := Host.Outcome.next.inj h
    exact pocketJams_keepsTransmit p s hs
  | lossOfPower cut =>
    obtain rfl := Host.Outcome.next.inj h
    exact keepsTransmit_of (fun _ _ => cutStore_keepsLink (cut && s.part.supplied)) s hs
  | frameForAnotherMember f => exact event_keeps (memberFrame_keepsTransmit (handOn_keepsTransmit f) f) h hs
  | pocketJamCleared p =>
    obtain rfl := Host.Outcome.next.inj h
    exact hs

end Sys2Proof.Machine

namespace Sys2Proof.Machine

open Sys2Proof.Config

/-! ### What the agreement of pockets, queue and head reads (R25, R30, R83, R84, R90) -/

/-- What a head state says of the work: of an operation its pocket, job, stamp and pass-overs (R83). -/
inductive HeadWork where
  | idle
  | busy (pocket : PocketId) (job : Job) (stamp passOvers : Nat)
  | testing
  | stopped

def HeadState.work : HeadState → HeadWork
  | .idle => .idle
  | .busy op => .busy op.pocket op.job op.stamp op.passOvers
  | .testing _ _ => .testing
  | .stopped => .stopped

theorem HeadState.work_idle {h : HeadState} : h.work = .idle ↔ h = .idle := by cases h <;> simp [HeadState.work]

theorem HeadState.work_stopped {h : HeadState} : h.work = .stopped ↔ h = .stopped := by cases h <;> simp [HeadState.work]

@[simp] theorem HeadState.work_tick (h : HeadState) : h.tick.work = h.work := by cases h <;> rfl

/-- The pack of a pending bid and the pocket it claims (R25, R30). -/
def PendingBid.claim (b : PendingBid) : PackId × PocketId := (b.id, b.pocket)

/-- The parts of the state that the agreement of the pockets, the queue and the head speaks of. -/
@[ext] structure WorkView where
  config : Option StationConfig
  station : StationState
  queue : List QueueEntry
  arrivals : Nat
  head : HeadWork
  testWaiting : Bool
  pockets : PocketId → PocketState
  claims : List (PackId × PocketId)

def State.view (s : State) : WorkView :=
  { config := s.config, station := s.ctl.station, queue := s.head.queue, arrivals := s.head.arrivals,
    head := s.head.state.work, testWaiting := s.head.testWaiting, pockets := fun p => (s.pockets.get p).state,
    claims := s.packs.bids.map PendingBid.claim }

/-- The queue holds the WAITING pockets, each once with its job, in stamp order (R84). -/
structure WorkView.QueueAgrees (v : WorkView) : Prop where
  nodup : (v.queue.map QueueEntry.pocket).Nodup
  waits : ∀ e ∈ v.queue, v.pockets e.pocket = .waiting e.job
  queued : ∀ p j, v.pockets p = .waiting j → ∃ e ∈ v.queue, e.pocket = p
  ordered : v.queue.Pairwise fun x y => x.stamp < y.stamp
  within : ∀ e ∈ v.queue, e.stamp ≤ v.arrivals ∧ e.passOvers ≤ 8

/-- A BUSY head works its AT_HEAD pocket, with a stamp of its own (R83, R89). -/
def WorkView.HeadAgrees (v : WorkView) : Prop :=
  ∀ p j stamp passOvers, v.head = .busy p j stamp passOvers →
    v.pockets p = .atHead j ∧ stamp ≤ v.arrivals ∧ passOvers ≤ 8 ∧ ∀ e ∈ v.queue, e.stamp ≠ stamp

/-- The claims are on distinct FREE pockets, one for each pack (R25, R30). -/
structure WorkView.ClaimsAgree (v : WorkView) : Prop where
  free : ∀ c ∈ v.claims, v.pockets c.2 = .free
  pockets : (v.claims.map Prod.snd).Nodup
  packs : (v.claims.map Prod.fst).Nodup

/-- What the station state says of the configuration, the queue and the head (R103, R184, R187). -/
structure WorkView.StationAgrees (v : WorkView) : Prop where
  unconfigured : v.config = none → v.queue = [] ∧ v.claims = [] ∧ (∀ p j n k, v.head ≠ .busy p j n k) ∧
    (v.station = .loading ∨ v.station = .configFault ∨ v.station = .safe)
  configured : v.config ≠ none → v.station ≠ .loading ∧ v.station ≠ .configFault
  stopped :
    v.station = .halting ∨ v.station = .halted ∨ v.station = .safe ∨ v.station = .configFault → v.head = .stopped
  halted : v.station = .halted → v.queue = []

/-- An IDLE head has been served (R90, R116). -/
def WorkView.Served (v : WorkView) : Prop :=
  v.head = .idle → v.testWaiting = false ∧ (v.station.selects = true → ∀ e ∈ v.queue, e.blocked ≠ none)

/-- The agreement but for what the station state says. -/
structure WorkView.WorkSound (v : WorkView) : Prop where
  queue : v.QueueAgrees
  head : v.HeadAgrees
  claims : v.ClaimsAgree

structure WorkView.Agrees (v : WorkView) : Prop where
  work : v.WorkSound
  station : v.StationAgrees
  served : v.Served

theorem State.view_claims_eq_nil {s : State} : s.view.claims = [] ↔ s.packs.bids = [] := List.map_eq_nil_iff

theorem HeadState.work_ne_busy {h : HeadState} : (∀ p j n k, h.work ≠ .busy p j n k) ↔ ∀ op, h ≠ .busy op := by
  cases h with
  | busy op => exact ⟨fun hn => absurd rfl (hn _ _ _ _), fun hn => absurd rfl (hn op)⟩
  | _ => simp [HeadState.work]

theorem headOnItsPocket_iff {s : State} : HeadOnItsPocket s ↔ s.view.HeadAgrees := by
  constructor
  · intro h p j n k hb
    cases hs : s.head.state with
    | busy op =>
      simp only [State.view, hs, HeadState.work, HeadWork.busy.injEq] at hb
      obtain ⟨rfl, rfl, rfl, rfl⟩ := hb
      exact h op hs
    | _ => simp [State.view, hs, HeadState.work] at hb
  · intro h op hs
    exact h op.pocket op.job op.stamp op.passOvers (by simp [State.view, hs, HeadState.work])

theorem claimsFreePockets_iff {s : State} : ClaimsFreePockets s ↔ s.view.ClaimsAgree := by
  have hsnd : s.view.claims.map Prod.snd = s.packs.bids.map PendingBid.pocket := by
    simp [State.view, PendingBid.claim, Function.comp_def]
  have hfst : s.view.claims.map Prod.fst = s.packs.bids.map PendingBid.id := by
    simp [State.view, PendingBid.claim, Function.comp_def]
  have hfree : (∀ c ∈ s.view.claims, s.view.pockets c.2 = .free) ↔
      ∀ b ∈ s.packs.bids, (s.pockets.get b.pocket).state = .free := by
    simp [State.view, PendingBid.claim]
  constructor
  · rintro ⟨hf, hp, hi⟩
    exact ⟨hfree.2 hf, hsnd ▸ hp, hfst ▸ hi⟩
  · rintro ⟨hf, hp, hi⟩
    exact ⟨hfree.1 hf, hsnd ▸ hp, hfst ▸ hi⟩

theorem idleHeadServed_iff {s : State} : IdleHeadServed s ↔ s.view.Served := by
  simp only [IdleHeadServed, WorkView.Served, State.view, HeadState.work_idle, StationState.selects_iff]

theorem stationAgrees_iff {s : State} :
    s.view.StationAgrees ↔
      ConfiguredOrIdle s ∧ StoppedStation s ∧ (s.ctl.station = .halted → s.head.queue = []) := by
  have hun : ((s.view.config = none → s.view.queue = [] ∧ s.view.claims = [] ∧
        (∀ p j n k, s.view.head ≠ .busy p j n k) ∧
        (s.view.station = .loading ∨ s.view.station = .configFault ∨ s.view.station = .safe)) ∧
      (s.view.config ≠ none → s.view.station ≠ .loading ∧ s.view.station ≠ .configFault)) ↔ ConfiguredOrIdle s := by
    rw [State.view_claims_eq_nil]
    simp only [State.view, HeadState.work_ne_busy]
    rfl
  have hstop : (s.view.station = .halting ∨ s.view.station = .halted ∨ s.view.station = .safe ∨
      s.view.station = .configFault → s.view.head = .stopped) ↔ StoppedStation s := by
    simp only [State.view, HeadState.work_stopped]
    rfl
  constructor
  · rintro ⟨hu, hc, hs, hh⟩
    exact ⟨hun.1 ⟨hu, hc⟩, hstop.1 hs, hh⟩
  · rintro ⟨hc, hs, hh⟩
    obtain ⟨hu, hc⟩ := hun.2 hc
    exact ⟨hu, hc, hstop.2 hs, hh⟩

theorem workAgrees_iff {s : State} : WorkAgrees s ↔ TransmitSound s ∧ s.view.Agrees := by
  constructor
  · rintro ⟨htx, hconf, hstop, hhalt, ⟨hnd, hw, hq⟩, ⟨hord, hin⟩, hhead, hclaims, hserved⟩
    exact ⟨htx, ⟨⟨hnd, hw, hq, hord, hin⟩, headOnItsPocket_iff.1 hhead, claimsFreePockets_iff.1 hclaims⟩,
      stationAgrees_iff.2 ⟨hconf, hstop, hhalt⟩, idleHeadServed_iff.1 hserved⟩
  · rintro ⟨htx, ⟨⟨hnd, hw, hq, hord, hin⟩, hhead, hclaims⟩, hstation, hserved⟩
    obtain ⟨hconf, hstop, hhalt⟩ := stationAgrees_iff.1 hstation
    exact ⟨htx, hconf, hstop, hhalt, ⟨hnd, hw, hq⟩, ⟨hord, hin⟩, headOnItsPocket_iff.2 hhead,
      claimsFreePockets_iff.2 hclaims, idleHeadServed_iff.2 hserved⟩

/-! ### Changes of the queue and of the pockets -/

namespace WorkView

variable {v w : WorkView}

/-- The entries keep their pockets and stamps and agree with the pockets as they now stand. -/
theorem QueueAgrees.map (h : v.QueueAgrees) {f : QueueEntry → QueueEntry} (hq : w.queue = v.queue.map f)
    (ha : w.arrivals = v.arrivals)
    (hf : ∀ e ∈ v.queue, (f e).pocket = e.pocket ∧ (f e).stamp = e.stamp ∧ (f e).passOvers ≤ 8)
    (hwaits : ∀ e ∈ v.queue, w.pockets e.pocket = .waiting (f e).job)
    (hwaiting : ∀ p j, w.pockets p = .waiting j → ∃ i, v.pockets p = .waiting i) : w.QueueAgrees where
  nodup := by
    have : (v.queue.map f).map QueueEntry.pocket = v.queue.map QueueEntry.pocket := by
      simpa using fun e he => (hf e he).1
    rw [hq, this]
    exact h.nodup
  waits := by
    rw [hq]
    intro x hx
    obtain ⟨e, he, rfl⟩ := List.mem_map.1 hx
    rw [(hf e he).1]
    exact hwaits e he
  queued := fun p j hp => by
    obtain ⟨i, hi⟩ := hwaiting p j hp
    obtain ⟨e, he, hep⟩ := h.queued p i hi
    exact ⟨f e, hq ▸ List.mem_map_of_mem he, (hf e he).1.trans hep⟩
  ordered := by
    rw [hq, List.pairwise_map]
    exact h.ordered.imp_of_mem fun hx hy hlt => by rwa [(hf _ hx).2.1, (hf _ hy).2.1]
  within := by
    rw [hq, ha]
    intro x hx
    obtain ⟨e, he, rfl⟩ := List.mem_map.1 hx
    obtain ⟨-, hs, hk⟩ := hf e he
    exact ⟨hs ▸ (h.within e he).1, hk⟩

/-- The queue stands, and a pocket is WAITING with the same job as before or not at all. -/
theorem QueueAgrees.congr (h : v.QueueAgrees) (hq : w.queue = v.queue) (ha : w.arrivals = v.arrivals)
    (hp : ∀ p j, w.pockets p = .waiting j ↔ v.pockets p = .waiting j) : w.QueueAgrees :=
  h.map (f := id) (by simp [hq]) ha (fun e he => ⟨rfl, rfl, (h.within e he).2⟩)
    (fun e he => (hp _ _).2 (h.waits e he)) fun p j hw => ⟨j, (hp p j).1 hw⟩

/-- An entry leaves the queue and its pocket is no longer WAITING. -/
theorem QueueAgrees.remove (h : v.QueueAgrees) {g : QueueEntry} (hg : g ∈ v.queue) {f : QueueEntry → QueueEntry}
    (hq : w.queue = (v.queue.erase g).map f) (ha : w.arrivals = v.arrivals)
    (hf : ∀ e ∈ v.queue, (f e).pocket = e.pocket ∧ (f e).job = e.job ∧ (f e).stamp = e.stamp ∧ (f e).passOvers ≤ 8)
    (hself : ∀ j, w.pockets g.pocket ≠ .waiting j) (hother : ∀ p, p ≠ g.pocket → w.pockets p = v.pockets p) :
    w.QueueAgrees := by
  have hsub : (v.queue.erase g).Sublist v.queue := List.erase_sublist
  have hne : ∀ e ∈ v.queue.erase g, e.pocket ≠ g.pocket := fun e he heq => by
    obtain rfl := List.inj_on_of_nodup_map h.nodup (hsub.subset he) hg heq
    exact (h.nodup.of_map _).not_mem_erase he
  have hrest : ({ v with queue := v.queue.erase g, pockets := w.pockets } : WorkView).QueueAgrees :=
    { nodup := h.nodup.sublist (hsub.map _)
      waits := fun e he => (hother _ (hne e he)).trans (h.waits e (hsub.subset he))
      queued := fun p j hp => by
        have hpg : p ≠ g.pocket := fun e => hself j (e ▸ hp)
        obtain ⟨e, he, hep⟩ := h.queued p j ((hother p hpg) ▸ hp)
        exact ⟨e, (List.mem_erase_of_ne fun heg => hpg (by rw [← hep, heg])).2 he, hep⟩
      ordered := h.ordered.sublist hsub
      within := fun e he => h.within e (hsub.subset he) }
  refine hrest.map hq ha (fun e he => ?_) (fun e he => ?_) fun p j hp => ⟨j, hp⟩
  · obtain ⟨hp, -, hs, hk⟩ := hf e (hsub.subset he)
    exact ⟨hp, hs, hk⟩
  · rw [(hf e (hsub.subset he)).2.1]
    exact hrest.waits e he

/-- An entry with a stamp of its own enters for a pocket that becomes WAITING. -/
theorem QueueAgrees.add (h : v.QueueAgrees) {g : QueueEntry} (hq : w.queue.Perm (g :: v.queue))
    (hord : w.queue.Pairwise fun x y => x.stamp < y.stamp) (ha : v.arrivals ≤ w.arrivals)
    (hg : g.stamp ≤ w.arrivals ∧ g.passOvers ≤ 8) (hbefore : ∀ j, v.pockets g.pocket ≠ .waiting j)
    (hself : w.pockets g.pocket = .waiting g.job) (hother : ∀ p, p ≠ g.pocket → w.pockets p = v.pockets p) :
    w.QueueAgrees := by
  have hne : ∀ e ∈ v.queue, e.pocket ≠ g.pocket := fun e he heq => hbefore e.job (heq ▸ h.waits e he)
  have hmem : ∀ e, e ∈ w.queue ↔ e = g ∨ e ∈ v.queue := fun e => by rw [hq.mem_iff, List.mem_cons]
  refine ⟨?_, ?_, ?_, hord, ?_⟩
  · rw [(hq.map QueueEntry.pocket).nodup_iff, List.map_cons, List.nodup_cons]
    refine ⟨fun hm => ?_, h.nodup⟩
    obtain ⟨e, he, hep⟩ := List.mem_map.1 hm
    exact hne e he hep
  · intro e he
    rcases (hmem e).1 he with rfl | he
    · exact hself
    · rw [hother _ (hne e he)]
      exact h.waits e he
  · intro p j hp
    by_cases hpg : p = g.pocket
    · exact ⟨g, (hmem g).2 (Or.inl rfl), hpg.symm⟩
    · obtain ⟨e, he, hep⟩ := h.queued p j ((hother p hpg) ▸ hp)
      exact ⟨e, (hmem e).2 (Or.inr he), hep⟩
  · intro e he
    rcases (hmem e).1 he with rfl | he
    · exact hg
    · exact ⟨(h.within e he).1.trans ha, (h.within e he).2⟩

/-- Claims may go, and the claimed pockets stay FREE. -/
theorem ClaimsAgree.sublist (h : v.ClaimsAgree) (hc : w.claims.Sublist v.claims)
    (hp : ∀ c ∈ w.claims, v.pockets c.2 = .free → w.pockets c.2 = .free) : w.ClaimsAgree :=
  ⟨fun c hm => hp c hm (h.free c (hc.subset hm)), h.pockets.sublist (hc.map _), h.packs.sublist (hc.map _)⟩

/-- A pocket in a state other than FREE is claimed by no bid. -/
theorem ClaimsAgree.not_claimed (h : v.ClaimsAgree) {p : PocketId} (hp : v.pockets p ≠ .free) :
    ∀ c ∈ v.claims, c.2 ≠ p := fun c hc hcp => hp (hcp ▸ h.free c hc)

/-- Nothing is claimed on a pocket in a state other than FREE, so it may change. -/
theorem ClaimsAgree.repocket (h : v.ClaimsAgree) (hc : w.claims = v.claims) {p : PocketId} (hp : v.pockets p ≠ .free)
    (hother : ∀ q, q ≠ p → w.pockets q = v.pockets q) : w.ClaimsAgree :=
  h.sublist (hc ▸ List.Sublist.refl _) fun c hm hf => (hother _ (h.not_claimed hp c (hc ▸ hm))).trans hf

theorem HeadAgrees.not_busy (h : ∀ p j n k, v.head ≠ .busy p j n k) : v.HeadAgrees :=
  fun p j n k hb => absurd hb (h p j n k)

end WorkView

end Sys2Proof.Machine

namespace Sys2Proof.Machine

open Sys2Proof.Config

/-! ### What leaves the pockets, the queue, the head and the claims as they stand -/

theorem State.view_congr {s t : State} (hconf : t.config = s.config) (hstation : t.ctl.station = s.ctl.station)
    (hhead : t.head = s.head) (hpockets : t.pockets = s.pockets) (hbids : t.packs.bids = s.packs.bids) :
    t.view = s.view := by
  simp only [State.view, hconf, hstation, hhead, hpockets, hbids]

section Unchanged

variable (s : State)

@[simp] theorem State.onPart_view (f : Part → Part) : (s.onPart f).view = s.view := rfl
@[simp] theorem State.onLink_view (f : BayLink → BayLink) : (s.onLink f).view = s.view := rfl
@[simp] theorem State.onRack_view (f : Rack → Rack) : (s.onRack f).view = s.view := rfl
@[simp] theorem State.withStore_view (r : RetainedStore) : (s.withStore r).view = s.view := rfl
@[simp] theorem State.count_view (c : CounterName) : (s.count c).view = s.view := rfl
@[simp] theorem State.onStaples_view (f : StapleBudget → StapleBudget) : (s.onStaples f).view = s.view := rfl
@[simp] theorem State.dropFrame_view (n : Nat) : (s.dropFrame n).view = s.view := rfl
@[simp] theorem State.markFrame_view (n : Nat) (m : TxMark) : (s.markFrame n m).view = s.view := rfl
@[simp] theorem State.endHold_view : s.endHold.view = s.view := rfl
@[simp] theorem State.onEntry_view (id : PackId) (f : Entry → Entry) : (s.onEntry id f).view = s.view := rfl
@[simp] theorem State.retire_view (id : PackId) : (s.retire id).view = s.view := rfl
@[simp] theorem State.placeEntry_view (id : PackId) (owner : Nat) (a : Option Annex) :
    (s.placeEntry id owner a).view = s.view := rfl
@[simp] theorem State.recordBid_view (id : PackId) (r : BidRecord) : (s.recordBid id r).view = s.view := rfl
@[simp] theorem State.received_view : s.received.view = s.view := rfl
@[simp] theorem State.forgetStation_view (station : Nat) : (s.forgetStation station).view = s.view := rfl
@[simp] theorem State.forgetSelf_view : s.forgetSelf.view = s.view := rfl
@[simp] theorem State.echoed_view (e : TxEntry) : (s.echoed e).view = s.view := rfl
@[simp] theorem State.readSensors_view (r : ResumeReadings) : (s.readSensors r).view = s.view := rfl
@[simp] theorem State.readOccupied_view (p : PocketId) (b : Bool) : (s.readOccupied p b).view = s.view := rfl
@[simp] theorem State.divertTo_view (p : Option PocketId) : (s.divertTo p).view = s.view := rfl
@[simp] theorem State.passOwn_view : s.passOwn.view = s.view := rfl
@[simp] theorem State.extraSheet_view : s.extraSheet.view = s.view := rfl
@[simp] theorem State.holdEchoed_view : s.holdEchoed.view = s.view := rfl
@[simp] theorem State.answerEchoed_view : s.answerEchoed.view = s.view := rfl
@[simp] theorem State.headReported_view (c : HeadContent) : (s.headReported c).view = s.view := rfl
@[simp] theorem State.binReported_view (n : Nat) (c : BinContent) : (s.binReported n c).view = s.view := rfl
@[simp] theorem State.writeClinch_view (n : Nat) (v : SenseReading) : (s.writeClinch n v).view = s.view := rfl
@[simp] theorem State.writeReference_view (l : TestLevel) (v : SenseReading) :
    (s.writeReference l v).view = s.view := rfl
@[simp] theorem State.forgetCursor_view (n : Nat) : (s.forgetCursor n).view = s.view := rfl
@[simp] theorem State.clearHeld_view : s.clearHeld.view = s.view := rfl
@[simp] theorem State.budgetUnset_view : s.budgetUnset.view = s.view := rfl
@[simp] theorem State.jamLine_view (p : PocketId) (b : Bool) : (s.jamLine p b).view = s.view := rfl
@[simp] theorem State.withPending_view (cs : List Instr) : (s.withPending cs).view = s.view := rfl

theorem State.onCtl_view {f : Controller → Controller} (h : (f s.ctl).station = s.ctl.station) :
    (s.onCtl f).view = s.view := State.view_congr rfl h rfl rfl rfl

@[simp] theorem State.bidSent_view (id : PackId) : (s.bidSent id).view = s.view := by
  have hclaims : (s.bidSent id).packs.bids.map PendingBid.claim = s.packs.bids.map PendingBid.claim := by
    simp only [State.bidSent, State.onPacks_packs, List.map_map]
    refine List.map_congr_left fun b _ => ?_
    simp only [Function.comp_apply]
    split <;> rfl
  simp only [State.view, hclaims]
  rfl

/-- A pocket record may change as long as its state stands. -/
theorem State.onPocket_view {p : PocketId} {f : Pocket → Pocket} (h : (f (s.pockets.get p)).state = (s.pockets.get p).state) :
    (s.onPocket p f).view = s.view := by
  have hpockets : (fun q => ((s.onPocket p f).pockets.get q).state) = fun q => (s.pockets.get q).state := by
    funext q
    by_cases hq : q = p
    · rw [hq, State.onPocket_self, h]
    · rw [State.onPocket_other _ _ hq]
  simp only [State.view, hpockets]
  rfl

@[simp] theorem State.nextIndex_view (p : PocketId) : (s.nextIndex p).view = s.view := s.onPocket_view rfl

@[simp] theorem State.takeSheet_view (p : PocketId) : (s.takeSheet p).view = s.view :=
  (s.divertTo (some p)).onPocket_view rfl

@[simp] theorem State.writeStore_view : s.writeStore.view = s.view :=
  State.view_congr (by simp) (by simp) (by simp) (by simp) (by simp)

@[simp] theorem State.spendStaple_view : s.spendStaple.view = s.view := State.writeStore_view _

@[simp] theorem State.emptyStaples_view : s.emptyStaples.view = s.view := State.writeStore_view _

@[simp] theorem State.onBin_view (n : Nat) (f : Bin → Bin) : (s.onBin n f).view = s.view :=
  State.view_congr (by simp) (by simp) (by simp) (by simp) (by simp)

@[simp] theorem State.append_view (f : TxFrame) : (s.append f).view = s.view :=
  State.view_congr (by simp) (by simp) (by simp) (by simp) (by simp)

@[simp] theorem State.appendReport_view (a : Ask) : (s.appendReport a).view = s.view := by
  unfold State.appendReport
  split
  · exact State.append_view s _
  · exact State.append_view s _

@[simp] theorem State.replaceReport_view (a : Ask) : (s.replaceReport a).view = s.view := by
  unfold State.replaceReport
  split
  · exact s.appendReport_view a
  · split
    · rfl
    · exact State.appendReport_view _ a

@[simp] theorem State.takeAsk_view (a : Ask) : (s.takeAsk a).view = s.view := by
  unfold State.takeAsk
  split
  · exact State.appendReport_view _ a
  · exact State.replaceReport_view _ a

@[simp] theorem State.asked_view (a : Ask) : (s.asked a).view = s.view := by
  unfold State.asked
  split
  · exact s.takeAsk_view a
  · rfl

@[simp] theorem State.raiseHold_view : s.raiseHold.view = s.view := by
  unfold State.raiseHold
  split
  · split
    · rfl
    · exact s.append_view _
  · rfl

@[simp] theorem State.noteHold_view (before : Bool) : (s.noteHold before).view = s.view := by
  unfold State.noteHold
  split
  · exact s.raiseHold_view
  · rfl

@[simp] theorem State.judgeHold_view : s.judgeHold.view = s.view := by
  unfold State.judgeHold
  split
  · exact s.raiseHold_view
  · rfl

@[simp] theorem State.renewHold_view : s.renewHold.view = s.view := by
  unfold State.renewHold
  split
  · split
    · exact s.append_view _
    · rfl
  · rfl

@[simp] theorem State.requestEnd_view (id : PackId) (f : TxFrame) : (s.requestEnd id f).view = s.view := by
  unfold State.requestEnd
  split
  · rfl
  · split
    · exact s.append_view f
    · rfl

@[simp] theorem State.releaseCommitments_view (p : PocketId) : (s.releaseCommitments p).view = s.view := by
  unfold State.releaseCommitments
  split
  · rfl
  · exact State.onBin_view _ _ _

@[simp] theorem State.accountAside_view (p : PocketId) (r : AsideReason) : (s.accountAside p r).view = s.view :=
  s.releaseCommitments_view p

@[simp] theorem State.startAttempt_view : s.startAttempt.view = s.view := by
  unfold State.startAttempt
  split <;> rfl

@[simp] theorem State.contentReported_view (a : Ask) (c : ReportContent) : (s.contentReported a c).view = s.view := by
  unfold State.contentReported
  split
  · rfl
  · split <;> rfl
  · rfl

@[simp] theorem State.freeReportSlot_view (m : TxMark) : (s.freeReportSlot m).view = s.view := by
  unfold State.freeReportSlot
  split
  · split
    · rfl
    · exact s.appendReport_view _
  · rfl
  · rfl

@[simp] theorem State.reportEchoed_view (e : TxEntry) : (s.reportEchoed e).view = s.view := by
  unfold State.reportEchoed
  split <;> simp

@[simp] theorem State.trayTakes_view : s.trayTakes.view = s.view := by
  simp [State.trayTakes]

@[simp] theorem State.recordDrop_view (op : Operation) (o : Offer) (bin : Nat) :
    (s.recordDrop op o bin).view = s.view := by
  simp [State.recordDrop]

@[simp] theorem State.cutStore_view (cut : Bool) : (s.cutStore cut).view = s.view := by
  unfold State.cutStore
  split <;> rfl

@[simp] theorem State.tick_view : s.tick.view = s.view := by
  have hpockets : (fun p => (s.tickPockets.pockets.get p).state) = fun p => (s.pockets.get p).state := by
    funext p
    unfold State.tickPockets
    split
    · cases p <;> rfl
    · rfl
  have hrest : s.tickPockets = s.onPockets fun _ => s.tickPockets.pockets := by
    unfold State.tickPockets
    split <;> rfl
  unfold State.tick
  split
  · rw [hrest]
    simp only [State.view, State.onCtl, State.onHead, State.onPockets, HeadState.work_tick, hpockets]
  · rfl

end Unchanged

/-! ### What ends claims or judges a drain -/

/-- Some claims have ended, and a drain may have completed; the rest stands (R35, R190). -/
structure WorkView.Eased (v w : WorkView) : Prop where
  rest : w = { v with station := w.station, claims := w.claims }
  claims : w.claims.Sublist v.claims
  station : w.station = v.station ∨ v.station = .drain ∧ w.station = .standby

namespace WorkView

variable {v w x : WorkView}

theorem Eased.of_eq (h : w = v) : v.Eased w := h ▸ ⟨rfl, List.Sublist.refl _, Or.inl rfl⟩

theorem Eased.trans (h : v.Eased w) (k : w.Eased x) : v.Eased x := by
  refine ⟨by rw [k.rest, h.rest], k.claims.trans h.claims, ?_⟩
  rcases h.station with h | ⟨hd, hs⟩
  · rw [← h]
    exact k.station
  · rcases k.station with k | ⟨kd, -⟩
    · exact Or.inr ⟨hd, k.trans hs⟩
    · rw [hs] at kd
      exact absurd kd nofun

theorem Eased.eqs (h : v.Eased w) : w.config = v.config ∧ w.queue = v.queue ∧ w.arrivals = v.arrivals ∧ w.head = v.head ∧
    w.testWaiting = v.testWaiting ∧ w.pockets = v.pockets := by
  rw [h.rest]
  exact ⟨rfl, rfl, rfl, rfl, rfl, rfl⟩

theorem WorkSound.eased (h : v.WorkSound) (k : v.Eased w) : w.WorkSound := by
  obtain ⟨-, hq, ha, hh, -, hp⟩ := k.eqs
  refine ⟨h.queue.congr hq ha fun p j => by rw [hp], ?_, h.claims.sublist k.claims fun c _ hf => hp ▸ hf⟩
  unfold HeadAgrees
  rw [hq, ha, hh, hp]
  exact h.head

theorem StationAgrees.eased (h : v.StationAgrees) (k : v.Eased w) : w.StationAgrees := by
  obtain ⟨hc, hq, -, hh, -, -⟩ := k.eqs
  have hclaims : v.claims = [] → w.claims = [] := fun he => List.sublist_nil.1 (he ▸ k.claims)
  rcases k.station with hs | ⟨hd, hs⟩
  · refine ⟨fun hn => ?_, fun hn => ?_, fun hn => ?_, fun hn => ?_⟩
    · obtain ⟨h1, h2, h3, h4⟩ := h.unconfigured (hc ▸ hn)
      exact ⟨hq ▸ h1, hclaims h2, hh ▸ h3, hs ▸ h4⟩
    · exact hs ▸ h.configured (hc ▸ hn)
    · exact hh ▸ h.stopped (hs ▸ hn)
    · exact hq ▸ h.halted (hs ▸ hn)
  · have hsome : v.config ≠ none := fun hn => by
      have := (h.unconfigured hn).2.2.2
      simp [hd] at this
    exact ⟨fun hn => absurd (hc ▸ hn) hsome, fun _ => by simp [hs], fun hn => by simp [hs] at hn, fun hn => by simp [hs] at hn⟩

theorem Served.eased (h : v.Served) (k : v.Eased w) : w.Served := by
  obtain ⟨-, hq, -, hh, ht, -⟩ := k.eqs
  intro hi
  obtain ⟨htest, hq'⟩ := h (hh ▸ hi)
  refine ⟨ht ▸ htest, fun hsel => hq ▸ hq' ?_⟩
  rcases k.station with hs | ⟨hd, -⟩
  · exact hs ▸ hsel
  · rw [hd]
    rfl

theorem Agrees.eased (h : v.Agrees) (k : v.Eased w) : w.Agrees :=
  ⟨h.work.eased k, h.station.eased k, h.served.eased k⟩

end WorkView

theorem State.enter_view (st : StationState) (s : State) : (s.enter st).view = { s.view with station := st } := rfl

theorem State.judgeDrain_eased (s : State) : s.view.Eased s.judgeDrain.view := by
  unfold State.judgeDrain
  split
  · next h => exact ⟨rfl, List.Sublist.refl _, Or.inr ⟨h.1, rfl⟩⟩
  · exact .of_eq rfl

theorem State.dropBid_eased (id : PackId) (s : State) : s.view.Eased (s.dropBid id).view :=
  ⟨rfl, List.filter_sublist.map _, Or.inl rfl⟩

theorem State.releaseBid_eased (id : PackId) (s : State) : s.view.Eased (s.releaseBid id).view :=
  (s.dropBid_eased id).trans (State.judgeDrain_eased _)

theorem State.removeBid_eased (id : PackId) (s : State) : s.view.Eased (s.removeBid id).view := by
  unfold State.removeBid
  split
  · exact s.releaseBid_eased id
  · split
    · exact .of_eq rfl
    · exact State.releaseBid_eased id (s.dropFrame _)

theorem State.foldl_eased {α : Type} {f : State → α → State} (h : ∀ (a : α) (s : State), s.view.Eased (f s a).view) :
    ∀ (l : List α) (s : State), s.view.Eased (l.foldl f s).view
  | [], _ => .of_eq rfl
  | a :: l, s => (h a s).trans (State.foldl_eased h l (f s a))

theorem State.withdrawUnsent_eased (s : State) : s.view.Eased s.withdrawUnsent.view :=
  State.foldl_eased (f := fun (t : State) (b : PendingBid) => t.removeBid b.id) (fun b t => t.removeBid_eased b.id) _ s

theorem State.endAttempt_eased (s : State) : s.view.Eased s.endAttempt.view := by
  unfold State.endAttempt
  split
  · exact .of_eq rfl
  · dsimp only
    split
    · exact .of_eq rfl
    · unfold State.reportRemoval
      split
      · exact State.releaseBid_eased _ (State.dropFrame _ (s.onLink _))
      · exact .of_eq rfl
    · split
      · exact .of_eq rfl
      · exact .of_eq (State.appendReport_view _ _)

theorem State.arbitrate_eased (others : List Arbitration) (s : State) : s.view.Eased (s.arbitrate others).view := by
  unfold State.arbitrate
  split
  · exact .of_eq rfl
  · split
    · exact .of_eq rfl
    · exact s.endAttempt_eased

theorem State.enterContention_eased (s : State) : s.view.Eased s.enterContention.view :=
  s.endAttempt_eased.trans (.of_eq (State.startAttempt_view _))

theorem State.contends_eased (m : ContentionMoment) (s : State) : s.view.Eased (s.contends m).view := by
  unfold State.contends
  split
  · cases m with
    | whole others => exact s.enterContention_eased.trans (State.arbitrate_eased others _)
    | begins => exact s.enterContention_eased
    | arbitrates others => exact s.arbitrate_eased others
    | differs => exact s.endAttempt_eased
  · exact .of_eq rfl

theorem State.takeBid_eased (sender : Nat) (mine : Bool) (fit load : Nat) (id : PackId) (s : State) :
    s.view.Eased (s.takeBid sender mine fit load id).view := by
  unfold State.takeBid
  split
  · dsimp only
    split
    · exact State.releaseBid_eased id (s.count _)
    · exact .of_eq rfl
  · split
    · dsimp only
      split
      · exact State.releaseBid_eased id (s.count _)
      · exact .of_eq rfl
    · split
      · exact .of_eq rfl
      · dsimp only
        split
        · exact .of_eq (by simp)
        · exact .of_eq rfl

theorem State.takeBidFrom_eased (sender : Nat) (b : BidBody) (id : PackId) (s : State) :
    s.view.Eased (s.takeBidFrom sender b id).view := by
  unfold State.takeBidFrom
  split
  · exact s.takeBid_eased _ _ _ _ _
  · exact .of_eq rfl

theorem State.takeBidEcho_eased (e : TxEntry) (s : State) : s.view.Eased (s.takeBidEcho e).view := by
  unfold State.takeBidEcho
  split
  · split
    · exact s.takeBid_eased _ _ _ _ _
    · exact .of_eq rfl
  · exact .of_eq rfl

theorem State.resolveRetired_eased (id : PackId) (s : State) : s.view.Eased (s.resolveRetired id).view := by
  unfold State.resolveRetired
  split
  · exact .of_eq rfl
  · split
    · exact s.removeBid_eased id
    · exact s.releaseBid_eased id

theorem State.takeForget_eased (sender : Nat) (s : State) : s.view.Eased (s.takeForget sender).view := by
  unfold State.takeForget
  split <;> exact .of_eq rfl

end Sys2Proof.Machine

namespace Sys2Proof.Machine

open Sys2Proof.Config

/-- The states of a pocket with sheets or a pack that is neither in the queue nor at the head. -/
def PocketState.isAway : PocketState → Bool
  | .reserved => true
  | .filling => true
  | .absorbing _ => true
  | .retiring _ => true
  | .leftover => true
  | .free => false
  | .waiting _ => false
  | .atHead _ => false

namespace WorkView

variable {v w : WorkView} {p : PocketId}

/-! ### A station that works -/

/-- A configured station in a hold state: nothing stops its pockets and its head (R155). -/
def Open (v : WorkView) : Prop := v.station.holds = true ∧ v.config ≠ none

theorem StationAgrees.of_open (h : v.Open) : v.StationAgrees := by
  obtain ⟨hs, hc⟩ := h
  refine ⟨fun hn => absurd hn hc, fun _ => ⟨fun he => ?_, fun he => ?_⟩, fun hn => ?_, fun hn => ?_⟩
  · rw [he] at hs
    exact absurd hs nofun
  · rw [he] at hs
    exact absurd hs nofun
  · rcases hn with he | he | he | he <;> rw [he] at hs <;> exact absurd hs nofun
  · rw [hn] at hs
    exact absurd hs nofun

theorem StationAgrees.configured_of (h : v.StationAgrees)
    (hs : v.station ≠ .loading ∧ v.station ≠ .configFault ∧ v.station ≠ .safe) : v.config ≠ none := fun hn => by
  rcases (h.unconfigured hn).2.2.2 with he | he | he
  · exact hs.1 he
  · exact hs.2.1 he
  · exact hs.2.2 he

theorem StationAgrees.open_of_holds (h : v.StationAgrees) (hs : v.station.holds = true) : v.Open := by
  refine ⟨hs, h.configured_of ⟨?_, ?_, ?_⟩⟩ <;> intro he <;> rw [he] at hs <;> exact absurd hs nofun

theorem StationAgrees.open_of_gates (h : v.StationAgrees) (hs : v.station.gates = true) : v.Open := by
  refine h.open_of_holds ?_
  revert hs
  cases v.station <;> simp [StationState.gates, StationState.holds]

theorem StationAgrees.open_of_busy (h : v.StationAgrees) {j : Job} {n k : Nat} (hb : v.head = .busy p j n k) : v.Open := by
  have hc : v.config ≠ none := fun hn => (h.unconfigured hn).2.2.1 p j n k hb
  have hstop := h.stopped
  obtain ⟨hl, hf⟩ := h.configured hc
  refine ⟨?_, hc⟩
  revert hstop hl hf
  rw [hb]
  cases v.station <;> simp [StationState.holds]

/-- A STOPPED head under a configuration, in a state that need not have an empty queue. -/
theorem StationAgrees.of_stopped (hh : w.head = .stopped) (hc : w.config ≠ none) (hl : w.station ≠ .loading)
    (hf : w.station ≠ .configFault) (hq : w.station = .halted → w.queue = []) : w.StationAgrees :=
  ⟨fun hn => absurd hn hc, fun _ => ⟨hl, hf⟩, fun _ => hh, hq⟩

theorem Served.of_not_idle (h : v.head ≠ .idle) : v.Served := fun hi => absurd hi h

theorem Agrees.of_open (h : w.WorkSound) (ho : w.Open) (hs : w.Served) : w.Agrees := ⟨h, .of_open ho, hs⟩

/-! ### A pocket that nothing names -/

/-- No entry, no claim and no operation names the pocket. -/
structure Loose (v : WorkView) (p : PocketId) : Prop where
  unqueued : ∀ j, v.pockets p ≠ .waiting j
  unclaimed : ∀ c ∈ v.claims, c.2 ≠ p
  unworked : ∀ j n k, v.head ≠ .busy p j n k

theorem WorkSound.loose (h : v.WorkSound) (hp : (v.pockets p).isAway = true) : v.Loose p := by
  have hne : ∀ st, v.pockets p = st → st.isAway = true := fun st hst => hst ▸ hp
  exact ⟨fun j hw => absurd (hne _ hw) nofun, h.claims.not_claimed fun hf => absurd (hne _ hf) nofun,
    fun j n k hb => absurd (hne _ (h.head p j n k hb).1) nofun⟩

/-- A loose pocket may take any state but WAITING. -/
theorem WorkSound.repocket (h : v.WorkSound) (hp : v.Loose p) {st : PocketState} (hst : ∀ j, st ≠ .waiting j) :
    ({ v with pockets := Function.update v.pockets p st } : WorkView).WorkSound where
  queue := h.queue.congr rfl rfl fun q j => by
    by_cases hq : q = p
    · subst hq
      simp [hst j, hp.unqueued j]
    · simp [hq]
  head := fun q j n k hb => by
    have hq : q ≠ p := fun e => hp.unworked j n k (e ▸ hb)
    simpa [hq] using h.head q j n k hb
  claims := h.claims.sublist (List.Sublist.refl _) fun c hc hf => by simp [hp.unclaimed c hc, hf]

/-- The entry of a loose pocket that becomes WAITING is appended with the next stamp (R85). -/
theorem WorkSound.append (h : v.WorkSound) {e : QueueEntry} (hp : v.Loose e.pocket) (hs : e.stamp = v.arrivals + 1)
    (hk : e.passOvers = 0) :
    ({ v with pockets := Function.update v.pockets e.pocket (.waiting e.job), queue := v.queue ++ [e],
              arrivals := v.arrivals + 1 } : WorkView).WorkSound where
  queue := by
    refine h.queue.add (List.perm_append_singleton _ _) ?_ (Nat.le_succ _) ⟨hs.le, hk ▸ Nat.zero_le _⟩ hp.unqueued
      (by simp) fun q hq => by simp [hq]
    refine List.pairwise_append.2 ⟨h.queue.ordered, List.pairwise_singleton _ _, fun x hx y hy => ?_⟩
    rw [List.mem_singleton.1 hy, hs]
    exact Nat.lt_succ_of_le (h.queue.within x hx).1
  head := fun q j n k hb => by
    have hq : q ≠ e.pocket := fun he => hp.unworked j n k (he ▸ hb)
    obtain ⟨hat, hn, hk, hne⟩ := h.head q j n k hb
    refine ⟨by simpa [hq] using hat, Nat.le_succ_of_le hn, hk, fun x hx => ?_⟩
    rcases List.mem_append.1 hx with hx | hx
    · exact hne x hx
    · rw [List.mem_singleton.1 hx, hs]
      omega
  claims := h.claims.sublist (List.Sublist.refl _) fun c hc hf => by simp [hp.unclaimed c hc, hf]

/-- A queued entry is granted the head (R77, R89, R91). -/
theorem WorkSound.grant (h : v.WorkSound) {g : QueueEntry} (hg : g ∈ v.queue) :
    ({ v with pockets := Function.update v.pockets g.pocket (.atHead g.job),
              queue := (v.queue.erase g).map (passOver g.stamp),
              head := .busy g.pocket g.job g.stamp g.passOvers } : WorkView).WorkSound where
  queue := by
    refine h.queue.remove hg rfl rfl (fun e he => ?_) (fun j => by simp) fun q hq => by simp [hq]
    obtain ⟨hp, hj, -, hs, -⟩ := passOver_parts g.stamp e
    refine ⟨hp, hj, hs, ?_⟩
    unfold passOver
    split
    · exact Nat.min_le_left _ _
    · exact (h.queue.within e he).2
  head := fun q j n k hb => by
    obtain ⟨rfl, rfl, rfl, rfl⟩ := HeadWork.busy.inj hb
    refine ⟨by simp, (h.queue.within g hg).1, (h.queue.within g hg).2, fun x hx => ?_⟩
    obtain ⟨e, he, rfl⟩ := List.mem_map.1 hx
    rw [(passOver_parts g.stamp e).2.2.2.1]
    have hnodup : v.queue.Nodup := h.queue.nodup.of_map _
    have hne : e ≠ g := fun heq => hnodup.not_mem_erase (heq ▸ he)
    have hstamps : (v.queue.map QueueEntry.stamp).Nodup := by
      rw [List.Nodup, List.pairwise_map]
      exact h.queue.ordered.imp Nat.ne_of_lt
    exact fun heq => hne (List.inj_on_of_nodup_map hstamps (List.mem_of_mem_erase he) hg heq)
  claims := h.claims.repocket (p := g.pocket) rfl (by simp [h.queue.waits g hg]) fun q hq => by simp [hq]

/-- The head is no longer BUSY. -/
theorem WorkSound.headTo (h : v.WorkSound) {hd : HeadWork} (hn : ∀ p j n k, hd ≠ .busy p j n k) (b : Bool) :
    ({ v with head := hd, testWaiting := b } : WorkView).WorkSound :=
  ⟨h.queue.congr rfl rfl fun _ _ => Iff.rfl, .not_busy hn, h.claims.sublist (List.Sublist.refl _) fun _ _ hf => hf⟩

end WorkView

/-! ### The views of the operations on the queue and the head -/

section Views

variable (s : State)

theorem State.onPocket_view_eq (p : PocketId) (f : Pocket → Pocket) :
    (s.onPocket p f).view =
      { s.view with pockets := Function.update s.view.pockets p (f (s.pockets.get p)).state } := by
  have hpockets : (fun q => ((s.onPocket p f).pockets.get q).state) =
      Function.update (fun q => (s.pockets.get q).state) p (f (s.pockets.get p)).state := by
    funext q
    by_cases hq : q = p
    · rw [hq, State.onPocket_self, Function.update_self]
    · rw [State.onPocket_other _ _ hq, Function.update_of_ne hq]
  simp only [State.view, hpockets]
  rfl

theorem State.pocketTo_view (p : PocketId) (st : PocketState) :
    (s.pocketTo p st).view = { s.view with pockets := Function.update s.view.pockets p st } := s.onPocket_view_eq p _

theorem State.pocketStops_view (p : PocketId) (st : PocketState) :
    (s.pocketStops p st).view = { s.view with pockets := Function.update s.view.pockets p st } := s.onPocket_view_eq p _

theorem State.headTo_view (st : HeadState) : (s.headTo st).view = { s.view with head := st.work } := rfl

theorem State.stopHead_view : s.stopHead.view = { s.view with head := .stopped, testWaiting := false } := rfl

theorem State.startTest_view : s.startTest.view = { s.view with head := .testing, testWaiting := false } := rfl

theorem State.enqueue_view (p : PocketId) (j : Job) (l : Lane) :
    (s.enqueue p j l).view =
      { s.view with queue := s.view.queue ++ [s.newEntry p j l], arrivals := s.view.arrivals + 1 } :=
  State.noteHold_view _ _

theorem State.grant_view (e : QueueEntry) :
    (s.grant e).view =
      { s.view with pockets := Function.update s.view.pockets e.pocket (.atHead e.job),
                    queue := (s.view.queue.erase e).map (passOver e.stamp),
                    head := .busy e.pocket e.job e.stamp e.passOvers } := by
  unfold State.grant
  rw [State.headTo_view, State.pocketTo_view]
  rfl

theorem State.reevaluate_view : ∃ f : QueueEntry → QueueEntry,
    (∀ e, (f e).pocket = e.pocket ∧ (f e).job = e.job ∧ (f e).stamp = e.stamp ∧ (f e).passOvers = e.passOvers) ∧
      s.reevaluate.view = { s.view with queue := s.view.queue.map f } := by
  unfold State.reevaluate
  split
  · exact ⟨id, fun _ => ⟨rfl, rfl, rfl, rfl⟩, by simp⟩
  · exact ⟨s.evaluated, fun _ => ⟨rfl, rfl, rfl, rfl⟩, rfl⟩

end Views

/-! ### Serving and re-evaluating -/

theorem State.serve_work {s : State} (h : s.view.WorkSound) : s.serve.view.WorkSound := by
  rcases s.serve_cases with e | ⟨-, -, e⟩ | ⟨g, hg, -, -, -, -, e⟩ <;> rw [e]
  · exact h
  · rw [State.startTest_view]
    exact h.headTo (hd := .testing) (by simp) false
  · rw [State.grant_view]
    exact h.grant hg

theorem State.serve_agrees {s : State} (hw : s.view.WorkSound) (hs : s.view.StationAgrees) : s.serve.view.Agrees := by
  refine ⟨State.serve_work hw, ?_, idleHeadServed_iff.1 s.serve_served⟩
  have hidle : s.head.state = .idle → ¬ (s.view.station = .halting ∨ s.view.station = .halted ∨ s.view.station = .safe ∨
      s.view.station = .configFault) := fun hi hstop => by
    have := HeadState.work_stopped.1 (hs.stopped hstop)
    rw [hi] at this
    exact absurd this nofun
  rcases s.serve_cases with e | ⟨hi, -, e⟩ | ⟨g, hg, -, -, hi, -, e⟩ <;> rw [e]
  · exact hs
  · rw [State.startTest_view]
    refine ⟨fun hn => ?_, hs.configured, fun hn => absurd hn (hidle hi), hs.halted⟩
    obtain ⟨hq, hc, -, hst⟩ := hs.unconfigured hn
    exact ⟨hq, hc, fun _ _ _ _ => nofun, hst⟩
  · have hqueue : s.view.queue ≠ [] := List.ne_nil_of_mem hg
    rw [State.grant_view]
    exact ⟨fun hn => absurd (hs.unconfigured hn).1 hqueue, hs.configured, fun hn => absurd hn (hidle hi),
      fun hn => absurd (hs.halted hn) hqueue⟩

theorem State.reevaluate_work {s : State} (h : s.view.WorkSound) : s.reevaluate.view.WorkSound := by
  obtain ⟨f, hf, hview⟩ := s.reevaluate_view
  rw [hview]
  refine ⟨h.queue.map rfl rfl (fun e he => ?_) (fun e he => ?_) fun p j hp => ⟨j, hp⟩, fun p j n k hb => ?_,
    h.claims.sublist (List.Sublist.refl _) fun _ _ hc => hc⟩
  · exact ⟨(hf e).1, (hf e).2.2.1, (hf e).2.2.2 ▸ (h.queue.within e he).2⟩
  · rw [(hf e).2.1]
    exact h.queue.waits e he
  · obtain ⟨hat, hn, hk, hne⟩ := h.head p j n k hb
    refine ⟨hat, hn, hk, fun x hx => ?_⟩
    obtain ⟨e, he, rfl⟩ := List.mem_map.1 hx
    rw [(hf e).2.2.1]
    exact hne e he

theorem State.reevaluate_station {s : State} (h : s.view.StationAgrees) : s.reevaluate.view.StationAgrees := by
  obtain ⟨f, -, hview⟩ := s.reevaluate_view
  have hnil : s.view.queue = [] → s.view.queue.map f = [] := fun hq => by rw [hq]; rfl
  rw [hview]
  exact ⟨fun hn => ⟨hnil (h.unconfigured hn).1, (h.unconfigured hn).2⟩, h.configured, h.stopped,
    fun hn => hnil (h.halted hn)⟩

theorem State.reevaluateAndServe_agrees {s : State} (hw : s.view.WorkSound) (hs : s.view.StationAgrees) :
    s.reevaluateAndServe.view.Agrees :=
  State.serve_agrees (State.reevaluate_work hw) (State.reevaluate_station hs)

/-- The end of an operation: the head becomes IDLE, and the pockets agree with the queue (R87, R90). -/
theorem State.headIdle_agrees {s : State} (ho : s.view.Open) (hq : s.view.QueueAgrees) (hc : s.view.ClaimsAgree) :
    s.headIdle.view.Agrees :=
  State.reevaluateAndServe_agrees (s := s.headTo .idle)
    ⟨hq.congr rfl rfl fun _ _ => Iff.rfl, .not_busy fun _ _ _ _ => nofun,
      hc.sublist (List.Sublist.refl _) fun _ _ hf => hf⟩ (.of_open ho)

/-! ### A re-scan claims free pockets (R22, R25) -/

theorem State.consider_bid {s : State} {o : Offer} {b : PendingBid} {load : Nat} (h : s.consider o = .bid b load) :
    s.ctl.station = .run ∧ s.freePocket = some b.pocket ∧ b.id = o.id := by
  unfold State.consider at h
  split at h
  · exact absurd h nofun
  · next hrun =>
    split at h
    · exact absurd h nofun
    · next p hp =>
      split at h
      · exact absurd h nofun
      · split at h
        · exact absurd h nofun
        · split at h
          · exact absurd h nofun
          · obtain ⟨rfl, -⟩ := Consideration.bid.inj h
            exact ⟨by simpa using hrun, hp, rfl⟩

theorem State.placeBid_view (b : PendingBid) (load : Nat) (s : State) :
    (s.placeBid b load).view = { s.view with claims := s.view.claims ++ [b.claim] } := by
  unfold State.placeBid
  rw [State.append_view]
  simp only [State.view, State.onPacks_packs, List.map_append, List.map_cons, List.map_nil]
  rfl

theorem State.placeBid_claims {s : State} {e : Entry} {b : PendingBid} {load : Nat} (h : s.view.ClaimsAgree)
    (ho : s.openTo e = true) (hb : s.consider e.offer = .bid b load) : (s.placeBid b load).view.ClaimsAgree := by
  obtain ⟨-, hpocket, hid⟩ := State.consider_bid hb
  have hfound := List.find?_some hpocket
  simp only [Bool.and_eq_true, decide_eq_true_eq, Bool.not_eq_true', State.claimed, List.any_eq_false] at hfound
  obtain ⟨hfree, hclaim⟩ := hfound
  have hnew : s.pendingBid e.offer.id = none := by
    unfold State.openTo at ho
    split at ho
    · exact absurd ho nofun
    · exact Option.isNone_iff_eq_none.1 (Bool.and_eq_true_iff.1 ho).2
  have hids : ∀ c ∈ s.view.claims, c.1 ≠ b.id := by
    intro c hc
    obtain ⟨a, ha, rfl⟩ := List.mem_map.1 hc
    have hne : a.id ≠ e.offer.id := by simpa using List.find?_eq_none.1 hnew a ha
    exact hid ▸ hne
  have hpockets : ∀ c ∈ s.view.claims, c.2 ≠ b.pocket := by
    intro c hc
    obtain ⟨a, ha, rfl⟩ := List.mem_map.1 hc
    exact hclaim a ha
  rw [State.placeBid_view]
  refine ⟨fun c hc => ?_, ?_, ?_⟩
  · rcases List.mem_append.1 hc with hc | hc
    · exact h.free c hc
    · rw [List.mem_singleton.1 hc]
      exact hfree
  · rw [List.map_append, List.nodup_append]
    refine ⟨h.pockets, List.nodup_singleton _, fun x hx y hy => ?_⟩
    obtain ⟨c, hc, rfl⟩ := List.mem_map.1 hx
    rw [List.mem_singleton.1 hy]
    exact hpockets c hc
  · rw [List.map_append, List.nodup_append]
    refine ⟨h.packs, List.nodup_singleton _, fun x hx y hy => ?_⟩
    obtain ⟨c, hc, rfl⟩ := List.mem_map.1 hx
    rw [List.mem_singleton.1 hy]
    exact hids c hc

theorem rescanOver_claims : ∀ (es : List Entry) {s : State}, s.view.ClaimsAgree → (rescanOver es s).view.ClaimsAgree
  | [], _, h => h
  | e :: rest, s, h => by
    unfold rescanOver
    split
    · next ho =>
      split
      · exact h
      · exact rescanOver_claims rest h
      · next b load hb => exact rescanOver_claims rest (State.placeBid_claims h ho hb)
    · exact rescanOver_claims rest h

theorem State.rescan_view (s : State) : s.rescan.view = { s.view with claims := s.rescan.view.claims } := by
  rw [State.rescan_eq]
  rfl

theorem State.rescan_claims {s : State} (h : s.view.ClaimsAgree) : s.rescan.view.ClaimsAgree := rescanOver_claims _ h

theorem State.rescan_work {s : State} (h : s.view.WorkSound) : s.rescan.view.WorkSound := by
  have hclaims := State.rescan_claims h.claims
  rw [State.rescan_view] at hclaims ⊢
  exact ⟨h.queue.congr rfl rfl fun _ _ => Iff.rfl, h.head, hclaims⟩

theorem State.rescan_station {s : State} (h : s.view.StationAgrees) : s.rescan.view.StationAgrees := by
  by_cases hrun : s.ctl.station = .run
  · refine .of_open ?_
    rw [State.rescan_view]
    exact h.open_of_holds (by rw [show s.view.station = .run from hrun]; rfl)
  · rw [State.rescan_not_run hrun]
    exact h

theorem State.rescan_agrees {s : State} (h : s.view.Agrees) : s.rescan.view.Agrees := by
  refine ⟨State.rescan_work h.work, State.rescan_station h.station, ?_⟩
  rw [State.rescan_view]
  exact h.served

theorem State.considerNew_agrees {s : State} (e : Entry) (h : s.view.Agrees) : (s.considerNew e).view.Agrees := by
  unfold State.considerNew
  split
  · next ho =>
    split
    · exact h
    · exact h
    · next b load hb =>
      have hrun : s.view.station = .run := (State.consider_bid hb).1
      have hopen : s.view.Open := h.station.open_of_holds (by rw [hrun]; rfl)
      have hclaims := State.placeBid_claims h.work.claims ho hb
      rw [State.placeBid_view] at hclaims ⊢
      exact .of_open ⟨h.work.queue.congr rfl rfl fun _ _ => Iff.rfl, h.work.head, hclaims⟩ hopen h.served
  · exact h

end Sys2Proof.Machine

namespace Sys2Proof.Machine

open Sys2Proof.Config

/-- The pockets, the queue and the head of a state agree. -/
def Agreed (s : State) : Prop := s.view.Agrees

theorem Agreed.of_view {s t : State} (h : Agreed s) (hv : t.view = s.view) : Agreed t := by
  unfold Agreed
  rw [hv]
  exact h

theorem keepsAgreed_of_eased {f : State → State} (h : ∀ s : State, s.view.Eased (f s).view) : Keeps Agreed f :=
  fun s hs => WorkView.Agrees.eased hs (h s)

theorem keepsAgreed_of_view {f : State → State} (h : ∀ s : State, (f s).view = s.view) : Keeps Agreed f :=
  fun s hs => hs.of_view (h s)

/-! ### A pocket that gathers (R62 to R72) -/

namespace WorkView

variable {v : WorkView} {p : PocketId}

theorem Agrees.repocket (h : v.Agrees) (hp : v.Loose p) {st : PocketState} (hst : ∀ j, st ≠ .waiting j) :
    ({ v with pockets := Function.update v.pockets p st } : WorkView).Agrees :=
  ⟨h.work.repocket hp hst, ⟨h.station.unconfigured, h.station.configured, h.station.stopped, h.station.halted⟩, h.served⟩

/-- A pocket with sheets or a pack at a station that works. -/
structure Gathers (v : WorkView) (p : PocketId) : Prop where
  agrees : v.Agrees
  isOpen : v.Open
  away : (v.pockets p).isAway = true

end WorkView

theorem PocketState.not_waiting_of_away {st : PocketState} (h : st.isAway = true) (j : Job) : st ≠ .waiting j := by
  rintro rfl
  exact absurd h nofun

section Gathering

variable {s t : State} {p : PocketId}

theorem WorkView.Gathers.of_view (h : s.view.Gathers p) (hv : t.view = s.view) : t.view.Gathers p := hv ▸ h

theorem WorkView.Gathers.pocketTo (h : s.view.Gathers p) {st : PocketState} (hst : st.isAway = true) :
    (s.pocketTo p st).view.Gathers p := by
  rw [State.pocketTo_view]
  exact ⟨h.agrees.repocket (h.agrees.work.loose h.away) (PocketState.not_waiting_of_away hst), h.isOpen,
    by simpa using hst⟩

@[simp] theorem State.accounted_view (p : PocketId) (j : Job) (s : State) : (s.accounted p j).view = s.view := by
  cases j with
  | setAside r => exact s.accountAside_view p r
  | finish => rfl
  | clear => rfl

theorem State.closePocket_agreed (j : Job) (h : s.view.Gathers p) : Agreed (s.closePocket p j) := by
  have hview : (((s.accounted p j).pocketStops p (.waiting j)).enqueue p j (s.laneFor p j)).view =
      { s.view with
        pockets := Function.update s.view.pockets p (.waiting j)
        queue := s.view.queue ++ [((s.accounted p j).pocketStops p (.waiting j)).newEntry p j (s.laneFor p j)]
        arrivals := s.view.arrivals + 1 } := by
    rw [State.enqueue_view, State.pocketStops_view, State.accounted_view]
  have hstamp : (((s.accounted p j).pocketStops p (.waiting j)).newEntry p j (s.laneFor p j)).stamp =
      s.view.arrivals + 1 := congrArg (fun v : WorkView => v.arrivals + 1) (s.accounted_view p j)
  rw [State.closePocket_eq]
  refine State.serve_agrees ?_ ?_ <;> rw [hview]
  · exact h.agrees.work.append (h.agrees.work.loose h.away) hstamp rfl
  · exact .of_open h.isOpen

theorem State.retireUngathered_agreed (r : AsideReason) (h : s.view.Gathers p) : Agreed (s.retireUngathered p r) := by
  have hview : (s.retireUngathered p r).view =
      { s.view with pockets := Function.update s.view.pockets p (.retiring (.setAside r)) } := by
    unfold State.retireUngathered
    dsimp only
    split
    · rw [State.pocketStops_view, State.accountAside_view]
    · rw [State.requestEnd_view, State.pocketStops_view, State.accountAside_view]
  unfold Agreed
  rw [hview]
  exact h.agrees.repocket (h.agrees.work.loose h.away) nofun

theorem State.judgePack_agreed (o : Offer) (m : Mark) (h : s.view.Gathers p) : Agreed (s.judgePack p o m) := by
  unfold State.judgePack
  split
  · exact State.closePocket_agreed _ h
  · split
    · split <;> exact State.closePocket_agreed _ h
    · exact h.agrees

theorem State.absorbSheet_agreed (r : AsideReason) (o : Offer) (m : Mark) (h : s.view.Gathers p) :
    Agreed (s.absorbSheet p r o m) := by
  have ht : (if (s.pockets.get p).sheets < s.cfg.pocketCapacity then s.takeSheet p else s.passOwn).view.Gathers p := by
    split
    · exact h.of_view (s.takeSheet_view p)
    · exact h
  unfold State.absorbSheet
  dsimp only
  generalize (if (s.pockets.get p).sheets < s.cfg.pocketCapacity then s.takeSheet p else s.passOwn) = t at ht ⊢
  split
  · exact State.closePocket_agreed _ ht
  · exact ht.agrees

theorem State.firstSheet_agreed (o : Offer) (m : Mark) (h : s.view.Gathers p) : Agreed (s.firstSheet p o m) := by
  have ht : (s.takeSheet p).view.Gathers p := h.of_view (s.takeSheet_view p)
  unfold State.firstSheet
  dsimp only
  split
  · exact State.judgePack_agreed o m ((ht.pocketTo (st := .filling) rfl).of_view (State.nextIndex_view _ p))
  · split
    · exact State.closePocket_agreed _ (ht.pocketTo rfl)
    · exact (ht.pocketTo rfl).agrees

theorem State.fillingSheet_agreed (next : Nat) (o : Offer) (m : Mark) (h : s.view.Gathers p) :
    Agreed (s.fillingSheet p next o m) := by
  unfold State.fillingSheet
  split
  · split
    · exact State.closePocket_agreed _ (h.of_view s.passOwn_view)
    · exact State.judgePack_agreed o m (h.of_view (by simp))
  · exact State.absorbSheet_agreed _ o m (h.pocketTo rfl)

/-- A WAITING job is converted together with its entry (R76, R88). -/
theorem State.convertWaiting_agreed (r : AsideReason) (h : Agreed s) (ho : s.view.Open) {i : Job}
    (hp : s.view.pockets p = .waiting i) : Agreed (s.convertWaiting p r) := by
  have hview : (s.converted p r).view =
      { s.view with
        pockets := Function.update s.view.pockets p (.waiting (.setAside r))
        queue := s.view.queue.map (((s.accountAside p r).pocketTo p (.waiting (.setAside r))).convertEntry p r) } := by
    have ht := (s.accountAside p r).pocketTo_view p (.waiting (.setAside r))
    rw [State.accountAside_view] at ht
    exact congrArg (fun v : WorkView =>
      { v with queue := v.queue.map (((s.accountAside p r).pocketTo p (.waiting (.setAside r))).convertEntry p r) }) ht
  generalize ((s.accountAside p r).pocketTo p (.waiting (.setAside r))) = t at hview
  have hparts : ∀ e : QueueEntry, (t.convertEntry p r e).pocket = e.pocket ∧ (t.convertEntry p r e).stamp = e.stamp ∧
      (t.convertEntry p r e).passOvers = e.passOvers := fun e => by
    unfold State.convertEntry
    split <;> exact ⟨rfl, rfl, rfl⟩
  rw [State.convertWaiting_eq]
  refine State.serve_agrees ?_ ?_ <;> rw [hview]
  · refine ⟨h.work.queue.map rfl rfl (fun e he => ?_) (fun e he => ?_) fun q j hq => ?_, fun q j n k hb => ?_, ?_⟩
    · obtain ⟨hpocket, hstamp, hk⟩ := hparts e
      exact ⟨hpocket, hstamp, hk ▸ (h.work.queue.within e he).2⟩
    · by_cases hep : e.pocket = p
      · simp [State.convertEntry, hep]
      · simpa [State.convertEntry, hep] using h.work.queue.waits e he
    · by_cases hqp : q = p
      · exact ⟨i, hqp ▸ hp⟩
      · exact ⟨j, by simpa [hqp] using hq⟩
    · obtain ⟨hat, hn, hk, hne⟩ := h.work.head q j n k hb
      have hqp : q ≠ p := by
        rintro rfl
        rw [hp] at hat
        exact absurd hat nofun
      refine ⟨by simpa [hqp] using hat, hn, hk, fun x hx => ?_⟩
      obtain ⟨e, he, rfl⟩ := List.mem_map.1 hx
      rw [(hparts e).2.1]
      exact hne e he
    · exact h.work.claims.repocket (p := p) rfl (by simp [hp]) fun q hq => by simp [hq]
  · exact .of_open ho

theorem State.sheetAtPocket_agreed (o : Offer) (m : Mark) (h : Agreed s) (ho : s.view.Open) :
    Agreed (s.sheetAtPocket p o m) := by
  have hgathers : ∀ {st}, (s.pockets.get p).state = st → st.isAway = true → s.view.Gathers p := fun hst haway =>
    ⟨h, ho, show (s.pockets.get p).state.isAway = true from hst ▸ haway⟩
  unfold State.sheetAtPocket
  split
  · next hst => exact State.firstSheet_agreed o m (hgathers hst rfl)
  · next hst =>
    split
    · exact h
    · exact State.fillingSheet_agreed _ o m (hgathers hst rfl)
  · next hst => exact State.absorbSheet_agreed _ o m (hgathers hst rfl)
  · next hst => exact State.convertWaiting_agreed (s := s.extraSheet) _ h ho hst
  · exact h
  · exact h
  · exact h.of_view (s.extraSheet.onPocket_view rfl)
  all_goals exact h

theorem State.sheetArrives_agreed (raw : Option SheetMark) : Keeps Agreed (State.sheetArrives raw) := by
  intro s h
  unfold State.sheetArrives
  dsimp only
  split
  · next hg =>
    split
    · exact h
    · split
      · exact h
      · exact h
      · exact h
      · exact State.sheetAtPocket_agreed (s := s.divertTo none) _ _ h (h.station.open_of_gates hg)
  · exact h

theorem State.gapExpires_agreed (p : PocketId) : Keeps Agreed (State.gapExpires p) := by
  intro s h
  unfold State.gapExpires
  split
  · next hg =>
    have hgathers : ∀ {st}, (s.pockets.get p).state = st → st.isAway = true → s.view.Gathers p := fun hst haway =>
      ⟨h, h.station.open_of_gates hg, show (s.pockets.get p).state.isAway = true from hst ▸ haway⟩
    split
    · next hst => exact State.closePocket_agreed _ (hgathers hst rfl)
    · next hst => exact State.closePocket_agreed _ (hgathers hst rfl)
    · exact h
  · exact h

theorem State.firstSheetExpires_agreed (p : PocketId) : Keeps Agreed (State.firstSheetExpires p) := by
  intro s h
  unfold State.firstSheetExpires
  split
  · next hg =>
    split
    · next hst =>
      exact State.retireUngathered_agreed _
        ⟨h, h.station.open_of_gates hg, show (s.pockets.get p).state.isAway = true from hst ▸ rfl⟩
    · exact h
  · exact h

end Gathering

/-! ### Frames of the pack table (R8 to R16, R36 to R39, R78, R79) -/

theorem State.takeOffer_agreed (sender : Nat) (b : OfferBody) : Keeps Agreed (State.takeOffer sender b) := by
  intro s h
  unfold State.takeOffer
  split
  · exact h
  · split
    · exact h
    · split
      · exact h
      · split
        · exact State.considerNew_agrees (s := s.onPacks _) _ h
        · exact h

/-- A claim that is committed: its pocket is FREE and no other bid claims it (R25, R37). -/
theorem State.commitClaims_agreed {s : State} {b : PendingBid} (h : Agreed s) (hb : b ∈ s.packs.bids) :
    Agreed (s.commitClaims b) := by
  have hdropped := s.dropBid_eased b.id
  have hagrees : (s.dropBid b.id).view.Agrees := h.eased hdropped
  have hclaim : b.claim ∈ s.view.claims := List.mem_map_of_mem hb
  have hfree : s.view.pockets b.pocket = .free := h.work.claims.free _ hclaim
  have hloose : (s.dropBid b.id).view.Loose b.pocket := by
    refine ⟨fun j hw => ?_, fun c hc hcp => ?_, fun j n k hbusy => ?_⟩
    · exact absurd (hfree.symm.trans hw) nofun
    · obtain ⟨a, ha, rfl⟩ := List.mem_map.1 hc
      obtain ⟨ha, hne⟩ := List.mem_filter.1 ha
      have hcl := List.inj_on_of_nodup_map h.work.claims.pockets (List.mem_map_of_mem ha) hclaim hcp
      exact of_decide_eq_true hne (congrArg Prod.fst hcl)
    · exact absurd (hfree.symm.trans (h.work.head _ _ _ _ hbusy).1) nofun
  have hview : (s.commitClaims b).view =
      { (s.dropBid b.id).view with pockets := Function.update (s.dropBid b.id).view.pockets b.pocket .reserved } := by
    unfold State.commitClaims
    rw [State.onBin_view, State.onStaples_view, State.onPocket_view_eq]
  unfold Agreed
  rw [hview]
  exact hagrees.repocket hloose nofun

theorem State.resolvePlaced_agreed (id : PackId) (owner : Nat) : Keeps Agreed (State.resolvePlaced id owner) := by
  intro s h
  unfold State.resolvePlaced
  split
  · exact h
  · next b hb =>
    split
    · exact WorkView.Agrees.eased h (State.removeBid_eased id (s.placeEntry id owner none))
    · split
      · exact State.commitClaims_agreed (s := s.placeEntry _ _ _) h (List.mem_of_find?_eq_some hb)
      · exact WorkView.Agrees.eased h (State.releaseBid_eased id (s.placeEntry id owner none))

theorem State.takeClose_agreed (sender : Nat) (id : PackId) : Keeps Agreed (State.takeClose sender id) := by
  intro s h
  unfold State.takeClose
  split
  · exact h
  · split
    · exact h
    · split
      · exact h
      · split
        · exact WorkView.Agrees.eased h (State.resolveRetired_eased id (s.retire id))
        · exact State.resolvePlaced_agreed id _ s h

theorem State.withdrawAtOwner_agreed (p : PocketId) : Keeps Agreed (State.withdrawAtOwner p) := by
  intro s h
  unfold State.withdrawAtOwner
  split
  · next hg =>
    have ho := h.station.open_of_gates hg
    have hgathers : ∀ {st}, (s.pockets.get p).state = st → st.isAway = true → s.view.Gathers p := fun hst haway =>
      ⟨h, ho, show (s.pockets.get p).state.isAway = true from hst ▸ haway⟩
    split
    · next hst => exact State.retireUngathered_agreed _ (hgathers hst rfl)
    · next hst => exact ((hgathers hst rfl).pocketTo rfl).agrees
    · exact h
    · next hst => exact State.convertWaiting_agreed _ h ho hst
    all_goals exact h
  · exact h

theorem State.takeWithdraw_agreed (sender : Nat) (id : PackId) : Keeps Agreed (State.takeWithdraw sender id) := by
  intro s h
  unfold State.takeWithdraw
  split
  · exact h
  · split
    · exact h
    · split
      · exact WorkView.Agrees.eased h (State.resolveRetired_eased id (s.retire id))
      · split
        · split
          · exact State.withdrawAtOwner_agreed _ s h
          · exact h
        · exact h

theorem State.freeRetired_agreed (p : PocketId) : Keeps Agreed (State.freeRetired p) := by
  intro s h
  unfold State.freeRetired
  split
  · next hst =>
    have hloose : s.view.Loose p := h.work.loose (show (s.pockets.get p).state.isAway = true from hst ▸ rfl)
    have hfreed : (s.onPocket p fun _ => Pocket.empty).view.Agrees := by
      rw [State.onPocket_view_eq]
      exact h.repocket hloose nofun
    exact (State.rescan_agrees hfreed).eased (State.judgeDrain_eased _)
  · exact h

theorem State.takeEnd_agreed (sender : Nat) (id : PackId) : Keeps Agreed (State.takeEnd sender id) := by
  intro s h
  unfold State.takeEnd
  split
  · exact h
  · split
    · exact h
    · split
      · split
        · exact h
        · split
          · exact State.freeRetired_agreed _ (s.retire id) h
          · exact h
      · exact h

theorem State.takeEndEcho_agreed (e : TxEntry) : Keeps Agreed (State.takeEndEcho e) := by
  intro s h
  unfold State.takeEndEcho
  split
  · split
    · exact State.takeEnd_agreed _ _ s h
    · exact State.takeEnd_agreed _ _ s h
    · exact h
  · exact h

end Sys2Proof.Machine

namespace Sys2Proof.Machine

open Sys2Proof.Config

/-! ### Put-backs (R89) -/

theorem insertByStamp_perm (e : QueueEntry) : ∀ q : List QueueEntry, (insertByStamp e q).Perm (e :: q)
  | [] => .refl _
  | x :: xs => by
    unfold insertByStamp
    split
    · exact ((insertByStamp_perm e xs).cons x).trans (.swap _ _ _)
    · exact .refl _

/-- An entry with a stamp of its own keeps the stamps in order. -/
theorem insertByStamp_ordered {e : QueueEntry} : ∀ {q : List QueueEntry}, q.Pairwise (fun x y => x.stamp < y.stamp) →
    (∀ x ∈ q, x.stamp ≠ e.stamp) → (insertByStamp e q).Pairwise fun x y => x.stamp < y.stamp
  | [], _, _ => List.pairwise_singleton _ _
  | x :: xs, hq, hne => by
    obtain ⟨hx, hxs⟩ := List.pairwise_cons.1 hq
    unfold insertByStamp
    split
    · next hlt =>
      refine List.pairwise_cons.2 ⟨fun y hy => ?_,
        insertByStamp_ordered hxs fun y hy => hne y (List.mem_cons_of_mem _ hy)⟩
      rcases List.mem_cons.1 ((insertByStamp_perm e xs).subset hy) with rfl | hy
      · exact hlt
      · exact hx y hy
    · next hge =>
      have hlt : e.stamp < x.stamp := by
        have := hne x (List.mem_cons_self ..)
        omega
      refine List.pairwise_cons.2 ⟨fun y hy => ?_, hq⟩
      rcases List.mem_cons.1 hy with rfl | hy
      · exact hlt
      · exact hlt.trans (hx y hy)

/-- The head works an operation whose pocket is AT_HEAD (R83, R89). -/
structure WorkView.Works (v : WorkView) (op : Operation) : Prop where
  isOpen : v.Open
  queue : v.QueueAgrees
  claims : v.ClaimsAgree
  atHead : ∃ j, v.pockets op.pocket = .atHead j
  stamp : op.stamp ≤ v.arrivals ∧ op.passOvers ≤ 8 ∧ ∀ e ∈ v.queue, e.stamp ≠ op.stamp

theorem Agreed.works {s : State} (h : Agreed s) {op : Operation} (hb : s.head.state = .busy op) : s.view.Works op := by
  have hwork : s.view.head = .busy op.pocket op.job op.stamp op.passOvers := by simp [State.view, hb, HeadState.work]
  obtain ⟨hat, hstamp⟩ := h.work.head _ _ _ _ hwork
  exact ⟨h.station.open_of_busy hwork, h.work.queue, h.work.claims, ⟨_, hat⟩, hstamp⟩

/-- The pocket of an operation that ends takes a state other than WAITING, and the head becomes IDLE (R77, R87). -/
theorem WorkView.Works.ends {v : WorkView} {op : Operation} (h : v.Works op) {st : PocketState} (hst : ∀ j, st ≠ .waiting j) :
    ({ v with pockets := Function.update v.pockets op.pocket st } : WorkView).QueueAgrees ∧
      ({ v with pockets := Function.update v.pockets op.pocket st } : WorkView).ClaimsAgree := by
  obtain ⟨j, hat⟩ := h.atHead
  refine ⟨h.queue.congr rfl rfl fun q i => ?_,
    h.claims.repocket (p := op.pocket) rfl (by simp [hat]) fun q hq => by simp [hq]⟩
  by_cases hq : q = op.pocket
  · subst hq
    simp [hst i, hat]
  · simp [hq]

theorem State.putBack_agreed {s : State} {op : Operation} (h : s.view.Works op) (j : Job) (lane : Lane)
    (strokes : Option StrokesDone) : Agreed (s.putBack op j lane strokes) := by
  obtain ⟨i, hat⟩ := h.atHead
  have hview : ((s.returned op j lane strokes).noteHold s.holdCondition).view =
      { s.view with
        pockets := Function.update s.view.pockets op.pocket (.waiting j)
        queue := insertByStamp (s.returnedEntry op j lane strokes) s.view.queue } := by
    rw [State.noteHold_view]
    exact congrArg (fun v : WorkView => { v with queue := insertByStamp (s.returnedEntry op j lane strokes) v.queue })
      (s.pocketTo_view op.pocket (.waiting j))
  rw [State.putBack_eq]
  refine State.headIdle_agrees ?_ ?_ ?_ <;> rw [hview]
  · exact h.isOpen
  · refine h.queue.add (insertByStamp_perm _ _) (insertByStamp_ordered h.queue.ordered h.stamp.2.2) le_rfl
      ⟨h.stamp.1, h.stamp.2.1⟩ (fun k => ?_) (Function.update_self ..) fun q hq => Function.update_of_ne hq ..
    exact fun hw => absurd (hat.symm.trans hw) nofun
  · exact h.claims.repocket (p := op.pocket) rfl (by simp [hat]) fun q hq => by simp [hq]

/-! ### Head operations (R93 to R101) -/

section Head

variable {s : State} {op : Operation}

theorem State.startPhase_view (op : Operation) (ph : Phase) (s : State) :
    (s.startPhase op ph).view = { s.view with head := .busy op.pocket op.job op.stamp op.passOvers } := rfl

/-- The next phase of the operation in progress. -/
theorem Agreed.startPhase {t : State} (h : Agreed s) (hb : s.head.state = .busy op) (hv : t.view = s.view) {next : Operation}
    (hn : next.pocket = op.pocket ∧ next.job = op.job ∧ next.stamp = op.stamp ∧ next.passOvers = op.passOvers) (ph : Phase) :
    Agreed (t.startPhase next ph) := by
  obtain ⟨hp, hj, hs, hk⟩ := hn
  have hwork : s.view.head = .busy op.pocket op.job op.stamp op.passOvers := by simp [State.view, hb, HeadState.work]
  refine h.of_view ?_
  rw [State.startPhase_view, hv, hp, hj, hs, hk, ← hwork]

theorem State.goodClinch_agreed {t : State} (h : Agreed s) (hb : s.head.state = .busy op) (hv : t.view = s.view)
    (v : SenseReading) : Agreed (t.goodClinch op v) := by
  unfold State.goodClinch
  dsimp only
  refine h.startPhase hb ?_ ⟨rfl, rfl, rfl, rfl⟩ _
  have hd : ((t.onStaples fun b => { b with committed := b.committed - 1 }).onPocket op.pocket fun q =>
      { q with driven := q.driven + 1 }).view = s.view := (State.onPocket_view _ rfl).trans hv
  split
  · exact hd
  · exact hd

theorem State.convertClinch_agreed (h : Agreed s) (hb : s.head.state = .busy op) : Agreed (s.convertClinch op) := by
  have hworks := h.works hb
  obtain ⟨hq, hc⟩ := hworks.ends (st := .atHead (.setAside .clinch)) nofun
  have hview : ((s.accountAside op.pocket .clinch).pocketTo op.pocket (.atHead (.setAside .clinch))).view =
      { s.view with pockets := Function.update s.view.pockets op.pocket (.atHead (.setAside .clinch)) } := by
    rw [State.pocketTo_view, State.accountAside_view]
  unfold State.convertClinch
  dsimp only
  generalize (s.accountAside op.pocket .clinch).pocketTo op.pocket (.atHead (.setAside .clinch)) = t at hview
  have hat : t.view.pockets op.pocket = .atHead (.setAside .clinch) := by simp [hview]
  split
  · refine State.putBack_agreed ⟨?_, ?_, ?_, ⟨_, hat⟩, ?_⟩ _ _ _
    · rw [hview]
      exact hworks.isOpen
    · rw [hview]
      exact hq
    · rw [hview]
      exact hc
    · rw [hview]
      exact hworks.stamp
  · unfold Agreed
    rw [State.startPhase_view, hview]
    refine .of_open ⟨hq.congr rfl rfl fun _ _ => Iff.rfl, fun p j n k hbusy => ?_,
      hc.sublist (List.Sublist.refl _) fun _ _ hf => hf⟩ hworks.isOpen (.of_not_idle nofun)
    obtain ⟨rfl, rfl, rfl, rfl⟩ := HeadWork.busy.inj hbusy
    exact ⟨by simp, hworks.stamp⟩

theorem State.strokeCompletes_agreed (v : SenseReading) : Keeps Agreed (State.strokeCompletes v) := by
  intro s h
  unfold State.strokeCompletes
  split
  · next op hb =>
    split
    · next position retry _ =>
      have hv : ((s.writeClinch position v).spendStaple).view = s.view := by simp
      have hbusy : ((s.writeClinch position v).spendStaple).head.state = .busy op := by
        simp [State.spendStaple, State.writeClinch, hb]
      unfold State.strokeDone
      dsimp only
      split
      · exact State.goodClinch_agreed h hb hv v
      · split
        · exact State.convertClinch_agreed (h.of_view hv) hbusy
        · exact h.startPhase hb hv ⟨rfl, rfl, rfl, rfl⟩ (.stroke position true)
    · exact h
  · exact h

theorem State.noStapleFound_agreed : Keeps Agreed State.noStapleFound := by
  intro s h
  have he : s.emptyStaples.view = s.view := s.emptyStaples_view
  have hserved : Agreed s.emptyStaples.reevaluateAndServe := by
    have hagreed := h.of_view he
    exact State.reevaluateAndServe_agrees hagreed.work hagreed.station
  unfold State.noStapleFound
  split
  · exact h
  · next op hb =>
    split
    · exact State.putBack_agreed (he ▸ h.works hb) _ _ _
    · exact hserved
  · exact hserved
  · exact hserved

/-- An operation ends with its pocket in a state other than WAITING (R77, R87, R90). -/
theorem WorkView.Works.headIdle {t : State} (h : s.view.Works op) {st : PocketState} (hst : ∀ j, st ≠ .waiting j)
    (hv : t.view = { s.view with pockets := Function.update s.view.pockets op.pocket st }) : Agreed t.headIdle := by
  obtain ⟨hq, hc⟩ := h.ends hst
  refine State.headIdle_agrees ?_ ?_ ?_ <;> rw [hv]
  · exact h.isOpen
  · exact hq
  · exact hc

theorem State.headIdle_agreed (h : Agreed s) (hb : s.head.state = .busy op) : Agreed s.headIdle :=
  State.headIdle_agrees (h.works hb).isOpen h.work.queue h.work.claims

theorem State.dropConfirms_agreed : Keeps Agreed State.dropConfirms := by
  intro s h
  unfold State.dropConfirms
  split
  · next op hb =>
    split
    · split
      · refine (h.works hb).headIdle (st := .retiring op.job) nofun ?_
        unfold State.deliverPack
        rw [State.requestEnd_view, State.pocketTo_view, State.count_view, State.recordDrop_view]
      · exact State.headIdle_agreed h hb
    · exact h
  · exact h

theorem State.asidePack_view (op : Operation) (r : AsideReason) (s : State) :
    (s.asidePack op r).view =
      { s.view with pockets := Function.update s.view.pockets op.pocket (.retiring (.setAside r)) } := by
  unfold State.asidePack
  dsimp only
  split
  · exact s.pocketTo_view _ _
  · rw [State.requestEnd_view]
    exact s.pocketTo_view _ _

theorem State.trayEnded_agreed (h : s.view.Works op) : Agreed (s.trayEnded op).headIdle := by
  have ht : s.trayTakes.view = s.view := s.trayTakes_view
  have hworks : s.trayTakes.view.Works op := ht ▸ h
  unfold State.trayEnded
  split
  · next r _ => exact hworks.headIdle (st := .retiring (.setAside r)) nofun (State.asidePack_view _ _ _)
  · obtain ⟨hq, hc⟩ := hworks.ends (st := .free) nofun
    have hview := s.trayTakes.onPocket_view_eq op.pocket fun _ => Pocket.empty
    have hclaims := State.rescan_claims (s := s.trayTakes.onPocket op.pocket fun _ => Pocket.empty)
      (by rw [hview]; exact hc)
    refine State.headIdle_agrees ?_ ?_ hclaims <;> rw [State.rescan_view, hview]
    · exact hworks.isOpen
    · exact hq.congr rfl rfl fun _ _ => Iff.rfl
  · exact State.headIdle_agrees hworks.isOpen hworks.queue hworks.claims

/-! ### The self-test (R116 to R118) -/

theorem State.requestTest_agreed {s : State} (h : s.view.WorkSound) (hs : s.view.StationAgrees) : Agreed s.requestTest :=
  State.serve_agrees (s := s.onHead fun k => { k with testWaiting := true })
    ⟨h.queue.congr rfl rfl fun _ _ => Iff.rfl, h.head, h.claims.sublist (List.Sublist.refl _) fun _ _ hf => hf⟩
    ⟨hs.unconfigured, hs.configured, hs.stopped, hs.halted⟩

/-- The head becomes IDLE at a station that is not stopped. -/
theorem WorkView.StationAgrees.idle {v w : WorkView} (h : v.StationAgrees)
    (hn : ¬ (v.station = .halting ∨ v.station = .halted ∨ v.station = .safe ∨ v.station = .configFault))
    (hw : w = { v with head := .idle }) : w.StationAgrees := by
  rw [hw]
  refine ⟨fun hc => ?_, h.configured, fun hs => absurd hs hn, h.halted⟩
  obtain ⟨hq, hcl, -, hst⟩ := h.unconfigured hc
  exact ⟨hq, hcl, by simp, hst⟩

theorem State.endTest_agreed {s : State} {l m f : Judgement} (h : Agreed s)
    (hn : ¬ (s.view.station = .halting ∨ s.view.station = .halted ∨ s.view.station = .safe ∨
      s.view.station = .configFault)) : Agreed (s.endTest l m f) := by
  unfold State.endTest
  have hview : (s.onHead fun k =>
      { k with state := .idle, readings := { k.readings with outcome := ((l.worse m).worse f).outcome } }).view =
      { s.view with head := .idle } := rfl
  refine State.serve_agrees (State.rescan_work ?_) (State.rescan_station (h.station.idle hn hview))
  rw [hview]
  exact h.work.headTo (hd := .idle) (by simp) _

/-- A level of the self-test ends. -/
theorem State.levelEnds_agreed {s t : State} {l : TestLevel} {n : Nat} (h : Agreed s) (hb : s.head.state = .testing l n)
    (hv : t.view = s.view) (j : Judgement) : Agreed (t.levelEnds l j) := by
  have hwork : s.view.head = .testing := by simp [State.view, hb, HeadState.work]
  have hnext : ∀ m k, Agreed (t.headTo (.testing m k)) := fun m k => h.of_view (by
    rw [State.headTo_view, hv, show (HeadState.testing m k).work = s.view.head from hwork.symm])
  unfold State.levelEnds
  split
  · exact hnext _ _
  · exact hnext _ _
  · next a b =>
    have ht : Agreed t := h.of_view hv
    refine State.endTest_agreed ht fun hn => ?_
    have := ht.station.stopped hn
    rw [hv, hwork] at this
    exact absurd this nofun

theorem State.referenceRead_agreed (v : SenseReading) : Keeps Agreed (State.referenceRead v) := by
  intro s h
  unfold State.referenceRead
  split
  · next hb => exact State.levelEnds_agreed h hb (State.writeReference_view _ _ _) _
  · exact h

theorem State.readingExpires_agreed : Keeps Agreed State.readingExpires := by
  intro s h
  unfold State.readingExpires
  split
  · next hb => exact State.levelEnds_agreed h hb rfl _
  · exact h

end Head

/-! ### The senses of the rack and the cartridge (R110, R133, R135) -/

section Senses

variable {s t : State}

/-- What changes the blocked reasons alone, evaluated again (R87). -/
theorem Agreed.reevaluated (h : Agreed s) (hv : t.view = s.view) : Agreed t.reevaluateAndServe :=
  State.reevaluateAndServe_agrees (hv ▸ h.work) (hv ▸ h.station)

theorem State.refill_agreed (c : StationConfig) : Keeps Agreed (State.refill c) := fun _ h =>
  State.rescan_agrees (h.reevaluated (by simp))

theorem State.emptyBin_agreed (bin : Nat) : Keeps Agreed (State.emptyBin bin) := by
  intro s h
  unfold State.emptyBin
  split
  · exact h
  · exact State.rescan_agrees (h.reevaluated (by simp))

theorem State.emptyTray_agreed : Keeps Agreed State.emptyTray := fun _ h => h.reevaluated (by simp)

theorem State.senseRaised_agreed (hold : HeldEvents → HeldEvents) {take : StationConfig → State → State}
    (ht : ∀ c, Keeps Agreed (take c)) : Keeps Agreed (State.senseRaised hold take) := by
  intro s h
  unfold State.senseRaised
  split
  · exact ht _ s h
  · split <;> exact h

end Senses

end Sys2Proof.Machine

namespace Sys2Proof.Machine

open Sys2Proof.Config

/-! ### Stops (R102, R139 to R141, R150) -/

section Stops

variable {v : WorkView}

/-- The head is STOPPED in whatever state, and claims may end (R103). -/
def WorkView.stopped (v : WorkView) (st : StationState) (claims : List (PackId × PocketId)) : WorkView :=
  { v with station := st, head := .stopped, testWaiting := false, claims := claims }

theorem WorkView.WorkSound.stopped (h : v.WorkSound) (st : StationState) {cl : List (PackId × PocketId)}
    (hc : cl.Sublist v.claims) : (v.stopped st cl).WorkSound :=
  ⟨h.queue.congr rfl rfl fun _ _ => Iff.rfl, .not_busy fun _ _ _ _ => nofun, h.claims.sublist hc fun _ _ hf => hf⟩

theorem WorkView.Agrees.stopped (h : v.WorkSound) {st : StationState} {cl : List (PackId × PocketId)}
    (hc : cl.Sublist v.claims) (hs : (v.stopped st cl).StationAgrees) : (v.stopped st cl).Agrees :=
  ⟨h.stopped st hc, hs, .of_not_idle nofun⟩

theorem State.stopHead_agreed : Keeps Agreed State.stopHead := fun _ h =>
  WorkView.Agrees.stopped h.work (List.Sublist.refl _)
    ⟨fun hn => ⟨(h.station.unconfigured hn).1, (h.station.unconfigured hn).2.1, fun _ _ _ _ => nofun,
      (h.station.unconfigured hn).2.2.2⟩, h.station.configured, fun _ => rfl, h.station.halted⟩

theorem State.enterHalting_agreed {s : State} (c : HaltCause) (h : s.view.WorkSound) (hc : s.view.config ≠ none) :
    Agreed (s.enterHalting c) := by
  have hstopped : (s.view.stopped .halting s.view.claims).Agrees :=
    .stopped h (List.Sublist.refl _) (.of_stopped rfl hc nofun nofun nofun)
  unfold Agreed State.enterHalting
  rw [State.append_view]
  exact hstopped.eased (State.withdrawUnsent_eased
    ((s.onCtl fun k => { k with station := .halting, haltCause := some c }).stopHead).endHold)

theorem State.holdFault_agreed (c : HaltCause) : Keeps Agreed (State.holdFault c) := by
  intro s h
  unfold State.holdFault
  split
  · exact h
  · exact State.stopHead_agreed (s.onCtl _) h

theorem State.takeFault_agreed (c : HaltCause) : Keeps Agreed (State.takeFault c) := by
  intro s h
  have hhalts : s.ctl.station.gates = true → Agreed (s.enterHalting c) := fun hg =>
    State.enterHalting_agreed c h.work (h.station.open_of_gates hg).2
  unfold State.takeFault
  split
  · next hst => exact hhalts (hst ▸ rfl)
  · next hst => exact hhalts (hst ▸ rfl)
  · next hst => exact hhalts (hst ▸ rfl)
  · exact State.holdFault_agreed c s h
  · exact State.holdFault_agreed c s h
  all_goals exact h

theorem State.headFault_agreed (c : HaltCause) : Keeps Agreed (State.headFault c) := fun s h =>
  State.takeFault_agreed c _ (State.stopHead_agreed s h)

theorem State.enterSafe_view (s : State) : ∃ cl : List (PackId × PocketId), cl.Sublist s.view.claims ∧
    s.enterSafe.view = s.view.stopped .safe cl :=
  ⟨_, List.filter_sublist.map PendingBid.claim, rfl⟩

theorem State.enterSafe_agreed : Keeps Agreed State.enterSafe := by
  intro s h
  obtain ⟨cl, hcl, hview⟩ := s.enterSafe_view
  unfold Agreed
  rw [hview]
  refine .stopped h.work hcl ⟨fun hn => ?_, fun _ => ⟨nofun, nofun⟩, fun _ => rfl, nofun⟩
  obtain ⟨hq, hc, -⟩ := h.station.unconfigured hn
  exact ⟨hq, List.sublist_nil.1 (hc ▸ hcl), fun _ _ _ _ => nofun, Or.inr (Or.inr rfl)⟩

theorem State.linkLoss_agreed : Keeps Agreed State.linkLoss := by
  intro s h
  unfold State.linkLoss
  split
  · exact h
  · exact h
  all_goals exact State.enterSafe_agreed s h

theorem State.ownSpoiled_agreed : Keeps Agreed State.ownSpoiled := by
  intro s h
  unfold State.ownSpoiled
  dsimp only
  split
  · exact h
  · next e _ =>
    have hended : (((s.count .spoiledSeen).count .ownRetries).startAttempt.endAttempt).view.Agrees :=
      WorkView.Agrees.eased (h.of_view (t := ((s.count .spoiledSeen).count .ownRetries).startAttempt)
        (State.startAttempt_view _)) (State.endAttempt_eased _)
    split
    · exact State.linkLoss_agreed (State.onLink _ _) hended
    · exact hended

theorem State.receivedSpoiled_agreed (r : Reception) : Keeps Agreed (State.receivedSpoiled r) := by
  intro s h
  unfold State.receivedSpoiled
  dsimp only
  split
  · split
    · exact State.linkLoss_agreed (State.onLink _ _) h
    · exact h
  · exact h

theorem State.frameSpoiled_agreed (f : SpoiledFrame) : Keeps Agreed (State.frameSpoiled f) := by
  intro s h
  unfold State.frameSpoiled
  split
  · cases f with
    | own => exact State.ownSpoiled_agreed s h
    | received r => exact State.receivedSpoiled_agreed r s h
  · exact h

theorem State.ejectCompletes_agreed (occupied : Bool) : Keeps Agreed (State.ejectCompletes occupied) := by
  intro s h
  unfold State.ejectCompletes
  split
  · next op hb =>
    split
    · dsimp only
      split
      · exact State.headFault_agreed _ (s.readOccupied op.pocket occupied) h
      · exact h.startPhase hb rfl ⟨rfl, rfl, rfl, rfl⟩ .drop
    · exact h
  · exact h

theorem State.trayDropConfirms_agreed (occupied : Bool) : Keeps Agreed (State.trayDropConfirms occupied) := by
  intro s h
  cases hst : s.head.state with
  | busy op =>
    cases hph : op.phase with
    | trayDrop =>
      cases occupied with
      | true =>
        have heq : s.trayDropConfirms true = (s.readOccupied op.pocket true).headFault .ejectFault := by
          simp [State.trayDropConfirms, hst, hph]
        rw [heq]
        exact State.headFault_agreed _ (s.readOccupied op.pocket true) h
      | false =>
        rw [State.trayDropConfirms_ends hst hph]
        exact State.trayEnded_agreed (s := s.readOccupied op.pocket false) (h.works hst)
    | _ => simpa [State.trayDropConfirms, hst, hph] using h
  | _ => simpa [State.trayDropConfirms, hst] using h

theorem State.limitExpires_agreed (inPhase : Phase → Bool) (c : HaltCause) : Keeps Agreed (State.limitExpires inPhase c) := by
  intro s h
  unfold State.limitExpires
  split
  · split
    · exact State.headFault_agreed c s h
    · exact h
  · exact h

theorem State.headJams_agreed : Keeps Agreed State.headJams := by
  intro s h
  unfold State.headJams
  split
  · exact h
  all_goals exact State.headFault_agreed _ s h

theorem State.pocketJams_agreed (p : PocketId) : Keeps Agreed (State.pocketJams p) := by
  intro s h
  unfold State.pocketJams
  dsimp only
  split
  · exact State.takeFault_agreed _ (s.jamLine p true) h
  · exact h

end Stops

/-! ### HALTED and back (R144, R148, R149) -/

theorem Pocket.afterHalt_state (q : Pocket) : q.afterHalt.state = .free ∨ q.afterHalt.state = .leftover := by
  unfold Pocket.afterHalt
  split <;> simp_all [Pocket.empty]

/-- In HALTED no pocket waits, nothing is claimed and the head is STOPPED (R144). -/
theorem WorkView.Agrees.halted {v : WorkView} (hs : v.station = .halted) (hc : v.config ≠ none) (hq : v.queue = [])
    (hcl : v.claims = []) (hh : v.head = .stopped) (hp : ∀ p j, v.pockets p ≠ .waiting j) : v.Agrees where
  work :=
    { queue := ⟨by simp [hq], by simp [hq], fun p j hw => absurd hw (hp p j), by simp [hq], by simp [hq]⟩
      head := .not_busy (by simp [hh])
      claims := ⟨by simp [hcl], by simp [hcl], by simp [hcl]⟩ }
  station := .of_stopped hh hc (by simp [hs]) (by simp [hs]) fun _ => hq
  served := .of_not_idle (by simp [hh])

theorem State.haltEchoed_agreed {s : State} (h : Agreed s) (hs : s.ctl.station = .halting) : Agreed s.haltEchoed := by
  obtain ⟨-, hconfig, -, hctl, -, hpacks, hpockets, hhead, -⟩ := s.haltEchoed_spec
  refine .halted ?_ ?_ ?_ ?_ ?_ fun p j => ?_
  · simp [State.view, hctl]
  · have := h.station.configured_of (by rw [show s.view.station = .halting from hs]; decide)
    simpa [State.view, hconfig] using this
  · simp [State.view, hhead]
  · simp [State.view, hpacks]
  · have := h.station.stopped (Or.inl hs)
    simpa [State.view, hhead] using this
  · simp only [State.view, hpockets]
    rcases (s.pockets.get p).afterHalt_state with e | e <;> simp [e]

/-- A loose pocket is checked: its entry is appended, or it is FREE (R81). -/
theorem State.checkPocket_work {s : State} {p : PocketId} (h : s.view.WorkSound) (hp : s.view.Loose p) (occupied : Bool) :
    (s.checkPocket p occupied).view.WorkSound := by
  unfold State.checkPocket
  split
  · have hview := s.onPocket_view_eq p fun _ => { Pocket.empty with state := .waiting .clear }
    rw [State.enqueue_view, hview]
    exact h.append (e := State.newEntry _ p .clear .normal) hp rfl rfl
  · rw [State.onPocket_view_eq]
    exact h.repocket hp nofun

theorem State.resumePocket_work (occupied : PocketLevels) (p : PocketId) :
    Keeps (fun s => s.view.WorkSound) fun s => State.resumePocket occupied s p := by
  intro s h
  dsimp only [State.resumePocket]
  split
  · next hst =>
    exact State.checkPocket_work h (h.loose (show (s.pockets.get p).state.isAway = true from hst ▸ rfl)) _
  · exact h

/-- The station is in RUN with an IDLE head and no halt cause (R149 steps 1 to 3). -/
def State.restarted (s : State) : State :=
  (s.onCtl fun k => { k with haltCause := none, station := .run }).headTo .idle

/-- The LEFTOVER pockets have been checked (R149 step 4). -/
def State.leftoversChecked (occupied : PocketLevels) (s : State) : State :=
  PocketId.all.foldl (State.resumePocket occupied) s.restarted

theorem State.resume_eq (occupied : PocketLevels) (s : State) :
    s.resume occupied = ((s.leftoversChecked occupied).judgeHold).rescan.serve := rfl

theorem State.leftoversChecked_work {s : State} (occupied : PocketLevels) (h : s.view.WorkSound) :
    (s.leftoversChecked occupied).view.WorkSound :=
  foldl_keepsCondition (State.resumePocket_work occupied) PocketId.all s.restarted
    ⟨h.queue.congr rfl rfl fun _ _ => Iff.rfl, .not_busy fun _ _ _ _ => nofun,
      h.claims.sublist (List.Sublist.refl _) fun _ _ hf => hf⟩

theorem State.leftoversChecked_open {s : State} (occupied : PocketLevels) (h : s.config ≠ none) :
    (s.leftoversChecked occupied).view.Open := by
  have hstation := foldl_keeps (fun t => t.ctl.station) (State.resumePocket occupied) (fun t p => by simp) PocketId.all
    s.restarted
  have hconfig := foldl_keeps (fun t => t.config) (State.resumePocket occupied) (fun t p => by simp) PocketId.all
    s.restarted
  exact ⟨(congrArg StationState.holds hstation).trans rfl, fun hn => h (hconfig.symm.trans hn)⟩

theorem State.resume_agreed {s : State} (occupied : PocketLevels) (h : Agreed s) (hs : s.ctl.station = .halted) :
    Agreed (s.resume occupied) := by
  have hconf : s.config ≠ none := h.station.configured_of (by rw [show s.view.station = .halted from hs]; decide)
  have hwork := State.leftoversChecked_work occupied h.work
  have hopen := State.leftoversChecked_open occupied hconf
  rw [← State.judgeHold_view] at hwork hopen
  rw [State.resume_eq]
  exact State.serve_agrees (State.rescan_work hwork) (State.rescan_station (.of_open hopen))

/-! ### RUN, DRAIN and STANDBY (R22, R41, R140, R189, R190) -/

/-- A station that works takes another hold state. -/
theorem Agreed.enter {s : State} (h : Agreed s) (ho : s.view.Open) {st : StationState} (hst : st.holds = true) :
    Agreed (s.enter st) := by
  have hselects : s.view.station.selects = true := by
    have := ho.1
    revert this
    cases s.view.station <;> simp [StationState.holds, StationState.selects]
  exact .of_open ⟨h.work.queue.congr rfl rfl fun _ _ => Iff.rfl, h.work.head,
    h.work.claims.sublist (List.Sublist.refl _) fun _ _ hf => hf⟩ ⟨hst, ho.2⟩
    fun hi => ⟨(h.served hi).1, fun _ => (h.served hi).2 hselects⟩

theorem State.enterDrain_agreed {s : State} (h : Agreed s) (ho : s.view.Open) : Agreed s.enterDrain :=
  ((h.enter ho (st := .drain) rfl).eased (State.withdrawUnsent_eased _)).eased (State.judgeDrain_eased _)

theorem State.enterRun_agreed {s : State} (h : Agreed s) (ho : s.view.Open) : Agreed s.enterRun :=
  State.rescan_agrees (h.enter ho (st := .run) rfl)

theorem State.haltOnHeld_agreed {s : State} (h : Agreed s) (hc : s.view.config ≠ none) : Agreed s.haltOnHeld := by
  unfold State.haltOnHeld
  split
  · exact h
  · exact State.enterHalting_agreed (s := s.onCtl _) _ h.work hc

theorem State.joinEchoed_agreed : Keeps Agreed State.joinEchoed := by
  intro s h
  unfold State.joinEchoed
  split
  · next hst =>
    have ho : s.view.Open := h.station.open_of_holds (by rw [show s.view.station = .joining from hst]; rfl)
    exact State.rescan_agrees (State.haltOnHeld_agreed (Agreed.enter (s := s.forgetSelf) h ho (st := .run) rfl) ho.2)
  · exact h

/-! ### The console and the service button (R175 to R182) -/

section Console

theorem State.takeOrder_agreed (o : OrderKind) {obey : State → Obeyed} (h : Keeps Agreed fun s => (obey s).state) :
    Keeps Agreed (State.takeOrder o obey) := by
  intro s hs
  unfold State.takeOrder
  split
  · split
    · exact hs
    · exact (h s hs).of_view (State.append_view _ _)
  · exact hs

theorem Agreed.open_of_gates {s : State} (h : Agreed s) (hg : s.ctl.station.gates = true) : s.view.Open :=
  h.station.open_of_gates hg

theorem State.obeyStandby_agreed : Keeps Agreed fun s => s.obeyStandby.state := by
  intro s h
  unfold State.obeyStandby
  dsimp only
  split
  · next hst => exact State.enterDrain_agreed h (h.open_of_gates (hst ▸ rfl))
  all_goals exact h

theorem State.obeyResume_agreed (r : ResumeReadings) : Keeps Agreed fun s => (s.obeyResume r).state := by
  intro s h
  unfold State.obeyResume
  dsimp only
  split
  · exact h
  · next hst => exact State.enterRun_agreed h (h.open_of_gates (hst ▸ rfl))
  · next hst =>
    split
    · exact h
    · exact State.enterRun_agreed h (h.open_of_gates (hst ▸ rfl))
  · next hst =>
    split
    · exact h
    · exact State.resume_agreed (s := s.readSensors r) _ h hst
  · exact h

theorem State.obeySelfTest_agreed : Keeps Agreed fun s => s.obeySelfTest.state := by
  intro s h
  unfold State.obeySelfTest
  dsimp only
  split
  · split
    · exact h
    · exact State.requestTest_agreed h.work h.station
  · exact h

theorem State.buttonPressed_agreed (r : ResumeReadings) : Keeps Agreed (State.buttonPressed r) := by
  intro s h
  unfold State.buttonPressed
  split
  · exact h
  · split
    · next hst =>
      split
      · exact h
      · exact State.resume_agreed (s := s.readSensors r) _ h hst
    · next hst => exact State.enterDrain_agreed h (h.open_of_gates (hst ▸ rfl))
    · next hst => exact State.enterRun_agreed h (h.open_of_gates (hst ▸ rfl))
    · next hst => exact State.enterRun_agreed h (h.open_of_gates (hst ▸ rfl))
    · exact h

end Console

/-! ### Resets and the start sequence (R183 to R187) -/

theorem State.resetTo_agreed (cause : ResetCause) (s : State) : Agreed (s.resetTo cause) :=
  (workAgrees_iff.1 reset_workAgrees).2

theorem State.reboot_agreed (straps : Straps) (cut : Bool) (s : State) : Agreed (s.reboot straps cut) :=
  Agreed.of_view (s.resetTo_agreed .reboot) (State.cutStore_view _ cut)

theorem State.pinActive_agreed (cut : Bool) : Keeps Agreed (State.pinActive cut) := by
  intro s h
  unfold State.pinActive
  split
  · exact h
  · split
    · exact Agreed.of_view (s.resetTo_agreed .line) (State.cutStore_view _ cut)
    · exact h

theorem State.pinReleased_agreed (straps : Straps) : Keeps Agreed (State.pinReleased straps) := by
  intro s h
  unfold State.pinReleased
  dsimp only
  split
  · split <;> exact h
  · exact h

/-- The start sequence after the distribution, with the pockets in `l` still to be checked (R184). -/
structure WorkView.Starts (l : List PocketId) (v : WorkView) : Prop where
  work : v.WorkSound
  loading : v.station = .loading
  configured : v.config ≠ none
  unclaimed : v.claims = []
  loose : ∀ p ∈ l, v.Loose p

section Start

variable {s t : State} {l : List PocketId}

theorem WorkView.Starts.serve (h : s.view.Starts l) : s.serve.view.Starts l := by
  refine ⟨State.serve_work h.work, ?_, ?_, ?_, fun p hp => ?_⟩
  · simpa [State.view] using h.loading
  · simpa [State.view] using h.configured
  · simpa [State.view] using h.unclaimed
  · obtain ⟨hq, hc, hw⟩ := h.loose p hp
    rcases s.serve_cases with e | ⟨-, -, e⟩ | ⟨g, hg, -, -, -, -, e⟩ <;> rw [e]
    · exact h.loose p hp
    · exact ⟨hq, hc, fun _ _ _ => nofun⟩
    · have hne : p ≠ g.pocket := by
        rintro rfl
        exact hq _ (h.work.queue.waits g hg)
      rw [State.grant_view]
      exact ⟨fun j => by simpa [hne] using hq j, hc, fun j n k hb => hne (HeadWork.busy.inj hb).1.symm⟩

theorem WorkView.Starts.reevaluate (h : s.view.Starts l) : s.reevaluate.view.Starts l := by
  have hwork := State.reevaluate_work h.work
  obtain ⟨f, -, hview⟩ := s.reevaluate_view
  rw [hview] at hwork ⊢
  exact ⟨hwork, h.loading, h.configured, h.unclaimed, fun p hp =>
    ⟨(h.loose p hp).unqueued, (h.loose p hp).unclaimed, (h.loose p hp).unworked⟩⟩

theorem WorkView.Starts.rescan (h : s.view.Starts l) : s.rescan.view.Starts l := by
  rw [State.rescan_not_run (by rw [show s.ctl.station = .loading from h.loading]; decide)]
  exact h

theorem WorkView.Starts.of_view (h : s.view.Starts l) (hv : t.view = s.view) : t.view.Starts l := hv ▸ h

theorem WorkView.Starts.requestTest (h : s.view.Starts l) : s.requestTest.view.Starts l :=
  WorkView.Starts.serve (s := s.onHead fun k => { k with testWaiting := true })
    ⟨⟨h.work.queue.congr rfl rfl fun _ _ => Iff.rfl, h.work.head,
      h.work.claims.sublist (List.Sublist.refl _) fun _ _ hf => hf⟩, h.loading, h.configured, h.unclaimed, fun p hp =>
      ⟨(h.loose p hp).unqueued, (h.loose p hp).unclaimed, (h.loose p hp).unworked⟩⟩

theorem WorkView.Starts.emptyBin (h : s.view.Starts l) (bin : Nat) : (s.emptyBin bin).view.Starts l := by
  unfold State.emptyBin
  split
  · exact h
  · exact (h.of_view (by simp)).reevaluate.serve.rescan

theorem WorkView.Starts.takeHeld (h : s.view.Starts l) (c : StationConfig) : (s.takeHeld c).view.Starts l := by
  have hbins := foldl_keepsCondition (P := fun u => u.view.Starts l) (f := fun (u : State) bin => u.emptyBin bin)
    (fun bin u hu => hu.emptyBin bin) s.part.held.bins s h
  have htray : (if s.part.held.tray then (s.part.held.bins.foldl (fun u bin => u.emptyBin bin) s).emptyTray
      else s.part.held.bins.foldl (fun u bin => u.emptyBin bin) s).view.Starts l := by
    split
    · exact (hbins.of_view (by simp)).reevaluate.serve
    · exact hbins
  unfold State.takeHeld
  dsimp only
  split
  · exact (htray.of_view (by simp)).reevaluate.serve.rescan
  · exact htray

theorem WorkView.Starts.startTestIfFitted (h : s.view.Starts l) (c : StationConfig) :
    (s.startTestIfFitted c).view.Starts l := by
  unfold State.startTestIfFitted
  split
  · exact h.requestTest
  · exact h

/-- A pocket is checked, and the head served (R81, R184 step 7). -/
theorem WorkView.Starts.checkPocket {p : PocketId} (h : s.view.Starts (p :: l)) (hp : p ∉ l) (occupied : Bool) :
    (s.checkPocket p occupied).serve.view.Starts l := by
  have hloose := h.loose p (List.mem_cons_self ..)
  have hpocket : ∃ st, (s.checkPocket p occupied).view.pockets = Function.update s.view.pockets p st := by
    unfold State.checkPocket
    split
    · have hview := s.onPocket_view_eq p fun _ => { Pocket.empty with state := .waiting .clear }
      rw [State.enqueue_view, hview]
      exact ⟨_, rfl⟩
    · rw [State.onPocket_view_eq]
      exact ⟨_, rfl⟩
  obtain ⟨st, hst⟩ := hpocket
  refine WorkView.Starts.serve ⟨State.checkPocket_work h.work hloose _, ?_, ?_, ?_, fun q hq => ?_⟩
  · simpa [State.view] using h.loading
  · simpa [State.view] using h.configured
  · simpa [State.view] using h.unclaimed
  · have hne : q ≠ p := fun e => hp (e ▸ hq)
    obtain ⟨hw, hc, hb⟩ := h.loose q (List.mem_cons_of_mem _ hq)
    refine ⟨fun j => ?_, ?_, ?_⟩
    · rw [hst, Function.update_of_ne hne]
      exact hw j
    · simpa [State.view] using hc
    · simpa [State.view] using hb

theorem WorkView.Starts.checkPockets (h : s.view.Starts PocketId.all) (occupied : PocketLevels) :
    (s.checkPockets occupied).view.Starts [] := by
  have hall : ∀ (l : List PocketId) (u : State), l.Nodup → u.view.Starts l →
      (l.foldl (fun t p => (t.checkPocket p (occupied.get p)).serve) u).view.Starts [] := by
    intro l
    induction l with
    | nil => exact fun u _ hu => hu
    | cons p l ih =>
      intro u hnd hu
      obtain ⟨hp, hl⟩ := List.nodup_cons.1 hnd
      exact ih _ hl (hu.checkPocket hp _)
  exact hall PocketId.all (s.onPart fun k => { k with occupied := occupied }) (by decide) h

theorem State.checkPockets_served (occupied : PocketLevels) (s : State) : (s.checkPockets occupied).view.Served :=
  idleHeadServed_iff.1 (State.serve_served _)

theorem WorkView.Starts.leaveLoading (h : s.view.Starts l) (hs : s.view.Served) (c : StationConfig) :
    Agreed (s.leaveLoading c) := by
  unfold State.leaveLoading
  split
  · obtain ⟨cl, hcl, hview⟩ := s.enterSafe_view
    have hsafe : Agreed s.enterSafe := by
      unfold Agreed
      rw [hview]
      exact .stopped h.work hcl (.of_stopped rfl h.configured nofun nofun nofun)
    exact hsafe
  · have hselects : s.view.station.selects = true := by rw [h.loading]; rfl
    unfold Agreed
    rw [State.judgeHold_view, State.enter_view, State.append_view]
    exact .of_open ⟨h.work.queue.congr rfl rfl fun _ _ => Iff.rfl, h.work.head,
      h.work.claims.sublist (List.Sublist.refl _) fun _ _ hf => hf⟩ ⟨rfl, h.configured⟩
      fun hi => ⟨(hs hi).1, fun _ => (hs hi).2 hselects⟩

theorem State.failLoading_agreed (f : ConfigFault) (h : Agreed s) (hs : s.ctl.station = .loading) :
    Agreed (s.failLoading f) := by
  unfold State.failLoading
  dsimp only
  split
  · exact State.enterSafe_agreed s.clearHeld.budgetUnset h
  · have hconf : s.view.config = none := by
      by_contra hc
      exact (h.station.configured hc).1 hs
    obtain ⟨hq, hc, -, -⟩ := h.station.unconfigured hconf
    exact .stopped h.work (st := .configFault) (List.Sublist.refl _)
      ⟨fun _ => ⟨hq, hc, fun _ _ _ _ => nofun, Or.inr (Or.inl rfl)⟩, fun hn => absurd hconf hn, fun _ => rfl, nofun⟩

theorem State.imageRead_agreed (bytes : List Byte) (occupied : PocketLevels) (cartridge : Bool) :
    Keeps Agreed (State.imageRead bytes occupied cartridge) := by
  intro s h
  unfold State.imageRead
  split
  · next hst =>
    split
    · exact State.failLoading_agreed _ h hst
    · next c _ =>
      have hconf : s.view.config = none := by
        by_contra hc
        exact (h.station.configured hc).1 hst
      obtain ⟨hq, hc, hb, -⟩ := h.station.unconfigured hconf
      have hstarts : (s.withConfig (some c)).view.Starts PocketId.all :=
        ⟨⟨h.work.queue.congr rfl rfl fun _ _ => Iff.rfl, h.work.head,
          h.work.claims.sublist (List.Sublist.refl _) fun _ _ hf => hf⟩, hst, nofun, hc, fun p _ =>
          ⟨fun j hw => ?_, fun c' hc' => ?_, fun j n k => hb p j n k⟩⟩
      · have hchecked : ((s.withConfig (some c)).checkStore c cartridge).view.Starts PocketId.all :=
          hstarts.of_view (State.writeStore_view _)
        exact (((hchecked.takeHeld c).startTestIfFitted c).checkPockets occupied).leaveLoading
          (State.checkPockets_served _ _) c
      · obtain ⟨e, he, -⟩ := h.work.queue.queued p j hw
        rw [hq] at he
        exact absurd he List.not_mem_nil
      · have hmem : c' ∈ s.view.claims := hc'
        rw [hc] at hmem
        exact absurd hmem List.not_mem_nil
  · exact h

end Start

end Sys2Proof.Machine

namespace Sys2Proof.Machine

open Sys2Proof.Config

/-! ### Every command keeps the agreement -/

section Commands

theorem orderOf_keepsAgreed (o : OrderKind) : Keeps Agreed (State.orderOf o) := by
  intro s h
  cases o with
  | standby => exact State.takeOrder_agreed _ State.obeyStandby_agreed s h
  | resume => exact State.takeOrder_agreed _ (State.obeyResume_agreed _) s h
  | selfTest => exact State.takeOrder_agreed _ State.obeySelfTest_agreed s h
  | clearCounters => exact State.takeOrder_agreed .clearCounters (obey := State.obeyClear) (fun _ hu => hu) s h
  | reboot => exact s.reboot_agreed _ _

theorem asked_keepsAgreed (a : Ask) : Keeps Agreed (State.asked a) := keepsAgreed_of_view fun s => s.asked_view a

theorem handOn_keepsAgreed (f : Frame) : Keeps Agreed (State.handOn f) := by
  intro s hs
  have hpack : ∀ (w : WirePackId) {take : PackId → State → State}, (∀ id, Keeps Agreed (take id)) →
      Agreed (s.withPack w take) := fun w _ ht => withPack_keeps (fun _ hs => hs) ht w s hs
  unfold State.handOn
  split
  · exact hpack _ fun _ => State.takeOffer_agreed _ _
  · exact hpack _ fun id => keepsAgreed_of_eased fun u => u.takeBidFrom_eased _ _ id
  · exact hpack _ fun _ => State.takeClose_agreed _ _
  · exact hpack _ fun _ => State.takeWithdraw_agreed _ _
  · exact hpack _ fun _ => State.takeEnd_agreed _ _
  · exact hpack _ fun _ => State.takeEnd_agreed _ _
  · exact keepsAgreed_of_eased (fun u => u.takeForget_eased _) s hs
  · exact keepsAgreed_of_eased (fun u => u.takeForget_eased _) s hs
  · split
    · exact hs
    · exact forThisStation_keeps (asked_keepsAgreed _) _ s hs
  · split
    · exact hs
    · exact forThisStation_keeps (orderOf_keepsAgreed _) _ s hs
  · exact hs

theorem memberFrame_keepsAgreed {handOn : State → State} (h : Keeps Agreed handOn) (f : Frame) :
    Keeps Agreed (State.fromMember f handOn) := fromMember_keeps (fun _ hs => hs) (fun _ hs => hs) h f

theorem packFrame_keepsAgreed {take : PackId → State → State} (h : ∀ id, Keeps Agreed (take id)) (f : Frame)
    (w : WirePackId) : Keeps Agreed (State.fromMember f (State.withPack w take)) :=
  memberFrame_keepsAgreed (withPack_keeps (fun _ hs => hs) h w) f

theorem echo_keepsAgreed {handOn : TxEntry → State → State} (h : ∀ e, Keeps Agreed (handOn e))
    (isKind : TxFrame → Bool) : Keeps Agreed (State.echo isKind handOn) :=
  echo_keeps (fun _ hs => hs) (fun _ hs => hs) (fun _ _ hs => hs) h isKind

/-- The echo of a HALT finds the station in HALTING (R141, R168). -/
theorem haltEcho_keepsAgreed {s : State} (htx : TransmitSound s) (hs : Agreed s) :
    Agreed (s.echo (TxFrame.isKind .halt) fun _ => State.haltEchoed) := by
  unfold State.echo
  split
  · split
    · exact hs
    · next e he =>
      split
      · next hf =>
        exact State.haltEchoed_agreed (s := s.echoed e) hs (htx.halting_of_halt (State.sending_mem he) hf).1
      · exact hs
  · exact hs

theorem askDelivered_keepsAgreed (h : ConsoleHeader) (a : Ask) : Keeps Agreed (State.askDelivered h a) :=
  memberFrame_keepsAgreed (forThisStation_keeps (asked_keepsAgreed a) _) _

theorem orderDelivered_keepsAgreed (h : ConsoleHeader) (o : OrderKind) {take : State → State} (ht : Keeps Agreed take) :
    Keeps Agreed (State.orderDelivered h o take) := memberFrame_keepsAgreed (forThisStation_keeps ht _) _

theorem forget_keepsAgreed (sender : Nat) : Keeps Agreed (State.takeForget sender) :=
  keepsAgreed_of_eased fun s => s.takeForget_eased sender

theorem exec_keepsAgreed (c : Instr) {s t : State} (htx : TransmitSound s) (hs : Agreed s) (h : exec c s = .next t) :
    Agreed t := by
  cases c with
  | powerReset straps =>
    obtain rfl := Host.Outcome.next.inj h
    exact s.resetTo_agreed .power
  | resetPinActive cut =>
    obtain rfl := Host.Outcome.next.inj h
    exact State.pinActive_agreed cut s hs
  | resetPinReleased straps =>
    obtain rfl := Host.Outcome.next.inj h
    exact State.pinReleased_agreed straps s hs
  | imageReadComplete bytes occupied cartridge => exact event_keeps (State.imageRead_agreed _ _ _) h hs
  | imageReadTimeout => exact event_keeps (State.imageRead_agreed _ _ _) h hs
  | contention m => exact event_keeps (keepsAgreed_of_eased fun u => u.contends_eased m) h hs
  | spoiledFrame f => exact event_keeps (State.frameSpoiled_agreed f) h hs
  | malformedFrame f => exact event_keeps (memberFrame_keepsAgreed (handOn_keepsAgreed f) f) h hs
  | offer sender b => exact event_keeps (packFrame_keepsAgreed (fun _ => State.takeOffer_agreed _ b) _ _) h hs
  | bid a =>
    cases a with
    | echo => exact event_keeps (echo_keepsAgreed (fun e => keepsAgreed_of_eased fun u => u.takeBidEcho_eased e) _) h hs
    | other sender b =>
      exact event_keeps (packFrame_keepsAgreed (fun id => keepsAgreed_of_eased fun u => u.takeBidFrom_eased _ b id) _ _) h hs
  | close sender w => exact event_keeps (packFrame_keepsAgreed (State.takeClose_agreed _) _ _) h hs
  | withdraw sender w => exact event_keeps (packFrame_keepsAgreed (State.takeWithdraw_agreed _) _ _) h hs
  | delivered a =>
    cases a with
    | echo => exact event_keeps (echo_keepsAgreed State.takeEndEcho_agreed _) h hs
    | other sender b => exact event_keeps (packFrame_keepsAgreed (State.takeEnd_agreed _) _ _) h hs
  | aside a =>
    cases a with
    | echo => exact event_keeps (echo_keepsAgreed State.takeEndEcho_agreed _) h hs
    | other sender b => exact event_keeps (packFrame_keepsAgreed (State.takeEnd_agreed _) _ _) h hs
  | halt sender cause => exact event_keeps (memberFrame_keepsAgreed (forget_keepsAgreed _) _) h hs
  | haltEcho =>
    obtain rfl : (if s.running then s.echo (TxFrame.isKind .halt) fun _ => State.haltEchoed else s) = t :=
      Host.Outcome.next.inj h
    split
    · exact haltEcho_keepsAgreed htx hs
    · exact hs
  | join sender b => exact event_keeps (memberFrame_keepsAgreed (forget_keepsAgreed _) _) h hs
  | joinEcho => exact event_keeps (echo_keepsAgreed (fun _ => State.joinEchoed_agreed) _) h hs
  | hold sender time => exact event_keeps (memberFrame_keepsAgreed Keeps.id _) h hs
  | holdEcho => exact event_keeps (echo_keepsAgreed (handOn := fun _ => State.holdEchoed) (fun _ _ hu => hu) _) h hs
  | renewalTimerExpiry => exact event_keeps (keepsAgreed_of_view State.renewHold_view) h hs
  | askSummary hd => exact event_keeps (askDelivered_keepsAgreed hd _) h hs
  | askPack hd id => exact event_keeps (askDelivered_keepsAgreed hd _) h hs
  | askPocket hd selector => exact event_keeps (askDelivered_keepsAgreed hd _) h hs
  | askBin hd selector => exact event_keeps (askDelivered_keepsAgreed hd _) h hs
  | askHead hd => exact event_keeps (askDelivered_keepsAgreed hd _) h hs
  | askCounters hd => exact event_keeps (askDelivered_keepsAgreed hd _) h hs
  | reportEcho => exact event_keeps (echo_keepsAgreed (fun e => keepsAgreed_of_view fun u => u.reportEchoed_view e) _) h hs
  | answerEcho => exact event_keeps (echo_keepsAgreed (handOn := fun _ => State.answerEchoed) (fun _ _ hu => hu) _) h hs
  | orderStandby hd => exact event_keeps (orderDelivered_keepsAgreed hd _ (orderOf_keepsAgreed .standby)) h hs
  | orderResume hd r =>
    exact event_keeps (orderDelivered_keepsAgreed hd _ (State.takeOrder_agreed _ (State.obeyResume_agreed r))) h hs
  | orderSelfTest hd => exact event_keeps (orderDelivered_keepsAgreed hd _ (orderOf_keepsAgreed .selfTest)) h hs
  | orderClearCounters hd => exact event_keeps (orderDelivered_keepsAgreed hd _ (orderOf_keepsAgreed .clearCounters)) h hs
  | orderReboot hd straps cut =>
    exact event_keeps (orderDelivered_keepsAgreed hd _ fun u _ => u.reboot_agreed straps cut) h hs
  | serviceButton r => exact event_keeps (State.buttonPressed_agreed r) h hs
  | sheetAtGate mark => exact event_keeps (State.sheetArrives_agreed mark) h hs
  | gapTimerExpiry p => exact event_keeps (State.gapExpires_agreed p) h hs
  | firstSheetTimerExpiry p => exact event_keeps (State.firstSheetExpires_agreed p) h hs
  | strokeComplete v => exact event_keeps (State.strokeCompletes_agreed v) h hs
  | strokeLimitExpiry => exact event_keeps (State.limitExpires_agreed _ _) h hs
  | noStaple => exact event_keeps State.noStapleFound_agreed h hs
  | headJam => exact event_keeps State.headJams_agreed h hs
  | ejectComplete occupied => exact event_keeps (State.ejectCompletes_agreed occupied) h hs
  | ejectLimitExpiry => exact event_keeps (State.limitExpires_agreed _ _) h hs
  | carriageJam => exact event_keeps (State.limitExpires_agreed _ _) h hs
  | dropConfirmed => exact event_keeps State.dropConfirms_agreed h hs
  | dropLimitExpiry => exact event_keeps (State.limitExpires_agreed _ _) h hs
  | trayDropConfirmed occupied => exact event_keeps (State.trayDropConfirms_agreed occupied) h hs
  | trayDropLimitExpiry => exact event_keeps (State.limitExpires_agreed _ _) h hs
  | referenceReading v => exact event_keeps (State.referenceRead_agreed v) h hs
  | readingLimitExpiry => exact event_keeps State.readingExpires_agreed h hs
  | cartridgeInserted =>
    exact event_keeps (f := fun u => State.senseRaised _ _ u.cartridgeShows)
      (fun u hu => State.senseRaised_agreed _ State.refill_agreed u.cartridgeShows hu) h hs
  | binEmptied bin => exact event_keeps (State.senseRaised_agreed _ fun _ => State.emptyBin_agreed bin) h hs
  | trayEmptied => exact event_keeps (State.senseRaised_agreed _ fun _ => State.emptyTray_agreed) h hs
  | pocketJam p =>
    obtain rfl := Host.Outcome.next.inj h
    exact State.pocketJams_agreed p s hs
  | lossOfPower cut =>
    obtain rfl := Host.Outcome.next.inj h
    exact hs.of_view (State.cutStore_view s _)
  | frameForAnotherMember f => exact event_keeps (memberFrame_keepsAgreed (handOn_keepsAgreed f) f) h hs
  | pocketJamCleared p =>
    obtain rfl := Host.Outcome.next.inj h
    exact hs

end Commands

/-- Settles O60: the half second of an empty queue leaves what the agreement reads, and each command keeps the agreement and
the sound transmit queue from which the echo of a HALT finds the station in HALTING. -/
theorem pocketsQueueAndHeadStayInAgreement : Obligations.PocketsQueueAndHeadStayInAgreement := by
  intro s t hs h
  obtain ⟨htx, hagreed⟩ := workAgrees_iff.1 hs
  refine workAgrees_iff.2 ?_
  unfold step at h
  split at h
  · obtain rfl := Host.Outcome.next.inj h
    exact ⟨keepsTransmit_of (fun _ _ => tick_keepsLink) s htx, Agreed.of_view hagreed s.tick_view⟩
  · next c rest _ =>
    exact ⟨exec_keepsTransmit c (s := s.withPending rest) htx h,
      exec_keepsAgreed c (s := s.withPending rest) htx hagreed h⟩

end Sys2Proof.Machine

namespace Sys2Proof.Machine

open Sys2Proof.Config

/-! ### The seven checks (R24 to R32) -/

theorem PocketId.forall_iff {P : PocketId → Prop} : (∀ p, P p) ↔ P .p1 ∧ P .p2 ∧ P .p3 ∧ P .p4 :=
  ⟨fun h => ⟨h _, h _, h _, h _⟩, fun ⟨h1, h2, h3, h4⟩ p => by cases p <;> assumption⟩

/-- The first of the four pockets that satisfies a condition. -/
theorem PocketId.find_all {c : PocketId → Bool} {p : PocketId} :
    PocketId.all.find? c = some p ↔ c p = true ∧ ∀ q : PocketId, q.number < p.number → c q = false := by
  rw [PocketId.forall_iff]
  simp only [PocketId.all, List.find?_cons, List.find?_nil, PocketId.number]
  cases p <;> grind

section Checks

variable {o : Offer} {s : State}

/-- The pocket check 2 finds is the one to claim (R25). -/
theorem State.freePocket_eq_some {p : PocketId} : s.freePocket = some p ↔ PocketToClaim p s := by
  have hfree : ∀ q, (decide ((s.pockets.get q).state = .free) && !s.claimed q) = true ↔
      (s.pockets.get q).state = .free ∧ ∀ b ∈ s.packs.bids, b.pocket ≠ q := fun q => by
    simp [State.claimed]
  have htaken : ∀ q, (decide ((s.pockets.get q).state = .free) && !s.claimed q) = false ↔
      (s.pockets.get q).state ≠ .free ∨ ∃ b ∈ s.packs.bids, b.pocket = q := fun q => by
    simp [State.claimed, imp_iff_not_or]
  unfold State.freePocket PocketToClaim
  rw [PocketId.find_all, hfree]
  simp only [htaken]

theorem State.freePocket_eq_none : s.freePocket = none ↔ ∀ p, ¬ PocketToClaim p s := by
  simp only [Option.eq_none_iff_forall_ne_some, ne_eq, State.freePocket_eq_some]

theorem FinishKind.need_eq (f : FinishKind) : f.need = staplesNeeded f := by cases f <;> rfl

theorem TestOutcome.trusted_iff (t : TestOutcome) : t.trusted = true ↔ t = .pass ∨ t = .marginal := by
  cases t <;> simp [TestOutcome.trusted]

theorem lengthFits_iff {c : StationConfig} :
    lengthFits c o = true ↔ o.count ≤ c.pocketCapacity ∧ (o.count = 0 → c.openPacks = true) := by
  by_cases h : o.count = 0 <;> simp [lengthFits, h]

theorem finishFits_iff :
    finishFits s o = true ↔
      (o.finish ≠ .loose →
        s.cfg.stapler = true ∧ (o.finish = .edge → s.cfg.edge = true) ∧
          (s.head.readings.outcome = .pass ∨ s.head.readings.outcome = .marginal)) := by
  unfold finishFits
  cases o.finish <;> simp [TestOutcome.trusted_iff, and_assoc]

theorem staplesFit_iff :
    staplesFit s o = true ↔
      (o.finish ≠ .loose →
        (staplesNeeded o.finish : Int) ≤
          s.head.staples.remaining - s.head.staples.committed - (s.packs.bids.map PendingBid.staples).sum) := by
  unfold staplesFit State.unpromised State.tentativeStaples
  cases o.finish <;> simp [FinishKind.need, staplesNeeded]

/-- Checks 3 to 5 (R26, R27). -/
theorem packSuits_iff : (lengthFits s.cfg o && finishFits s o && staplesFit s o) = true ↔ PackSuits o s := by
  rw [Bool.and_eq_true, Bool.and_eq_true, lengthFits_iff, finishFits_iff, staplesFit_iff]
  constructor
  · rintro ⟨⟨hl, hf⟩, hs⟩
    exact ⟨hl, fun hn => ⟨(hf hn).1, (hf hn).2.1, (hf hn).2.2, hs hn⟩⟩
  · rintro ⟨hl, h⟩
    exact ⟨⟨hl, fun hn => ⟨(h hn).1, (h hn).2.1, (h hn).2.2.1⟩⟩, fun hn => (h hn).2.2.2⟩

theorem State.hasPlace_iff {n : Nat} : s.hasPlace n = true ↔ BinHasPlace n s := by
  unfold State.hasPlace BinHasPlace State.tentative
  cases s.bin n <;> simp

/-- Check 6 chooses the target bin (R28, R127). -/
theorem chooseBin_eq_some {n : Nat} : chooseBin s o = some n ↔ TargetBin o n s := by
  unfold chooseBin TargetBin
  cases mapLookup s.cfg.map o.classCode o.roll with
  | none => simp
  | some e =>
    by_cases hp : s.hasPlace e.primary = true
    · have hplace := State.hasPlace_iff.1 hp
      simp only [hp, if_true, Option.some.injEq, exists_eq_left', hplace, not_true_eq_false, false_and, or_false]
      exact ⟨fun h => ⟨h ▸ hplace, h.symm⟩, fun h => h.2.symm⟩
    · have hplace : ¬ BinHasPlace e.primary s := fun h => hp (State.hasPlace_iff.2 h)
      have hne : ∀ m, BinHasPlace m s → m ≠ e.primary := fun m hm heq => hplace (heq ▸ hm)
      simp only [hp, Option.some.injEq, exists_eq_left']
      cases e.overflow with
      | none => simpa using fun hm => hne n hm
      | some k =>
        by_cases hk : s.hasPlace k = true
        · have hkplace := State.hasPlace_iff.1 hk
          simp only [hk, if_true, Option.some.injEq, Bool.false_eq_true, if_false]
          constructor
          · rintro rfl
            exact ⟨hkplace, Or.inr ⟨hplace, rfl⟩⟩
          · rintro ⟨hn, h | ⟨-, h⟩⟩
            · exact absurd h (hne n hn)
            · exact h
        · simp only [hk, Bool.false_eq_true, if_false, reduceCtorEq, false_iff]
          rintro ⟨hn, h | ⟨-, h⟩⟩
          · exact hne n hn h
          · exact hk (State.hasPlace_iff.2 (Option.some.inj h ▸ hn))

theorem chooseBin_eq_none : chooseBin s o = none ↔ ∀ n, ¬ TargetBin o n s := by
  simp only [Option.eq_none_iff_forall_ne_some, ne_eq, chooseBin_eq_some]

theorem Pocket.isBound_eq (q : Pocket) :
    q.isBound =
      match q.state with
      | .reserved => true
      | .filling => true
      | .absorbing _ => true
      | .waiting .finish => true
      | .waiting (.setAside _) => true
      | .atHead .finish => true
      | .atHead (.setAside _) => true
      | .retiring _ => true
      | _ => false := by
  unfold Pocket.isBound
  cases q.state with
  | waiting j => cases j <;> rfl
  | atHead j => cases j <;> rfl
  | _ => rfl

theorem State.load_eq (s : State) : s.load = loadOf s := by
  unfold State.load loadOf
  simp only [Pocket.isBound_eq] <;> rfl

/-- The bid that a consideration gives is determined by the offer and the state (R30). -/
theorem State.consider_bid_iff {b : PendingBid} {load : Nat} : s.consider o = .bid b load ↔ BidGiven o b load s := by
  unfold State.consider BidGiven
  by_cases hrun : s.ctl.station = .run
  swap
  · simp [hrun]
  simp only [hrun, ne_eq, not_true_eq_false, if_false, true_and]
  rw [← State.freePocket_eq_some, ← packSuits_iff, ← chooseBin_eq_some, ← State.load_eq, ← FinishKind.need_eq]
  cases s.freePocket with
  | none => simp
  | some p =>
    by_cases hsuits : (lengthFits s.cfg o && finishFits s o && staplesFit s o) = true
    swap
    · simp [hsuits]
    simp only [hsuits, Bool.true_eq_false, if_false, true_and]
    cases chooseBin s o with
    | none => simp
    | some n =>
      cases intakeVerdict s.cfg o with
      | refuse => simp
      | accept fit =>
        obtain ⟨id, pocket, staples, bin, bfit, stage⟩ := b
        simp only [Consideration.bid.injEq, PendingBid.mk.injEq, Option.some.injEq, Verdict.accept.injEq]
        constructor
        · rintro ⟨⟨rfl, rfl, rfl, rfl, rfl, rfl⟩, rfl⟩
          exact ⟨rfl, rfl, rfl, rfl, rfl, rfl, rfl⟩
        · rintro ⟨rfl, rfl, rfl, rfl, rfl, rfl, rfl⟩
          exact ⟨⟨rfl, rfl, rfl, rfl, rfl, rfl⟩, rfl⟩

theorem State.consider_stop_iff : s.consider o = .stop ↔ s.ctl.station ≠ .run ∨ ∀ p, ¬ PocketToClaim p s := by
  rw [← State.freePocket_eq_none]
  unfold State.consider
  by_cases hrun : s.ctl.station = .run
  swap
  · simp [hrun]
  simp only [hrun, ne_eq, not_true_eq_false, if_false, false_or]
  cases s.freePocket with
  | none => simp
  | some p =>
    dsimp only
    split
    · simp
    · split
      · simp
      · split <;> simp

theorem State.consider_skip_iff :
    s.consider o = .skip ↔
      s.ctl.station = .run ∧ (∃ p, PocketToClaim p s) ∧
        (¬ PackSuits o s ∨ (∀ n, ¬ TargetBin o n s) ∨ intakeVerdict s.cfg o = .refuse) := by
  have hpocket : (∃ p, PocketToClaim p s) ↔ s.freePocket ≠ none := by
    rw [ne_eq, State.freePocket_eq_none, not_forall_not]
  rw [hpocket, ← packSuits_iff, ← chooseBin_eq_none]
  unfold State.consider
  by_cases hrun : s.ctl.station = .run
  swap
  · simp [hrun]
  simp only [hrun, ne_eq, not_true_eq_false, if_false, true_and]
  cases s.freePocket with
  | none => simp
  | some p =>
    by_cases hsuits : (lengthFits s.cfg o && finishFits s o && staplesFit s o) = true
    swap
    · simp [hsuits]
    simp only [hsuits, Bool.true_eq_false, if_false, reduceCtorEq, not_false_eq_true, true_and, not_true_eq_false, false_or]
    cases chooseBin s o with
    | none => simp
    | some n => cases intakeVerdict s.cfg o <;> simp

theorem State.openTo_iff {e : Entry} : s.openTo e = true ↔ OpenHere e s := by
  unfold State.openTo OpenHere
  cases e.state with
  | placed o a => simp
  | bidding bids => simp [State.pendingBid]

end Checks

/-- Settles O19: each consideration is one of the three by the checks, and a re-scan takes the open entries in table order. -/
theorem bidIsMadeExactlyWhenEligible : Obligations.BidIsMadeExactlyWhenEligible := by
  refine ⟨fun o s => ⟨fun b load => State.consider_bid_iff, State.consider_stop_iff, State.consider_skip_iff⟩,
    fun e rest s => ⟨rfl, rfl, fun hc => ?_, fun ho => ?_⟩⟩
  · have hopen : s.openTo e = false := Bool.eq_false_iff.2 fun h => hc (State.openTo_iff.1 h)
    simp [rescanOver, hopen]
  · have hopen : s.openTo e = true := State.openTo_iff.2 ho
    refine ⟨fun h => by simp [rescanOver, hopen, h], fun h => by simp [rescanOver, hopen, h], fun b load h => ?_⟩
    have hrun : s.ctl.station ≠ .safe := by rw [State.consider_bid_run h]; nofun
    exact ⟨s.placeBid b load, State.placeBid_placed b load hrun, by simp [rescanOver, hopen, h]⟩

/-- A new entry leaves all that a consideration reads. -/
theorem BidGiven.withOffer {o : Offer} {b : PendingBid} {load : Nat} {s : State} (h : BidGiven o b load s) :
    BidGiven o b load (s.received.withOffer o) := h

/-- Settles O18: the consideration of the new entry gives the bid. -/
theorem offerInRunBringsAnEligibleBid : Obligations.OfferInRunBringsAnEligibleBid := by
  rintro sender b o bid load s _ hf ho hfeed hnew hroom rfl hp hb
  have hrun : s.ctl.station = .run := hb.1
  have happlies : s.received.ctl.station.applies = true := by
    simp only [State.received_frame, hrun, StationState.applies]
  have hgiven : (s.received.withOffer o).consider o = .bid bid load := State.consider_bid_iff.2 hb.withOffer
  refine ⟨_, exec_offer b hf, ?_⟩
  rw [State.withPack_taken (s := s.received) _ happlies (readPackId_of_readOffer ho)]
  have htake : State.takeOffer sender.toNat b s.received = s.received.enterOffer o := by
    simp [State.takeOffer, ho, hfeed, State.entry_congr (s := s) (t := s.received) rfl, hnew, tableCapacity, hroom]
  rw [htake, State.enterOffer_bid (s := s.received) hp hgiven]
  have hsafe : (s.received.withOffer o).ctl.station ≠ .safe := by
    rw [show (s.received.withOffer o).ctl.station = .run from hrun]
    nofun
  exact State.placeBid_placed bid load hsafe

end Sys2Proof.Machine

namespace Sys2Proof.Machine

open Sys2Proof.Config

/-! ### The claims of a won pack (R36, R37, R64) -/

theorem State.pendingBid_id {id : PackId} {b : PendingBid} {s : State} (h : s.pendingBid id = some b) : b.id = id := by
  simpa using List.find?_some h

theorem State.resolvePlaced_won {id : PackId} {b : PendingBid} {s : State} (h : s.pendingBid id = some b)
    (hb : b.stage = .sent) :
    s.resolvePlaced id s.address =
      (s.placeEntry id s.address (some { pocket := b.pocket, bin := b.bin, stage := .live })).commitClaims b := by
  simp only [State.resolvePlaced, h, hb, if_true]

/-- The claims of a pending bid become commitments (R37, R64). -/
theorem State.commitClaims_spec (b : PendingBid) (s : State) :
    (s.commitClaims b).pockets.get b.pocket =
        { state := .reserved, bound := some { pack := b.id, next := 1 }, sheets := 0, driven := 0,
          timer := some (.firstSheet (2 * s.cfg.firstSheetLimit)), extraSeen := false } ∧
      OtherPocketsUnchanged b.pocket s (s.commitClaims b) ∧
      (s.commitClaims b).head =
        { s.head with staples := { s.head.staples with committed := s.head.staples.committed + b.staples } } ∧
      (∀ n, (s.commitClaims b).bin n =
        (s.bin n).map fun k => if n = b.bin then { k with committed := k.committed + 1 } else k) ∧
      (s.commitClaims b).packs.bids = s.packs.bids.filter (fun x => decide (x.id ≠ b.id)) ∧
      (s.commitClaims b).link = s.link := by
  unfold State.commitClaims
  refine ⟨?_, fun q hq => ?_, ?_, fun n => ?_, ?_, ?_⟩
  · simp [State.cfg, seconds]
  · simp [State.onPocket_other _ _ hq]
  · rw [State.onBin_head]
    rfl
  · rw [State.bin_onBin]
    have hbin : (((s.dropBid b.id).onPocket b.pocket fun _ =>
        { state := .reserved, bound := some { pack := b.id, next := 1 }, sheets := 0, driven := 0,
          timer := some (.firstSheet (seconds s.cfg.firstSheetLimit)), extraSeen := false }).onStaples fun k =>
        { k with committed := k.committed + b.staples }).bin n = s.bin n := rfl
    rw [hbin]
    split
    · rfl
    · simp
  · simp [State.dropBid]
  · simp

/-- Settles O24: the winning CLOSE places the pack and commits the claims of its SENT pending bid. -/
theorem wonPackIsCommitted : Obligations.WonPackIsCommitted := by
  intro sender w id e bids r b s hf ha hw hfeed he hst hwin hown hp hb
  have hwon : s.received.resolvePlaced id s.address = _ := State.resolvePlaced_won (s := s.received) hp hb
  rw [exec_close w hf, State.withPack_taken (s := s.received) _ ha hw,
    State.takeClose_won (s := s.received) he (not_not.2 hfeed) hst hwin, hown, hwon]
  obtain rfl := State.pendingBid_id hp
  obtain ⟨hpart, hconfig, hstore, htray, -, -, -, hctl, hent⟩ := (s.received.placeEntry b.id s.address
    (some { pocket := b.pocket, bin := b.bin, stage := .live })).commitClaims_frame b
  exact ⟨_, rfl, (State.entry_congr hent b.id).trans (State.placeEntry_entry (s := s.received) _ _ he), hent, hpart, hconfig,
    hctl, hstore, htray, State.commitClaims_spec b (s.received.placeEntry b.id s.address _)⟩

end Sys2Proof.Machine

namespace Sys2Proof.Machine

open Sys2Proof.Config

/-! ### Faults of the head (R102) -/

theorem State.takeFault_arrivals (c : HaltCause) (s : State) : (s.takeFault c).head.arrivals = s.head.arrivals := by
  have hhalts : (s.enterHalting c).head.arrivals = s.head.arrivals := by rw [State.enterHalting_head]
  have hheld : (s.holdFault c).head.arrivals = s.head.arrivals := by
    unfold State.holdFault
    split <;> rfl
  unfold State.takeFault
  split
  · exact hhalts
  · exact hhalts
  · exact hhalts
  · exact hheld
  · exact hheld
  all_goals rfl

theorem State.takeFault_keeps (c : HaltCause) (s : State) : FaultKeeps s (s.takeFault c) :=
  ⟨by simp, by simp, s.takeFault_arrivals c, by simp, by simp, by simp, by simp, by simp⟩

theorem State.headFault_keeps (c : HaltCause) (s : State) : FaultKeeps s (s.headFault c) := s.stopHead.takeFault_keeps c

section HeadFault

variable {s : State} {op : Operation}

theorem State.headJams_eq (h : s.head.state ≠ .stopped) : s.headJams = s.headFault .headJam := by
  unfold State.headJams
  split
  · next hst => exact absurd hst h
  all_goals rfl

theorem State.limitExpires_eq {inPhase : Phase → Bool} (c : HaltCause) (hb : s.head.state = .busy op)
    (h : inPhase op.phase = true) : s.limitExpires inPhase c = s.headFault c := by
  simp only [State.limitExpires, hb, h, if_true]

theorem State.ejectCompletes_failed (hb : s.head.state = .busy op) (h : op.phase = .eject) :
    s.ejectCompletes true = (s.readOccupied op.pocket true).headFault .ejectFault := by
  simp only [State.ejectCompletes, hb, h, if_true]

theorem State.trayDropConfirms_failed (hb : s.head.state = .busy op) (h : op.phase = .trayDrop) :
    s.trayDropConfirms true = (s.readOccupied op.pocket true).headFault .ejectFault := by
  simp only [State.trayDropConfirms, hb, h, if_true]

/-- The commands of R102 that are a fault in the state, with their causes. -/
def FaultOfHead (c : Instr) (cause : HaltCause) (s : State) : Prop :=
  c = .headJam ∧ cause = .headJam ∧ s.head.state ≠ .stopped ∨
    ∃ op, s.head.state = .busy op ∧
      (c = .strokeLimitExpiry ∧ cause = .strokeTimeout ∧ (∃ k retry, op.phase = .stroke k retry) ∨
        c = .ejectLimitExpiry ∧ cause = .ejectFault ∧ op.phase = .eject ∨
        c = .dropLimitExpiry ∧ cause = .dropTimeout ∧ op.phase = .drop ∨
        c = .trayDropLimitExpiry ∧ cause = .trayTimeout ∧ op.phase = .trayDrop ∨
        c = .carriageJam ∧ cause = .ejectFault ∧ (op.phase = .eject ∨ op.phase = .drop ∨ op.phase = .trayDrop) ∨
        c = .ejectComplete true ∧ cause = .ejectFault ∧ op.phase = .eject ∨
        c = .trayDropConfirmed true ∧ cause = .ejectFault ∧ op.phase = .trayDrop)

/-- A fault of the head is taken on the state as it stands, or with the level that a failed eject or tray drop has shown. -/
theorem exec_headFault {c : Instr} {cause : HaltCause} (hr : s.running = true) (h : FaultOfHead c cause s) :
    exec c s = .next (s.headFault cause) ∧ c ≠ .ejectComplete true ∧ c ≠ .trayDropConfirmed true ∨
      ∃ op, s.head.state = .busy op ∧ exec c s = .next ((s.readOccupied op.pocket true).headFault cause) ∧
        (c = .ejectComplete true ∨ c = .trayDropConfirmed true) := by
  rcases h with ⟨rfl, rfl, hst⟩ | ⟨op, hb, h⟩
  · exact Or.inl ⟨(event_running hr).trans (congrArg _ (State.headJams_eq hst)), nofun, nofun⟩
  rcases h with ⟨rfl, rfl, k, retry, hph⟩ | ⟨rfl, rfl, hph⟩ | ⟨rfl, rfl, hph⟩ | ⟨rfl, rfl, hph⟩ | ⟨rfl, rfl, hph⟩ |
    ⟨rfl, rfl, hph⟩ | ⟨rfl, rfl, hph⟩
  · exact Or.inl ⟨(event_running hr).trans (congrArg _ (State.limitExpires_eq _ hb (by rw [hph]; rfl))), nofun, nofun⟩
  · exact Or.inl ⟨(event_running hr).trans (congrArg _ (State.limitExpires_eq _ hb (by rw [hph]; rfl))), nofun, nofun⟩
  · exact Or.inl ⟨(event_running hr).trans (congrArg _ (State.limitExpires_eq _ hb (by rw [hph]; rfl))), nofun, nofun⟩
  · exact Or.inl ⟨(event_running hr).trans (congrArg _ (State.limitExpires_eq _ hb (by rw [hph]; rfl))), nofun, nofun⟩
  · have huses : op.phase.usesCarriage = true := by rcases hph with e | e | e <;> rw [e] <;> rfl
    exact Or.inl ⟨(event_running hr).trans (congrArg _ (State.limitExpires_eq _ hb huses)), nofun, nofun⟩
  · exact Or.inr ⟨op, hb, (event_running hr).trans (congrArg _ (State.ejectCompletes_failed hb hph)), Or.inl rfl⟩
  · exact Or.inr ⟨op, hb, (event_running hr).trans (congrArg _ (State.trayDropConfirms_failed hb hph)), Or.inr rfl⟩

end HeadFault

/-- Settles O48: each fault of the head stops it and is taken by the state of the station. -/
theorem headFaultStopsTheHead : Obligations.HeadFaultStopsTheHead := by
  intro c cause s hr h
  rcases exec_headFault hr h with ⟨he, hne, hnt⟩ | ⟨op, hb, he, hc⟩
  · obtain ⟨hst, htw, htaken⟩ := s.headFault_spec cause
    refine ⟨_, he, hst, htw, s.headFault_keeps cause, htaken, fun _ _ => by simp, fun op _ hc => ?_⟩
    rcases hc with hc | hc
    · exact absurd hc hne
    · exact absurd hc hnt
  · obtain ⟨hst, htw, htaken⟩ := (s.readOccupied op.pocket true).headFault_spec cause
    refine ⟨_, he, hst, htw, (s.readOccupied op.pocket true).headFault_keeps cause, htaken, fun hne hnt => ?_,
      fun op' hb' _ => ?_⟩
    · rcases hc with hc | hc
      · exact absurd hc hne
      · exact absurd hc hnt
    · obtain rfl := HeadState.busy.inj (hb.symm.trans hb')
      simp [State.readOccupied]

/-! ### The pocket jam lines (R139, R140) -/

/-- A held fault stops the head at its first cause alone (R140). -/
theorem State.takeFault_held {s : State} (c : HaltCause) (h : s.ctl.station = .loading ∨ s.ctl.station = .joining) :
    (s.takeFault c).head =
      match s.ctl.heldCause with
      | none => { s.head with state := .stopped, testWaiting := false }
      | some _ => s.head := by
  have hheld : s.takeFault c = s.holdFault c := by
    rcases h with e | e <;> simp only [State.takeFault, e]
  rw [hheld]
  unfold State.holdFault
  cases s.ctl.heldCause <;> rfl

/-- A stopped station's head stands (R139). -/
theorem State.takeFault_stopped {s : State} (c : HaltCause)
    (h : s.ctl.station = .halting ∨ s.ctl.station = .halted ∨ s.ctl.station = .safe ∨ s.ctl.station = .configFault) :
    (s.takeFault c).head = s.head := by
  rcases h with e | e | e | e <;> simp only [State.takeFault, e, State.count_frame]

/-- Settles O52: the passage of the line from clear to active at a part that takes events is a fault, and nothing else is. -/
theorem pocketJamIsTakenAtItsPassage : Obligations.PocketJamIsTakenAtItsPassage := by
  refine fun p s => ⟨⟨s.pocketJams p, rfl, ?_⟩, rfl⟩
  by_cases h : s.running = true ∧ s.part.jamLines.get p = false
  · have heq : s.pocketJams p = (s.jamLine p true).takeFault .pocketJam := if_pos h
    rw [heq]
    refine ⟨by simp [State.jamLine], (s.jamLine p true).takeFault_keeps _, fun _ _ =>
      ⟨(s.jamLine p true).takeFault_spec _, State.takeFault_held (s := s.jamLine p true) _,
        State.takeFault_stopped (s := s.jamLine p true) _⟩, fun hn => ?_⟩
    rcases hn with hn | hn
    · exact absurd (h.1.symm.trans hn) nofun
    · exact absurd (h.2.symm.trans hn) nofun
  · have heq : s.pocketJams p = s.jamLine p true := if_neg h
    rw [heq]
    exact ⟨rfl, ⟨rfl, rfl, rfl, rfl, rfl, rfl, rfl, rfl⟩, fun hr hl => absurd ⟨hr, hl⟩ h, fun _ => rfl⟩

end Sys2Proof.Machine

namespace Sys2Proof.Machine

open Sys2Proof.Config

/-! ### Serving and what a re-scan reads (R22, R90) -/

/-- A grant leaves the FREE and the bound pockets as they are. -/
theorem State.serve_sameForBids {s : State} (h : ∀ x ∈ s.head.queue, (s.pockets.get x.pocket).state = .waiting x.job) :
    SameForBids s s.serve := by
  refine ⟨by simp, by simp, by simp, by simp, by simp, by simp, by simp, by simp, fun q => ?_, fun q => ?_⟩
  · rcases State.serve_pockets h q with e | ⟨j, hj, e⟩ <;> rw [e]
    simp [hj]
  · rcases State.serve_pockets h q with e | ⟨j, hj, e⟩ <;> rw [e]
    simp [Pocket.isBound, hj]

/-- Serving starts no self-test where none is waiting (R116). -/
theorem State.serve_testing {s : State} (h : s.testing = false) : s.serve.testing = false := by
  rcases s.serve_cases with e | ⟨-, ht, -⟩ | ⟨g, -, -, -, -, -, e⟩
  · rw [e]
    exact h
  · simp [State.testing, ht] at h
  · have ht : (s.grant g).head.testWaiting = s.head.testWaiting := rfl
    obtain ⟨op, hb, -⟩ := s.grant_busy g
    simp only [State.testing, Bool.or_eq_false_iff] at h
    rw [e, State.testing, hb, ht, h.1]
    rfl

/-- Serving a head whose queue and pockets stand as in `s` (R77, R90, R91). -/
theorem QueueHoldsWaiting.serve_others {s u : State} (h : QueueHoldsWaiting s) (hq : u.head.queue = s.head.queue)
    (hp : u.pockets = s.pockets) : OthersServed (fun _ => False) s u.serve :=
  State.serve_others (by rw [hq, hp]; exact h.2.1) (fun q _ => by rw [hp])
    (fun y hy _ => ⟨y, by rwa [hq], rfl⟩) fun x hx => Or.inr ⟨x, hq ▸ hx, rfl⟩

/-! ### The self-test (R117, R118) -/

theorem Judgement.worse_outcome (l m f : Judgement) :
    ((l.worse m).worse f).outcome =
      if l = .fail ∨ m = .fail ∨ f = .fail then .fail
      else if l = .marginal ∨ m = .marginal ∨ f = .marginal then .marginal
      else .pass := by
  cases l <;> cases m <;> cases f <;> rfl

theorem judgeBand_pass {a b c d v : Nat} : judgeBand a b c d v = .pass ↔ a ≤ v ∧ v ≤ b := by
  unfold judgeBand
  split
  · next h => simp [h]
  · next h => split <;> simp [h]

theorem judgeBand_fail {a b c d v : Nat} (h : c ≤ a ∧ b ≤ d) : judgeBand a b c d v = .fail ↔ v < c ∨ d < v := by
  unfold judgeBand
  split
  · simp only [reduceCtorEq, false_iff]
    omega
  · split
    · simp only [reduceCtorEq, false_iff]
      omega
    · simp only [true_iff]
      omega

/-- The head once the last level has ended, before the re-scan (R118). -/
def State.tested (l m f : Judgement) (s : State) : State :=
  s.onHead fun h => { h with state := .idle, readings := { h.readings with outcome := ((l.worse m).worse f).outcome } }

theorem State.endTest_eq (l m f : Judgement) (s : State) : s.endTest l m f = (s.tested l m f).rescan.serve := rfl

/-- The end of a self-test on a state that differs from `s` in its readings alone (R118). -/
theorem State.endTest_spec {s u : State} (l m f : Judgement) {readings : HeadReadings}
    (hu : u = { s with head := { s.head with readings := readings } }) (ht : s.head.testWaiting = false) :
    (QueueHoldsWaiting s →
        Rescanned s.packs.bids s.link (u.endTest l m f) ∧ OthersServed (fun _ => False) s (u.endTest l m f)) ∧
      (u.endTest l m f).testing = false ∧ (u.endTest l m f).head.state ≠ .stopped ∧ IdleHeadServed (u.endTest l m f) ∧
      (u.endTest l m f).config = s.config ∧ (u.endTest l m f).head.arrivals = s.head.arrivals ∧
      (u.endTest l m f).ctl = s.ctl ∧ (u.endTest l m f).packs.entries = s.packs.entries ∧
      (u.endTest l m f).head.staples = s.head.staples ∧ (u.endTest l m f).rack = s.rack ∧
      (u.endTest l m f).store = s.store ∧ (u.endTest l m f).part = s.part ∧
      (u.endTest l m f).head.readings = { readings with outcome := ((l.worse m).worse f).outcome } := by
  subst hu
  rw [State.endTest_eq]
  generalize hv : State.tested l m f { s with head := { s.head with readings := readings } } = v
  have hhead : v.head =
      { s.head with state := .idle, readings := { readings with outcome := ((l.worse m).worse f).outcome } } := by
    rw [← hv]
    rfl
  have hpockets : v.pockets = s.pockets := by rw [← hv]; rfl
  have hwaits : QueueHoldsWaiting s →
      ∀ x ∈ v.rescan.head.queue, (v.rescan.pockets.get x.pocket).state = .waiting x.job := fun hw => by
    simpa [hhead, hpockets] using hw.2.1
  have hscan : Rescanned s.packs.bids s.link v.rescan := by
    rw [← hv]
    exact State.rescan_rescanned _
  refine ⟨fun hw => ⟨Rescanned.transfer (State.serve_sameForBids (hwaits hw)) hscan,
      hw.serve_others (by simp [hhead]) (by simp [hpockets])⟩,
    State.serve_testing (by simp [State.testing, hhead, ht]), State.serve_not_stopped (by simp [hhead]),
    State.serve_served _, ?_, ?_, ?_, ?_, ?_, ?_, ?_, ?_, ?_⟩
  · simp [← hv, State.tested]
  · simp [State.serve_arrivals, hhead]
  · simp [← hv, State.tested]
  · simp [← hv, State.tested]
  · simp [hhead]
  · simp [← hv, State.tested]
  · simp [← hv, State.tested]
  · simp [← hv, State.tested]
  · simp [hhead]

section Levels

variable {s : State} {level : TestLevel} {limit : Nat} (hr : s.running = true) (h : s.head.state = .testing level limit)
include hr h

theorem exec_referenceReading (v : SenseReading) :
    exec (.referenceReading v) s = .next ((s.writeReference level v).levelEnds level (level.judge v)) := by
  refine (event_running hr).trans (congrArg _ ?_)
  simp only [State.referenceRead, h]

theorem exec_readingLimitExpiry : exec .readingLimitExpiry s = .next (s.levelEnds level .fail) := by
  refine (event_running hr).trans (congrArg _ ?_)
  simp only [State.readingExpires, h]

end Levels

/-- Settles O50: by the level awaited, and at FIRM by the reading or the expiry that ends it. -/
theorem selfTestJudgesItsLevels : Obligations.SelfTestJudgesItsLevels := by
  refine ⟨fun v => ⟨judgeBand_pass, judgeBand_fail (by omega), judgeBand_pass, judgeBand_fail (by omega), judgeBand_pass,
      judgeBand_fail (by omega)⟩,
    fun v limit s hr h => ⟨exec_referenceReading hr h v, exec_readingLimitExpiry hr h⟩,
    fun v l limit s hr h => ⟨exec_referenceReading hr h v, exec_readingLimitExpiry hr h⟩,
    fun v l m f limit c s hr h ht hc => ?_⟩
  rw [← Judgement.worse_outcome]
  rcases hc with ⟨rfl, rfl⟩ | ⟨rfl, rfl⟩
  · refine ⟨_, exec_referenceReading hr h v, ?_⟩
    rw [if_neg nofun]
    exact State.endTest_spec l m _ (u := s.writeReference (.firm l m) v) rfl ht
  · refine ⟨_, exec_readingLimitExpiry hr h, ?_⟩
    rw [if_pos rfl]
    exact State.endTest_spec l m _ rfl ht

end Sys2Proof.Machine

namespace Sys2Proof.Machine

open Sys2Proof.Config

/-! ### What a supply or an emptying brings about (R87, R110, R133, R135) -/

/-- The blocked reasons have been evaluated again and an IDLE head has been served, and the queue is otherwise as it was
(R87, R90). -/
structure Reviewed (s t : State) : Prop where
  others : QueueHoldsWaiting s → OthersServed (fun _ => False) s t
  served : IdleHeadServed t
  fresh : BlocksFresh s t
  frozen : s.ctl.station.freezes = true → t.head.queue = s.head.queue
  arrivals : t.head.arrivals = s.head.arrivals

section Reviewed

variable {s t u : State}

/-- Where the queue is frozen, serving leaves it as it is (R87, R90). -/
theorem State.serve_frozen (h : s.ctl.station.freezes = true) : s.serve.head.queue = s.head.queue := by
  rcases s.serve_cases with e | ⟨-, -, e⟩ | ⟨g, -, -, -, -, hsel, -⟩
  · rw [e]
  · rw [e]
    rfl
  · revert h hsel
    cases s.ctl.station <;> simp [StationState.freezes, StationState.selects]

/-- A change outside the queue, the pockets and the station state, followed by a review. -/
theorem State.reevaluateAndServe_reviewed (hh : u.head.queue = s.head.queue ∧ u.head.arrivals = s.head.arrivals)
    (hp : u.pockets = s.pockets) (hc : u.ctl.station = s.ctl.station) : Reviewed s u.reevaluateAndServe := by
  obtain ⟨hq, ha⟩ := hh
  refine ⟨fun hw => State.serve_others (fun x hx => ?_) (fun q _ => by simp [hp]) (fun y hy _ => ?_) fun x hx => Or.inr ?_,
    State.serve_served _, ?_, fun hf => ?_, ?_⟩
  · obtain ⟨y, hy, hxy⟩ := State.mem_reevaluate hx
    rw [hxy]
    simpa [hp] using hw.2.1 y (hq ▸ hy)
  · exact State.reevaluate_mem (hq ▸ hy)
  · obtain ⟨y, hy, hxy⟩ := State.mem_reevaluate hx
    exact ⟨y, hq ▸ hy, hxy⟩
  · have hfresh : BlocksFresh u u.reevaluateAndServe := (State.reevaluate_fresh u).serve
    unfold BlocksFresh at hfresh ⊢
    rwa [hc] at hfresh
  · have hfu : u.ctl.station.freezes = true := by rw [hc]; exact hf
    rw [State.reevaluateAndServe, State.serve_frozen (by simpa using hfu)]
    simp [State.reevaluate, hfu, hq]
  · rw [State.reevaluateAndServe, State.serve_arrivals]
    simpa using ha

theorem Reviewed.rescan (h : Reviewed s t) : Reviewed s t.rescan := by
  have hpockets : t.rescan.pockets = t.pockets := by simp
  have hhead : t.rescan.head = t.head := by simp
  refine ⟨fun hw => ?_, ?_, fun hf x hx => ?_, fun hf => ?_, ?_⟩
  · have := h.others hw
    unfold OthersServed at this ⊢
    rwa [hpockets, hhead]
  · have := h.served
    unfold IdleHeadServed at this ⊢
    rwa [hhead, show t.rescan.ctl = t.ctl by simp]
  · rw [hhead] at hx
    exact (h.fresh hf x hx).congr (by simp) (State.undriven_congr (by simp) (by simp))
      (State.targetBin_congr (by simp) (by simp)) (by simp) (by simp) (by simp)
  · rw [hhead]
    exact h.frozen hf
  · rw [hhead]
    exact h.arrivals

/-- A re-scan that starts on the bids and the queue of `s`. -/
theorem State.rescanned_of (hb : t.packs.bids = s.packs.bids) (hl : t.link = s.link) :
    Rescanned s.packs.bids s.link t.rescan := by
  have h := t.rescan_rescanned
  rwa [hb, hl] at h

end Reviewed

theorem StationState.freezes_iff {st : StationState} : st.freezes = true ↔ st = .halting ∨ st = .safe := by
  cases st <;> simp [StationState.freezes]

section Senses

variable {s : State} {c : StationConfig}

theorem State.senseRaised_taken (hold : HeldEvents → HeldEvents) (take : StationConfig → State → State)
    (h : s.config = some c) : s.senseRaised hold take = take c s := by
  simp only [State.senseRaised, h]

theorem State.senseRaised_held (hold : HeldEvents → HeldEvents) (take : StationConfig → State → State)
    (h : s.config = none) :
    s.senseRaised hold take =
      if s.ctl.station = .loading then s.onPart fun k => { k with held := hold k.held } else s := by
  unfold State.senseRaised
  rw [h]
  cases s.ctl.station <;> rfl

/-- A full cartridge in the budget and in the retained store (R110). -/
def State.refilled (c : StationConfig) (s : State) : State :=
  (s.onStaples fun b => { b with remaining := c.cartridgeSize, state := .ready }).writeStore

theorem State.refill_eq (c : StationConfig) (s : State) : s.refill c = (s.refilled c).reevaluateAndServe.rescan := rfl

theorem State.refill_reviewed (c : StationConfig) (s : State) : Reviewed s (s.refill c) :=
  (State.reevaluateAndServe_reviewed (u := s.refilled c) ⟨by simp [State.refilled], by simp [State.refilled, State.onStaples]⟩
    (by simp [State.refilled]) (by simp [State.refilled])).rescan

theorem State.refill_written (c : StationConfig) (s : State) : StoreWritten s (s.refill c) :=
  (State.writeStore_written (s.onStaples fun b => { b with remaining := c.cartridgeSize, state := .ready })).transfer rfl rfl
    (by simp [State.refill]) (by simp [State.refill]) (by simp [State.refill])

theorem State.refill_rescanned (c : StationConfig) (s : State) : Rescanned s.packs.bids s.link (s.refill c) :=
  State.rescanned_of (t := (s.refilled c).reevaluateAndServe) (by simp [State.refilled]) (by simp [State.refilled])

/-- The record of an emptied bin, in the retained store too, and the cursor (R133, R178). -/
def State.binCleared (n : Nat) (s : State) : State :=
  ((s.onBin n fun b => { b with fillPacks := 0, fillSheets := 0, roster := [] }).writeStore).forgetCursor n

theorem State.binCleared_ctl (n : Nat) (s : State) :
    (s.binCleared n).ctl =
      { s.ctl with
        rosterCursor :=
          match s.ctl.rosterCursor with
          | none => none
          | some (b, k) => if b = n then none else some (b, k) } := by
  have hctl : ((s.onBin n fun b => { b with fillPacks := 0, fillSheets := 0, roster := [] }).writeStore).ctl = s.ctl := by simp
  unfold State.binCleared State.forgetCursor
  rewrite [State.onCtl_ctl, hctl]
  rfl

section Bin

variable {n : Nat} {r : Bin} (h : s.bin n = some r)
include h

theorem State.emptyBin_eq : s.emptyBin n = (s.binCleared n).reevaluateAndServe.rescan := by
  simp only [State.emptyBin, h, State.binCleared]

theorem State.emptyBin_reviewed : Reviewed s (s.emptyBin n) := by
  rw [State.emptyBin_eq h]
  exact (State.reevaluateAndServe_reviewed (u := s.binCleared n)
    ⟨by simp [State.binCleared, State.forgetCursor], by simp [State.binCleared, State.forgetCursor]⟩
    (by simp [State.binCleared, State.forgetCursor]) (by simp [State.binCleared, State.forgetCursor])).rescan

theorem State.emptyBin_rack :
    (s.emptyBin n).rack = (s.onBin n fun b => { b with fillPacks := 0, fillSheets := 0, roster := [] }).rack := by
  rw [State.emptyBin_eq h]
  simp [State.binCleared, State.forgetCursor]

theorem State.emptyBin_bin (k : Nat) :
    (s.emptyBin n).bin k =
      if k = n then (s.bin k).map fun b => { b with fillPacks := 0, fillSheets := 0, roster := [] } else s.bin k :=
  (State.bin_congr (congrArg Rack.bins (State.emptyBin_rack h)) k).trans (State.bin_onBin _ _ _ _)

theorem State.emptyBin_written : StoreWritten s (s.emptyBin n) := by
  rw [State.emptyBin_eq h]
  exact (State.writeStore_written (s.onBin n fun b => { b with fillPacks := 0, fillSheets := 0, roster := [] })).transfer
    (by simp) (by simp) (by simp [State.binCleared, State.forgetCursor]) (by simp [State.binCleared, State.forgetCursor])
    (by simp [State.binCleared, State.forgetCursor])

theorem State.emptyBin_rescanned : Rescanned s.packs.bids s.link (s.emptyBin n) := by
  rw [State.emptyBin_eq h]
  exact State.rescanned_of (by simp [State.binCleared, State.forgetCursor]) (by simp [State.binCleared, State.forgetCursor])

/-- What an emptied bin leaves beside the queue, the head and the bids. -/
theorem State.emptyBin_frame :
    (s.emptyBin n).rack.tray = s.rack.tray ∧ (s.emptyBin n).config = s.config ∧
      (s.emptyBin n).head.readings = s.head.readings ∧ (s.emptyBin n).head.staples = s.head.staples ∧
      (s.emptyBin n).packs.entries = s.packs.entries ∧ (s.emptyBin n).part = s.part ∧
      (s.emptyBin n).ctl =
        { s.ctl with
          rosterCursor :=
            match s.ctl.rosterCursor with
            | none => none
            | some (b, k) => if b = n then none else some (b, k) } := by
  rw [State.emptyBin_eq h]
  refine ⟨?_, ?_, ?_, ?_, ?_, ?_, ?_⟩
  case refine_7 =>
    rw [← State.binCleared_ctl]
    simp
  all_goals simp [State.binCleared, State.forgetCursor]

end Bin

theorem State.emptyTray_reviewed (s : State) : Reviewed s s.emptyTray :=
  State.reevaluateAndServe_reviewed (u := (s.onRack fun r => { r with tray := 0 }).writeStore) (by simp) (by simp) (by simp)

theorem State.emptyTray_written (s : State) : StoreWritten s s.emptyTray :=
  (State.writeStore_written (s.onRack fun r => { r with tray := 0 })).transfer rfl rfl (by simp [State.emptyTray])
    (by simp [State.emptyTray]) (by simp [State.emptyTray])

end Senses

theorem exec_cartridgeInserted {s : State} (h : s.running = true) :
    exec .cartridgeInserted s =
      .next (s.cartridgeShows.senseRaised (fun k => { k with cartridge := true }) State.refill) :=
  event_running (f := fun u => u.cartridgeShows.senseRaised (fun k => { k with cartridge := true }) State.refill) h

/-- Settles O51: with a configuration each sense writes its values, the blocks are reviewed, and a cartridge and a bin start a
re-scan; without one the event is held in LOADING alone. -/
theorem suppliesAndEmptyingsAreTaken : Obligations.SuppliesAndEmptyingsAreTaken := by
  refine ⟨fun st => StationState.freezes_iff, fun c s hr hc => ⟨?_, fun n r hn => ?_, fun n hn => ?_, ?_⟩,
    fun n s hr hc => ?_⟩
  · have hexec : exec .cartridgeInserted s = .next (s.cartridgeShows.refill c) :=
      (exec_cartridgeInserted hr).trans (congrArg _ (State.senseRaised_taken (s := s.cartridgeShows) _ _ hc))
    obtain ⟨hothers, hserved, hfresh, hfrozen, harrivals⟩ := s.cartridgeShows.refill_reviewed c
    exact ⟨_, hexec, by simp [State.refill, State.cartridgeShows], s.cartridgeShows.refill_written c,
      by simp [State.refill, State.cartridgeShows], harrivals, hothers, hserved, by simp [State.refill, State.cartridgeShows],
      by simp [State.refill, State.cartridgeShows], by simp [State.refill, State.cartridgeShows],
      by simp [State.refill, State.cartridgeShows], by simp [State.refill, State.cartridgeShows], hfresh,
      s.cartridgeShows.refill_rescanned c, hfrozen⟩
  · have hexec : exec (.binEmptied n) s = .next (s.emptyBin n) :=
      (event_running hr).trans (congrArg _ (State.senseRaised_taken _ _ hc))
    obtain ⟨hothers, hserved, hfresh, hfrozen, harrivals⟩ := State.emptyBin_reviewed hn
    obtain ⟨htray, hconfig, hreadings, hstaples, hentries, hpart, hctl⟩ := State.emptyBin_frame hn
    refine ⟨_, hexec, ?_, fun k hk => ?_, htray, State.emptyBin_written hn, hconfig, harrivals, hothers, hserved, hreadings,
      hstaples, hentries, hpart, hfresh, State.emptyBin_rescanned hn, hfrozen, hctl⟩
    · rw [State.emptyBin_bin hn, if_pos rfl, hn]
      rfl
    · rw [State.emptyBin_bin hn, if_neg hk]
  · refine (event_running hr).trans (congrArg _ ((State.senseRaised_taken _ _ hc).trans ?_))
    simp only [State.emptyBin, hn]
  · have hexec : exec .trayEmptied s = .next s.emptyTray :=
      (event_running hr).trans (congrArg _ (State.senseRaised_taken _ _ hc))
    obtain ⟨hothers, hserved, hfresh, hfrozen, harrivals⟩ := s.emptyTray_reviewed
    exact ⟨_, hexec, by simp [State.emptyTray], s.emptyTray_written, by simp [State.emptyTray], harrivals, hothers, hserved,
      by simp [State.emptyTray], by simp [State.emptyTray], by simp [State.emptyTray], by simp [State.emptyTray],
      by simp [State.emptyTray], by simp [State.emptyTray], hfresh, hfrozen⟩
  · have hcartridge : exec .cartridgeInserted s = _ :=
      (exec_cartridgeInserted hr).trans (congrArg _ (State.senseRaised_held (s := s.cartridgeShows) _ _ hc))
    have hbin : exec (.binEmptied n) s = _ := (event_running hr).trans (congrArg _ (State.senseRaised_held _ _ hc))
    have htray : exec .trayEmptied s = _ := (event_running hr).trans (congrArg _ (State.senseRaised_held _ _ hc))
    rw [hcartridge, hbin, htray]
    by_cases hs : s.ctl.station = .loading
    · have hshows : s.cartridgeShows.ctl.station = .loading := hs
      simp only [if_pos hs, if_pos hshows]
      exact ⟨rfl, rfl, rfl⟩
    · have hshows : ¬ s.cartridgeShows.ctl.station = .loading := hs
      simp only [if_neg hs, if_neg hshows]
      exact ⟨rfl, trivial, trivial⟩

end Sys2Proof.Machine

namespace Sys2Proof.Machine

open Sys2Proof.Config

/-! ### The arbitration field (R165) -/

/-- A field by its places from `n` upward and its place below. -/
theorem Arbitration.toNat_place (f : Arbitration) (n : Nat) :
    f.toNat / 2 ^ n = 2 * (f.toNat / 2 ^ (n + 1)) + (f.getLsbD n).toNat := by
  have hbit : (f.getLsbD n).toNat = f.toNat / 2 ^ n % 2 := by
    rw [BitVec.getLsbD, Nat.toNat_testBit]
  rw [hbit, pow_succ, ← Nat.div_div_eq_div_mul]
  omega

/-- Contenders that agree with the station in the places above are carried through the rest when none has a lower field. -/
theorem carried_iff (own : Arbitration) (n : Nat) : ∀ others : List Arbitration,
    (∀ f ∈ others, f.toNat / 2 ^ n = own.toNat / 2 ^ n) →
    (carried own n others = true ↔ ∀ f ∈ others, own.toNat ≤ f.toNat) := by
  induction n with
  | zero =>
    intro others h
    simp only [carried, true_iff]
    intro f hf
    simpa using (h f hf).ge
  | succ n ih =>
    intro others h
    have hplace := Arbitration.toNat_place own n
    cases hbit : own.getLsbD n with
    | false =>
      have hlevel : linkPlace n (own :: others) = false := by simp [linkPlace, hbit]
      have hstill : ∀ f ∈ stillIn n false others, f.toNat / 2 ^ n = own.toNat / 2 ^ n := by
        intro f hf
        obtain ⟨hm, hb⟩ := List.mem_filter.1 hf
        rw [Arbitration.toNat_place, h f hm, hplace, hbit, beq_iff_eq.1 hb]
      have hout : ∀ f ∈ others, f.getLsbD n = true → own.toNat ≤ f.toNat := by
        intro f hm hb
        have hf := Arbitration.toNat_place f n
        rw [h f hm, hb] at hf
        rw [hbit] at hplace
        exact (Nat.lt_of_div_lt_div (c := 2 ^ n) (by simp at hf hplace; omega)).le
      simp only [carried, hlevel, hbit, if_true]
      rw [ih _ hstill]
      refine ⟨fun hall f hm => ?_, fun hall f hf => hall f (List.mem_filter.1 hf).1⟩
      cases hb : f.getLsbD n with
      | false => exact hall f (List.mem_filter.2 ⟨hm, by simp [hb]⟩)
      | true => exact hout f hm hb
    | true =>
      by_cases hones : ∀ f ∈ others, f.getLsbD n = true
      · have hlevel : linkPlace n (own :: others) = true := by simpa [linkPlace, hbit] using hones
        have hstill : stillIn n true others = others := List.filter_eq_self.2 fun f hf => by simp [hones f hf]
        simp only [carried, hlevel, hbit, if_true, hstill]
        exact ih others fun f hm => by rw [Arbitration.toNat_place, h f hm, hplace, hbit, hones f hm]
      · have hlevel : linkPlace n (own :: others) = false := by simpa [linkPlace, hbit] using hones
        obtain ⟨f, hm, hb⟩ : ∃ f ∈ others, f.getLsbD n = false := by simpa using hones
        have hf := Arbitration.toNat_place f n
        rw [h f hm, hb] at hf
        rw [hbit] at hplace
        have hlow : f.toNat < own.toNat := Nat.lt_of_div_lt_div (c := 2 ^ n) (by simp at hf hplace; omega)
        simp only [carried, hlevel, hbit, Bool.true_eq_false, if_false, Bool.false_eq_true, false_iff]
        exact fun hall => absurd (hall f hm) (Nat.not_le.2 hlow)

/-- A frame is carried through when no other contender's field is lower than its own. -/
theorem winsArbitration_iff (own : Arbitration) (others : List Arbitration) :
    winsArbitration own others = true ↔ ∀ f ∈ others, own.toNat ≤ f.toNat :=
  carried_iff own 9 others fun f _ => by
    rw [Nat.div_eq_of_lt f.isLt, Nat.div_eq_of_lt own.isLt]

theorem TxFrame.precedence_le (f : TxFrame) : f.precedence ≤ 10 := by
  unfold TxFrame.precedence
  cases f.kind <;> decide

theorem arbitrationField_toNat {s : State} (h : s.unitActive = true) (f : TxFrame) :
    (arbitrationField f.precedence s.address).toNat = 32 * f.precedence + s.address := by
  have hprec := f.precedence_le
  have haddr := State.address_of_unitActive h
  rw [arbitrationField, BitVec.toNat_ofNat]
  omega

/-! ### Attempts (R165) -/

section Attempts

variable {s : State} {e : TxEntry}

theorem State.startAttempt_attempt {rest : List TxEntry} (hq : s.link.queue = e :: rest) (hno : s.attempt = none) :
    s.startAttempt.attempt = some { e with attempting := true } := by
  simp [State.startAttempt_head hq hno, State.attempt]

/-- The end of an attempt that the head of the queue has just started is the end of an attempt of that frame. -/
theorem AttemptEnded.of_started {t : State} {rest : List TxEntry} (hq : s.link.queue = e :: rest) (hno : s.attempt = none)
    (h : AttemptEnded { e with attempting := true } s.startAttempt t) : AttemptEnded e s t := by
  rw [State.startAttempt_head hq hno] at h
  unfold AttemptEnded at h ⊢
  dsimp only at h
  cases hm : e.mark with
  | none =>
    rw [hm] at h
    dsimp only at h ⊢
    rw [h, hq]
    simp
  | remove =>
    rw [hm] at h
    dsimp only at h ⊢
    intro id fit load hf
    obtain ⟨ht, hdrain⟩ := h id fit load hf
    refine ⟨?_, hdrain⟩
    rw [ht, hq]
    simp
  | replace =>
    rw [hm] at h
    dsimp only at h ⊢
    intro a ha hs
    obtain ⟨ht, hhead, c, hshows, hlink, hmem⟩ := h a ha hs
    refine ⟨ht, hhead, c, hshows, hlink, fun x => (hmem x).trans (or_congr_right ?_)⟩
    dsimp only
    rw [hq]
    simp only [List.mem_cons]
    constructor
    · rintro ⟨rfl | hx, hn⟩
      · exact absurd rfl hn
      · exact ⟨Or.inr hx, hn⟩
    · rintro ⟨rfl | hx, hn⟩
      · exact absurd rfl hn
      · exact ⟨Or.inr hx, hn⟩

/-- At most one frame is under attempt. -/
theorem LinkSound.attempting_eq {l : BayLink} (h : LinkSound l) {x y : TxEntry} (hx : x ∈ l.queue) (hy : y ∈ l.queue)
    (hxa : x.attempting = true) (hya : y.attempting = true) : x = y := by
  have hone := h.attempts
  rw [List.countP_eq_length_filter] at hone
  have hxf := List.mem_filter.2 ⟨hx, hxa⟩
  have hyf := List.mem_filter.2 ⟨hy, hya⟩
  obtain ⟨a, ha⟩ := List.length_eq_one_iff.1 (le_antisymm hone (List.length_pos_of_mem hxf))
  rw [ha] at hxf hyf
  rw [List.mem_singleton.1 hxf, List.mem_singleton.1 hyf]

theorem State.append_attempting {f : TxFrame} (h : ∀ x ∈ s.link.queue, x.attempting = false) :
    ∀ x ∈ (s.append f).link.queue, x.attempting = false := by
  intro x hx
  unfold State.append at hx
  split at hx
  · exact h x hx
  · rcases mem_insertFrame.1 hx with rfl | hx
    · rfl
    · exact h x hx

theorem State.appendReport_attempting (a : Ask) (h : ∀ x ∈ s.link.queue, x.attempting = false) :
    ∀ x ∈ (s.appendReport a).link.queue, x.attempting = false := by
  have hlink : (s.appendReport a).link = (s.append (.report a (s.reportContent a))).link := by cases a <;> rfl
  rw [hlink]
  exact State.append_attempting h

/-- The end of an attempt leaves none in progress. -/
theorem State.endAttempt_attempt (h : LinkSound s.link) : s.endAttempt.attempt = none := by
  rw [State.attempt_eq_none]
  unfold State.endAttempt
  split
  · next hno => exact State.attempt_eq_none.1 hno
  · next e he =>
    obtain ⟨hmem, hatt⟩ := attempt_mem he
    have hover : ∀ x ∈ s.link.queue.map fun x => if x.number = e.number then { x with attempting := false, mark := .none } else x,
        x.attempting = false := by
      intro x hx
      obtain ⟨y, hy, rfl⟩ := List.mem_map.1 hx
      split
      · rfl
      · next hne =>
        refine Bool.eq_false_iff.2 fun hya => hne ?_
        rw [h.attempting_eq hy hmem hya hatt]
    have hdrop : ∀ (n : Nat) (x : TxEntry), x ∈ (s.link.queue.map fun x => if x.number = e.number then
        { x with attempting := false, mark := .none } else x).filter (fun x => decide (x.number ≠ n)) →
        x.attempting = false := fun n x hx => hover x (List.mem_filter.1 hx).1
    dsimp only
    split
    · exact hover
    · unfold State.reportRemoval
      split
      · rw [(State.releaseBid_frame _ _).2.2.2.1]
        exact hdrop e.number
      · exact hdrop e.number
    · split
      · exact hdrop e.number
      · exact State.appendReport_attempting _ (hdrop e.number)

theorem State.endAttempt_idle (h : s.attempt = none) : s.endAttempt = s := by
  simp only [State.endAttempt, h]

theorem State.endAttempt_station : s.endAttempt.ctl.station = s.ctl.station ∨
    s.ctl.station = .drain ∧ s.endAttempt.ctl.station = .standby := s.endAttempt_eased.station

theorem State.endAttempt_station_iff {st : StationState} (hd : st ≠ .drain) (hs : st ≠ .standby) :
    s.endAttempt.ctl.station = st ↔ s.ctl.station = st := by
  rcases s.endAttempt_station with h | ⟨hdrain, hstandby⟩
  · rw [h]
  · rw [hdrain, hstandby]
    exact ⟨fun h => absurd h.symm hs, fun h => absurd h.symm hd⟩

end Attempts

/-! ### A contention (R165) -/

section Contends

variable {s : State} {e : TxEntry}

theorem State.unitActive_congr {t : State} (h : t.part = s.part) : t.unitActive = s.unitActive := by
  cases s
  cases t
  cases h
  rfl

theorem State.contends_active (m : ContentionMoment) (hu : s.unitActive = true) (hs : s.ctl.station ≠ .safe) :
    s.contends m =
      match m with
      | .whole others => s.enterContention.arbitrate others
      | .begins => s.enterContention
      | .arbitrates others => s.arbitrate others
      | .differs => s.endAttempt := by
  unfold State.contends
  exact if_pos ⟨hu, hs⟩

theorem exec_contention (m : ContentionMoment) (hu : s.unitActive = true) :
    exec (.contention m) s = .next (s.contends m) := event_running (State.running_of_unitActive hu)

theorem State.enterContention_idle (h : s.attempt = none) : s.enterContention = s.startAttempt := by
  rw [State.enterContention, State.endAttempt_idle h]

/-- The frame under attempt goes on when no other field is lower than its own; else its attempt ends as a loss. -/
theorem State.arbitrate_eq (others : List Arbitration) (hu : s.unitActive = true) (he : s.attempt = some e) :
    s.arbitrate others =
      if ∀ f ∈ others, 32 * e.frame.precedence + s.address ≤ f.toNat then s else s.endAttempt := by
  have hwins : winsArbitration (arbitrationField e.frame.precedence s.address) others = true ↔
      ∀ f ∈ others, 32 * e.frame.precedence + s.address ≤ f.toNat := by
    rw [winsArbitration_iff, arbitrationField_toNat hu]
  simp only [State.arbitrate, he, hwins]

/-- With nothing to send a contention changes nothing (R165, R172). -/
theorem State.contends_nothing (m : ContentionMoment)
    (h : s.unitActive = false ∨ s.ctl.station = .safe ∨ s.link.queue = []) : s.contends m = s := by
  by_cases hact : s.unitActive = true ∧ s.ctl.station ≠ .safe
  · have hq : s.link.queue = [] := by
      rcases h with h | h | h
      · exact absurd (hact.1.symm.trans h) nofun
      · exact absurd h hact.2
      · exact h
    have hno : s.attempt = none := State.attempt_eq_none.2 (by simp [hq])
    have henter : s.enterContention = s := by rw [State.enterContention_idle hno, State.startAttempt_nil hq]
    have harb : ∀ others, s.arbitrate others = s := fun others => by simp only [State.arbitrate, hno]
    rw [State.contends_active m hact.1 hact.2]
    cases m with
    | whole others => exact henter.symm ▸ harb others
    | begins => exact henter
    | arbitrates others => exact harb others
    | differs => exact State.endAttempt_idle hno
  · simp only [State.contends, if_neg hact]

end Contends

/-- Settles O12: with no attempt in progress the head of the queue takes part; with one, that attempt goes on or ends; with nothing to
send nothing happens. -/
theorem contentionTakesTheQueueHead : Obligations.ContentionTakesTheQueueHead := by
  refine ⟨fun others e rest s begun hu hs hq hno hb => ?_, fun others e s hu hs he => ?_, fun m s hr h =>
    (event_running hr).trans (congrArg _ (State.contends_nothing m h))⟩
  · have hstart : s.startAttempt = begun := by rw [State.startAttempt_head hq hno, hb]
    have hatt : begun.attempt = some { e with attempting := true } := hstart ▸ State.startAttempt_attempt hq hno
    have hub : begun.unitActive = true := by rw [hb]; exact hu
    have haddr : begun.address = s.address := by rw [hb]; rfl
    have hwhole := begun.arbitrate_eq others hub hatt
    rw [haddr] at hwhole
    rw [exec_contention _ hu, exec_contention _ hu, State.contends_active _ hu hs, State.contends_active _ hu hs]
    dsimp only
    rw [State.enterContention_idle hno, hstart]
    refine ⟨rfl, _, rfl, fun hall => hwhole.trans (if_pos hall), fun hlost => ?_⟩
    rw [hwhole, if_neg hlost]
    refine .of_started hq hno ?_
    rw [hstart]
    exact State.endAttempt_ended hatt
  · refine ⟨s.endAttempt, State.endAttempt_ended he, ?_, ?_, fun htx => ?_⟩
    · rw [exec_contention _ hu, State.contends_active _ hu hs]
    · rw [exec_contention _ hu, State.contends_active _ hu hs]
      exact congrArg _ (State.arbitrate_eq others hu he)
    · obtain ⟨d, hlink⟩ := transmitSound_iff.1 htx
      have hended := State.endAttempt_attempt hlink.sound
      have hue : s.endAttempt.unitActive = true := by
        have hpart : s.endAttempt.part = s.part := by simp
        exact (State.unitActive_congr hpart).trans hu
      have hse : s.endAttempt.ctl.station ≠ .safe := (State.endAttempt_station_iff (st := .safe) nofun nofun).not.2 hs
      have henter : s.endAttempt.enterContention = s.enterContention := by
        rw [State.enterContention_idle hended]
        rfl
      refine ⟨hended, ?_, ?_⟩ <;>
        rw [exec_contention _ hu, exec_contention _ hue, State.contends_active _ hu hs, State.contends_active _ hue hse] <;>
        dsimp only <;> rw [henter]

end Sys2Proof.Machine

namespace Sys2Proof.Machine

open Sys2Proof.Config

/-! ### A spoiled attempt (R166, R170) -/

section OwnSpoiled

variable {s : State} {e : TxEntry}

/-- The start of an attempt touches the transmit queue and nothing else. -/
theorem State.startAttempt_eq (s : State) : s.startAttempt = { s with link := { s.link with queue := s.startAttempt.link.queue } } := by
  cases hno : s.attempt with
  | some e => rw [State.startAttempt_under hno]
  | none =>
    cases hq : s.link.queue with
    | nil => rw [State.startAttempt_nil hq]
    | cons e rest => rw [State.startAttempt_head hq hno]

/-- A frame that is under attempt, or takes part from the head of the queue, has its attempt ended. -/
theorem State.attemptOf_sending_ended (h : s.sending = some e) : AttemptEnded e s s.startAttempt.endAttempt := by
  unfold State.sending at h
  split at h
  · next a ha =>
    cases h
    rw [State.startAttempt_under ha]
    exact State.endAttempt_ended ha
  · next hno =>
    obtain ⟨rest, hq⟩ := List.head?_eq_some_iff.1 h
    exact .of_started hq hno (State.endAttempt_ended (State.startAttempt_attempt hq hno))

/-- A spoiled attempt: both counters rise, the attempt ends, the run moves, and at 16 the link is lost. -/
theorem exec_ownSpoiled {run : Nat} {u : State} (hu : s.unitActive = true) (he : s.sending = some e)
    (hrun : s.link.sendRunAfter e = run)
    (hv : (((s.count .spoiledSeen).count .ownRetries).startAttempt.endAttempt).onLink (fun l => { l with sendRun := run }) = u) :
    exec (.spoiledFrame .own) s = .next (if run = 16 then u.linkLoss else u) := by
  have hown : s.ownSpoiled = if run = 16 then u.linkLoss else u := by
    subst hrun hv
    simp only [State.ownSpoiled, he]
    rfl
  have hspoiled : s.frameSpoiled .own = s.ownSpoiled := by simp only [State.frameSpoiled, hu, if_true]
  rw [← hown, ← hspoiled]
  exact event_running (State.running_of_unitActive hu)

end OwnSpoiled

/-- Settles O13: the attempt of the frame ends as a retry, and the run that reaches 16 is a loss of the link. -/
theorem spoiledOwnFrameCountsARetry : Obligations.SpoiledOwnFrameCountsARetry := by
  intro e run s r hu he hrun hr
  have hcounted : (s.count .spoiledSeen).count .ownRetries = r := hr.symm
  have hsending : r.sending = some e := by rw [hr]; exact he
  obtain ⟨w, hw⟩ : ∃ w, r.startAttempt.endAttempt = w := ⟨_, rfl⟩
  have hended : AttemptEnded e r w := hw ▸ State.attemptOf_sending_ended hsending
  have hstation : ∀ st : StationState, st ≠ .drain → st ≠ .standby → (w.ctl.station = st ↔ s.ctl.station = st) := by
    intro st hd hs
    have h := State.endAttempt_station_iff (s := r.startAttempt) hd hs
    rwa [hw, r.startAttempt_eq, hr] at h
  have hatSafe := hstation .safe nofun nofun
  have hatLoading := hstation .loading nofun nofun
  have hframe := r.startAttempt.endAttempt_frame
  rw [hw, r.startAttempt_eq] at hframe
  obtain ⟨-, -, -, hpockets, hrack, hstore, hentries, hcounters, -, -, hqueue, -, hstaples, hrecv, -⟩ := hframe
  have hexec := exec_ownSpoiled hu he hrun.symm rfl
  rw [hcounted, hw] at hexec
  generalize hv : w.onLink (fun l => { l with sendRun := run }) = v at hexec
  obtain ⟨hlost, hsafe, hloading⟩ := v.linkLoss_spec
  have hloss := v.linkLoss_frame
  subst hv
  obtain ⟨-, -, -, hlp, hlr, hls, hlc, hle, hlq, hlst, -, hlrecv, hlsend⟩ := hloss
  have hrecv : w.link.recvRun = s.link.recvRun := by rw [hrecv, hr]
  have hframe : w.packs.entries = s.packs.entries ∧ w.pockets = s.pockets ∧ w.rack = s.rack ∧ w.store = s.store ∧
      w.head.staples = s.head.staples ∧ w.head.queue = s.head.queue := by
    subst hr
    exact ⟨hentries, hpockets, hrack, hstore, hstaples, hqueue⟩
  obtain ⟨hentries, hpockets, hrack, hstore, hstaples, hqueue⟩ := hframe
  refine ⟨_, w, hexec, hended, fun hn => if_neg hn, ?_⟩
  by_cases h16 : run = 16
  · rw [if_pos h16]
    refine ⟨hlc.trans hcounters, hlsend, hlrecv.trans hrecv, fun _ hnl hns => hlost (hatLoading.not.2 hnl) (hatSafe.not.2 hns),
      fun _ hs => hsafe (hatSafe.2 hs), fun _ hs => hloading (hatLoading.2 hs),
      hle.trans hentries, hlp.trans hpockets, hlr.trans hrack, hls.trans hstore, hlst.trans hstaples, hlq.trans hqueue⟩
  · rw [if_neg h16]
    exact ⟨hcounters, rfl, hrecv, fun h => absurd h h16, fun h => absurd h h16, fun h => absurd h h16, hentries, hpockets,
      hrack, hstore, hstaples, hqueue⟩

end Sys2Proof.Machine

namespace Sys2Proof.Machine

open Sys2Proof.Config

/-! ### RUN to DRAIN (R41, R190) -/

/-- A drain judged, and judged again over the same pockets and no more pending bids. -/
theorem DrainJudged.trans {j k : Prop} {s t u : State} (h : DrainJudged j s t) (hpockets : u.pockets = t.pockets)
    (hbids : t.packs.bids = [] → u.packs.bids = []) (hu : DrainJudged k t u) : DrainJudged k s u := by
  obtain ⟨hctl, hstation, -⟩ := h
  obtain ⟨hctl', hstation', hjudged⟩ := hu
  refine ⟨by rw [hctl', hctl], ?_, fun hk hs hb he => ?_⟩
  · rcases hstation with h | ⟨hs, ht, hb, he⟩
    · rwa [h] at hstation'
    · refine Or.inr ⟨hs, ?_, fun p => by rw [hpockets, hb p], hbids he⟩
      exact hstation'.elim (·.trans ht) fun h => absurd (ht.symm.trans h.1) nofun
  · rcases hstation with h | ⟨-, ht, -, -⟩
    · exact hjudged hk (h.trans hs) hb he
    · exact hstation'.elim (·.trans ht) fun h => absurd (ht.symm.trans h.1) nofun

theorem State.withdrawUnsent_judged (s : State) : DrainJudged False s s.withdrawUnsent := by
  refine foldl_keepsCondition (P := DrainJudged False s) (f := fun t (b : PendingBid) => t.removeBid b.id) (fun b t h => ?_)
    _ s (.of_ctl rfl fun h => h)
  refine h.trans (by simp) (fun hb => ?_) ((t.removeBid_judged b.id).imp False.elim)
  exact List.eq_nil_of_subset_nil (hb ▸ (t.removeBid_removed b.id).fewer.subset)

theorem State.enterDrain_judged (s : State) : DrainJudged True (s.enter .drain) s.enterDrain :=
  (s.enter .drain).withdrawUnsent_judged.trans (by simp [State.enterDrain]) (fun h => by simp [State.enterDrain, h])
    (State.judgeDrain_judged _)

/-- RUN to DRAIN, and on to STANDBY where nothing is bound and nothing pending. -/
theorem State.enterDrain_enters (s : State) : EntersDrain s s.enterDrain := by
  obtain ⟨hctl, hstation, hjudged⟩ := s.enterDrain_judged
  have hpockets : s.enterDrain.pockets = s.pockets := by simp
  have hunsent : UnsentWithdrawn s.packs.bids s.link s.enterDrain.packs.bids s.enterDrain.link := by
    obtain ⟨hp, hl⟩ := (s.enter .drain).withdrawUnsent.judgeDrain_packs
    rw [State.enterDrain, hp, hl]
    exact (s.enter .drain).withdrawUnsent_spec
  refine ⟨by simp [MechanismUnchanged], by simp, hctl, fun h => ?_, fun h => ?_, hunsent⟩
  · exact hjudged trivial rfl (by rw [hpockets]; exact h.1) h.2
  · rcases hstation with hd | ⟨-, -, hb, he⟩
    · exact hd
    · exact absurd ⟨hpockets ▸ hb, he⟩ h

/-! ### DRAIN or STANDBY to RUN (R22, R190) -/

/-- A re-scan takes no pending bid and no frame away. -/
theorem rescanOver_keepsPending (es : List Entry) : ∀ s : State,
    (∀ b ∈ s.packs.bids, b ∈ (rescanOver es s).packs.bids) ∧ ∀ x ∈ s.link.queue, x ∈ (rescanOver es s).link.queue := by
  induction es with
  | nil => exact fun s => ⟨fun _ h => h, fun _ h => h⟩
  | cons e es ih =>
    intro s
    unfold rescanOver
    split
    · split
      · exact ⟨fun _ h => h, fun _ h => h⟩
      · exact ih s
      · next b load _ =>
        obtain ⟨hbids, hframes⟩ := ih (s.placeBid b load)
        refine ⟨fun c hc => hbids c ?_, fun x hx => hframes x (State.append_keeps (s := s.onPacks _) hx)⟩
        simp [State.placeBid, State.onPacks, hc]
    · exact ih s

theorem State.enterRun_enters (s : State) : EntersRun s s.enterRun := by
  have hctl : s.enterRun.ctl = { s.ctl with station := .run } := by simp [State.enterRun, State.enter, State.onCtl]
  obtain ⟨hbids, hframes⟩ := rescanOver_keepsPending s.packs.entries (s.enter .run)
  exact ⟨by simp [MechanismUnchanged], by simp, hctl, (s.enter .run).rescan_rescanned, hbids, hframes⟩

end Sys2Proof.Machine

namespace Sys2Proof.Machine

open Sys2Proof.Config

/-! ### Who is passed over (R91) -/

/-- Only a first-class entry is chosen ahead of an earlier ready one. -/
theorem chosen_firstClass {q : List QueueEntry} {g y : QueueEntry} (hc : chosen q = some g) (hy : y ∈ q)
    (hr : y.ready = true) (hlt : y.stamp < g.stamp) : g.firstClass = true := by
  obtain ⟨hg, hmin⟩ := earliest_some hc
  by_contra hn
  have hcand : y ∈ candidates q := mem_candidates.2 ⟨hy, hr, fun hf => absurd ((mem_candidates.1 hg).2.2 hf) hn⟩
  exact absurd (hmin y hcand) (Nat.not_le.2 hlt)

/-- An entry that no first-class entry is later than stands as it is, or is granted. -/
theorem State.serve_unpassed {s : State} {y : QueueEntry} (hy : y ∈ s.head.queue)
    (h : ∀ g ∈ s.head.queue, g.firstClass = true → g.stamp ≤ y.stamp) : QueuedOrGranted y s.serve := by
  rcases s.serve_cases with e | ⟨-, -, e⟩ | ⟨g, hg, hready, hchosen, -, -, e⟩ <;> rw [e]
  · exact Or.inl hy
  · exact Or.inl hy
  · by_cases hgy : y = g
    · subst hgy
      exact Or.inr ⟨hready, s.grant_busy y⟩
    · have hkept : passOver g.stamp y = y := by
        unfold passOver
        refine if_neg fun ⟨hr, hlt⟩ => ?_
        exact absurd (h g hg (chosen_firstClass hchosen hy hr hlt)) (Nat.not_le.2 hlt)
      refine Or.inl ?_
      simp only [State.grant, State.headTo_queue, State.pocketTo_frame, State.onHead_head]
      exact List.mem_map.2 ⟨y, (List.mem_erase_of_ne hgy).2 hy, hkept⟩

/-! ### The hold, from its condition (R157) -/

/-- What is raised comes from the hold, the transmit queue and the configuration. -/
theorem State.raiseHold_congr {s t : State} (hctl : t.ctl = s.ctl) (hlink : t.link = s.link) (hconfig : t.config = s.config) :
    t.raiseHold.ctl = s.raiseHold.ctl ∧ t.raiseHold.link = s.raiseHold.link := by
  have hcfg : t.cfg = s.cfg := by simp only [State.cfg, hconfig]
  unfold State.raiseHold State.append
  rw [hctl, hcfg]
  (repeat' split) <;> simp [State.onCtl, State.onLink, hctl, hlink]

/-- A raised hold is not raised again. -/
theorem State.raiseHold_idem (s : State) : s.raiseHold.raiseHold = s.raiseHold := by
  by_cases h : s.ctl.station.holds = true ∧ s.ctl.hold.active = false
  · have hactive : s.raiseHold.ctl.hold.active = true := by
      unfold State.raiseHold
      rw [if_pos h]
      split <;> rfl
    exact if_neg fun hn => Bool.false_ne_true (hn.2.symm.trans hactive)
  · have hstands : s.raiseHold = s := if_neg h
    rw [hstands, hstands]

theorem State.judgeHold_eq (s : State) : s.judgeHold = s.noteHold false := by
  simp [State.judgeHold, State.noteHold]

theorem State.holdCondition_congr {s t : State} (hconfig : t.config = s.config) (hrack : t.rack = s.rack)
    (hlength : t.head.queue.length = s.head.queue.length) : t.holdCondition = s.holdCondition := by
  simp only [State.holdCondition, State.trayFull, hconfig, hrack, hlength]

/-- A queue that grows leaves the hold condition true. -/
theorem State.holdCondition_mono {s t : State} (hconfig : t.config = s.config) (hrack : t.rack = s.rack)
    (hlength : s.head.queue.length ≤ t.head.queue.length) (h : s.holdCondition = true) : t.holdCondition = true := by
  rw [State.holdCondition_iff] at h ⊢
  obtain ⟨c, hc, hwanted⟩ := h
  exact ⟨c, hconfig.trans hc, hwanted.imp (fun h => h.trans hlength) fun h => by rw [hrack, h]⟩

/-! ### The LEFTOVER pockets at a resume (R81, R149) -/

/-- Whether a pocket is LEFTOVER with sheets in it. -/
def State.found (occupied : PocketLevels) (s : State) (p : PocketId) : Bool :=
  decide ((s.pockets.get p).state = .leftover) && occupied.get p

/-- The pockets found up to one, itself included. -/
def State.foundThrough (occupied : PocketLevels) (s : State) (p : PocketId) : Nat :=
  PocketId.all.countP fun q => decide (q.number ≤ p.number ∧ (s.pockets.get q).state = .leftover) && occupied.get q

/-- The CLEAR entry of a pocket found (R81, R85). -/
def State.clearEntry (occupied : PocketLevels) (s : State) (p : PocketId) : QueueEntry :=
  { pocket := p, job := .clear, lane := .normal, stamp := s.head.arrivals + s.foundThrough occupied p, passOvers := 0,
    blocked := s.blockedReason p .clear, strokes := none }

/-- A pocket once it has been checked. -/
def State.checkedPocket (occupied : PocketLevels) (s : State) (p : PocketId) : Pocket :=
  if (s.pockets.get p).state = .leftover then
    if occupied.get p then { Pocket.empty with state := .waiting .clear } else Pocket.empty
  else s.pockets.get p

/-- The head once these pockets have been checked. -/
def State.checkedHead (occupied : PocketLevels) (s : State) (ps : List PocketId) : FinishingHead :=
  { s.head with
    queue := s.head.queue ++ (ps.filter (s.found occupied)).map (s.clearEntry occupied)
    arrivals := s.head.arrivals + ps.countP (s.found occupied) }

/-- The pockets `ps` have been checked, the rest stands. The hold has been raised only where its condition holds. -/
structure LeftoversChecked (occupied : PocketLevels) (ps : List PocketId) (s w : State) : Prop where
  config : w.config = s.config
  rack : w.rack = s.rack
  head : w.head = s.checkedHead occupied ps
  pocket : ∀ q, w.pockets.get q = if q ∈ ps then s.checkedPocket occupied q else s.pockets.get q
  hold : w.ctl = s.ctl ∧ w.link = s.link ∨
    w.holdCondition = true ∧ w.ctl = s.raiseHold.ctl ∧ w.link = s.raiseHold.link

section Leftovers

variable {occupied : PocketLevels} {ps : List PocketId} {s w : State} {p : PocketId}

theorem State.checkedHead_nil : s.checkedHead occupied [] = s.head := by simp [State.checkedHead]

theorem State.checkedHead_unfound (h : s.found occupied p = false) :
    s.checkedHead occupied (ps ++ [p]) = s.checkedHead occupied ps := by
  simp [State.checkedHead, h]

/-- A pocket found appends its entry. -/
theorem State.checkedHead_found (h : s.found occupied p = true) :
    s.checkedHead occupied (ps ++ [p]) =
      { s.checkedHead occupied ps with
        queue := (s.checkedHead occupied ps).queue ++ [s.clearEntry occupied p]
        arrivals := (s.checkedHead occupied ps).arrivals + 1 } := by
  simp [State.checkedHead, h, Nat.add_assoc]

theorem LeftoversChecked.nil : LeftoversChecked occupied [] s s where
  config := rfl
  rack := rfl
  head := State.checkedHead_nil.symm
  pocket := by simp
  hold := Or.inl ⟨rfl, rfl⟩

/-- Setting the pocket that is checked next. -/
theorem LeftoversChecked.set_pocket (h : LeftoversChecked occupied ps s w) {q : Pocket} (hq : q = s.checkedPocket occupied p) :
    ∀ r, (w.onPocket p fun _ => q).pockets.get r =
      if r ∈ ps ++ [p] then s.checkedPocket occupied r else s.pockets.get r := by
  intro r
  by_cases hr : r = p
  · subst hr
    simp [hq]
  · rw [State.onPocket_other _ _ hr, h.pocket r]
    simp [hr]

/-- The entry of the pocket checked next is appended, and the hold condition noted. -/
theorem LeftoversChecked.enqueue {q : Pocket} (h : LeftoversChecked occupied ps s w) (hfound : s.found occupied p = true)
    (hrank : s.foundThrough occupied p = ps.countP (s.found occupied) + 1)
    (hpocket : ∀ r, (w.onPocket p fun _ => q).pockets.get r =
      if r ∈ ps ++ [p] then s.checkedPocket occupied r else s.pockets.get r) :
    LeftoversChecked occupied (ps ++ [p]) s ((w.onPocket p fun _ => q).enqueue p .clear .normal) := by
  let v := w.onPocket p fun _ => q
  have hfull : v.trayFull = s.trayFull := by
    simp only [State.trayFull, show v.config = s.config from h.config, show v.rack = s.rack from h.rack]
  have hentry : v.newEntry p .clear .normal = s.clearEntry occupied p := by
    simp only [State.newEntry, State.clearEntry, State.blockedReason, hfull, hrank, show v.head = _ from h.head,
      State.checkedHead, Nat.add_assoc]
  have hhead : (v.enqueue p .clear .normal).head = s.checkedHead occupied (ps ++ [p]) := by
    rw [State.enqueue_queue, hentry, State.checkedHead_found hfound, show v.head = _ from h.head]
  refine ⟨by simpa using h.config, by simpa using h.rack, hhead, by simpa using hpocket, ?_⟩
  let u := v.onHead fun k => { k with queue := k.queue ++ [v.newEntry p .clear .normal], arrivals := k.arrivals + 1 }
  have hcondition : (v.enqueue p .clear .normal).holdCondition = u.holdCondition :=
    State.holdCondition_congr (by simp [u]) (by simp [u]) (by simp [State.enqueue_queue, u])
  rw [hcondition]
  show (u.noteHold v.holdCondition).ctl = _ ∧ (u.noteHold v.holdCondition).link = _ ∨
    _ ∧ (u.noteHold v.holdCondition).ctl = _ ∧ (u.noteHold v.holdCondition).link = _
  rcases h.hold with ⟨hctl, hlink⟩ | ⟨htrue, hraised⟩
  · unfold State.noteHold
    split
    · next hrise => exact Or.inr ⟨hrise.2, State.raiseHold_congr hctl hlink h.config⟩
    · exact Or.inl ⟨hctl, hlink⟩
  · have hbefore : v.holdCondition = true := htrue
    have hafter : u.holdCondition = true := State.holdCondition_mono (s := v) rfl rfl (by simp [u]) hbefore
    have hstands : u.noteHold v.holdCondition = u := by simp [State.noteHold, hbefore]
    rw [hstands]
    exact Or.inr ⟨hafter, hraised⟩

/-- The check of the next pocket, when the pockets before it have been checked. -/
theorem LeftoversChecked.step (h : LeftoversChecked occupied ps s w) (hp : p ∉ ps)
    (hrank : s.found occupied p = true → s.foundThrough occupied p = ps.countP (s.found occupied) + 1) :
    LeftoversChecked occupied (ps ++ [p]) s (w.resumePocket occupied p) := by
  have hget : w.pockets.get p = s.pockets.get p := (h.pocket p).trans (if_neg hp)
  have hunfound : s.found occupied p = false → w.head = s.checkedHead occupied (ps ++ [p]) := fun hf => by
    rw [State.checkedHead_unfound hf, h.head]
  unfold State.resumePocket
  rw [hget]
  by_cases hleft : (s.pockets.get p).state = .leftover
  · rw [if_pos hleft]
    cases hocc : occupied.get p with
    | false =>
      have hchecked : Pocket.empty = s.checkedPocket occupied p := by simp [State.checkedPocket, hleft, hocc]
      exact ⟨h.config, h.rack, hunfound (by simp [State.found, hocc]), h.set_pocket hchecked, h.hold⟩
    | true =>
      have hfound : s.found occupied p = true := by simp [State.found, hleft, hocc]
      have hchecked : { Pocket.empty with state := .waiting .clear } = s.checkedPocket occupied p := by
        simp [State.checkedPocket, hleft, hocc]
      exact h.enqueue hfound (hrank hfound) (h.set_pocket hchecked)
  · rw [if_neg hleft]
    refine ⟨h.config, h.rack, hunfound (by simp [State.found, hleft]), fun r => ?_, h.hold⟩
    rw [h.pocket r]
    by_cases hr : r = p
    · subst hr
      simp [hp, State.checkedPocket, hleft]
    · simp [hr]

end Leftovers

end Sys2Proof.Machine

namespace Sys2Proof.Machine

open Sys2Proof.Config

/-! ### A resume (R149) -/

/-- The hold judged after the checks is the hold judged once, over the longer queue. -/
theorem LeftoversChecked.judgeHold {occupied : PocketLevels} {ps : List PocketId} {s w : State}
    (h : LeftoversChecked occupied ps s w) :
    w.judgeHold.ctl = ({ s with head := s.checkedHead occupied ps } : State).judgeHold.ctl ∧
      w.judgeHold.link = ({ s with head := s.checkedHead occupied ps } : State).judgeHold.link := by
  generalize hy : ({ s with head := s.checkedHead occupied ps } : State) = y
  have hctl : y.ctl = s.ctl := by rw [← hy]
  have hlink : y.link = s.link := by rw [← hy]
  have hconfig : y.config = s.config := by rw [← hy]
  have hcondition : y.holdCondition = w.holdCondition := by
    rw [← hy]
    exact State.holdCondition_congr h.config.symm h.rack.symm (by rw [h.head])
  have hraise := State.raiseHold_congr hctl hlink hconfig
  unfold State.judgeHold
  rw [hcondition]
  rcases h.hold with ⟨hwc, hwl⟩ | ⟨htrue, hwc, hwl⟩
  · split
    · obtain ⟨hc, hl⟩ := State.raiseHold_congr hwc hwl h.config
      exact ⟨hc.trans hraise.1.symm, hl.trans hraise.2.symm⟩
    · exact ⟨hwc.trans hctl.symm, hwl.trans hlink.symm⟩
  · obtain ⟨hc, hl⟩ := State.raiseHold_congr hwc hwl (h.config.trans (by simp))
    rw [if_pos htrue, if_pos htrue, hc, hl, s.raiseHold_idem]
    exact ⟨hraise.1.symm, hraise.2.symm⟩

section Resume

variable (occupied : PocketLevels) (s : State)

/-- The rank of a pocket found is one more than the pockets found before it. -/
theorem State.foundThrough_eq {p : PocketId} (h : s.found occupied p = true) :
    s.foundThrough occupied p =
      (PocketId.all.filter fun q => decide (q.number < p.number)).countP (s.found occupied) + 1 := by
  have hthrough : s.foundThrough occupied p =
      (PocketId.all.filter fun q => decide (q.number ≤ p.number)).countP (s.found occupied) := by
    rw [List.countP_filter]
    exact List.countP_congr fun q _ => by simp [State.found]; tauto
  rw [hthrough]
  cases p <;> simp [PocketId.all, PocketId.number, List.countP_cons, h] <;> omega

theorem State.leftoversChecked_checked :
    LeftoversChecked occupied PocketId.all s.restarted (s.leftoversChecked occupied) := by
  have hrank := fun p => s.restarted.foundThrough_eq occupied (p := p)
  exact (((LeftoversChecked.nil.step (by decide) (hrank .p1)).step (by decide) (hrank .p2)).step
    (by decide) (hrank .p3)).step (by decide) (hrank .p4)

theorem State.leftoversChecked_pocket (p : PocketId) :
    (s.leftoversChecked occupied).pockets.get p = s.checkedPocket occupied p :=
  ((s.leftoversChecked_checked occupied).pocket p).trans (if_pos (PocketId.mem_all p))

theorem State.mem_leftoversChecked_queue {x : QueueEntry} :
    x ∈ (s.leftoversChecked occupied).head.queue ↔
      x ∈ s.head.queue ∨ ∃ p, s.found occupied p = true ∧ s.clearEntry occupied p = x := by
  rw [(s.leftoversChecked_checked occupied).head]
  show x ∈ s.head.queue ++ (PocketId.all.filter (s.found occupied)).map (s.clearEntry occupied) ↔ _
  simp [PocketId.mem_all]

theorem State.found_iff {s : State} {p : PocketId} :
    s.found occupied p = true ↔ (s.pockets.get p).state = .leftover ∧ occupied.get p = true := by
  simp [State.found]

theorem State.leftoversFound_eq : PocketId.all.countP (s.found occupied) = leftoversFound occupied s := rfl

/-- The entries of the pockets found stand behind all others and are not of the first class. -/
theorem State.clearEntry_last {s : State} {p : PocketId} (horder : QueueInOrder s) :
    ∀ g ∈ (s.leftoversChecked occupied).head.queue, g.firstClass = true → g.stamp ≤ (s.clearEntry occupied p).stamp := by
  intro g hg hfirst
  rcases (s.mem_leftoversChecked_queue occupied).1 hg with hold | ⟨q, -, rfl⟩
  · exact (horder.2 g hold).1.trans (Nat.le_add_right _ _)
  · exact absurd hfirst (by simp [State.clearEntry, QueueEntry.firstClass, agingLimit])

/-- After the checks the queue still agrees with its pockets. -/
theorem QueueHoldsWaiting.leftoversChecked {s : State} (h : QueueHoldsWaiting s) :
    ∀ x ∈ (s.leftoversChecked occupied).head.queue,
      ((s.leftoversChecked occupied).pockets.get x.pocket).state = .waiting x.job := by
  intro x hx
  rw [State.leftoversChecked_pocket]
  rcases (s.mem_leftoversChecked_queue occupied).1 hx with hold | ⟨p, hfound, rfl⟩
  · have hwaits := h.2.1 x hold
    rw [State.checkedPocket, if_neg (by rw [hwaits]; nofun), hwaits]
  · simp only [State.found, Bool.and_eq_true, decide_eq_true_eq] at hfound
    simp [State.checkedPocket, State.clearEntry, hfound]

/-- A resume before its selection (R149 steps 1 to 6). -/
def State.rescanned (s : State) : State := ((s.leftoversChecked occupied).judgeHold).rescan

theorem State.resume_serves : s.resume occupied = (s.rescanned occupied).serve := rfl

theorem State.rescanned_head : (s.rescanned occupied).head = (s.leftoversChecked occupied).head := by simp [State.rescanned]

theorem State.rescanned_pockets : (s.rescanned occupied).pockets = (s.leftoversChecked occupied).pockets := by
  simp [State.rescanned]

theorem QueueHoldsWaiting.rescanned {s : State} (h : QueueHoldsWaiting s) :
    ∀ x ∈ (s.rescanned occupied).head.queue, ((s.rescanned occupied).pockets.get x.pocket).state = .waiting x.job := by
  rw [State.rescanned_head, State.rescanned_pockets]
  exact h.leftoversChecked occupied

/-- The entry of a pocket found is appended at the end of the queue, or granted the head at once. -/
theorem State.resume_appended {s : State} {p : PocketId} (hp : s.found occupied p = true) :
    EntryAppended p .clear (s.head.arrivals + s.foundThrough occupied p) s (s.resume occupied) := by
  have hmem : s.clearEntry occupied p ∈ (s.rescanned occupied).head.queue := by
    rw [State.rescanned_head]
    exact (s.mem_leftoversChecked_queue occupied).2 (Or.inr ⟨p, hp, rfl⟩)
  obtain ⟨x, hx, hplaced, hunpassed⟩ : ∃ x, x = { s.clearEntry occupied p with passOvers := x.passOvers } ∧
      QueuedOrGranted x (s.rescanned occupied).serve ∧ (QueueInOrder s → x.passOvers = 0) := by
    by_cases horder : QueueInOrder s
    · refine ⟨_, rfl, State.serve_unpassed hmem ?_, fun _ => rfl⟩
      rw [State.rescanned_head]
      exact State.clearEntry_last occupied horder
    · obtain ⟨x, hx, hplaced, -⟩ := State.serve_entry hmem
      exact ⟨x, hx, hplaced, fun h => absurd h horder⟩
  have hblocked : BlockedBy p .clear x.blocked (s.resume occupied) := by
    rw [hx]
    simpa [BlockedBy, State.clearEntry] using s.blockedReason_blockedBy p .clear
  have hpocket : x.pocket = p := by rw [hx]; rfl
  have hjob : x.job = .clear := by rw [hx]; rfl
  refine ⟨x, hpocket, hjob, by rw [hx]; rfl, by rw [hx]; rfl, hunpassed, by rw [hx]; rfl, hblocked, ?_⟩
  unfold QueuedOrGranted at hplaced
  rwa [hpocket, hjob] at hplaced

/-- The hold is judged over the queue with the entries appended (R157). -/
theorem State.leftoversChecked_hold (raised : Prop)
    (h : raised ↔ s.ctl.hold.active = false ∧ HoldWanted (s.head.queue.length + leftoversFound occupied s) s.rack.tray s) :
    (s.leftoversChecked occupied).judgeHold.ctl =
        { s.ctl with
          station := .run, haltCause := none, hold := (s.leftoversChecked occupied).judgeHold.ctl.hold } ∧
      HoldRaised raised s.ctl.hold (s.leftoversChecked occupied).judgeHold.ctl.hold ∧
      HoldQueued raised s.ctl.hold s.cfg.holdTime s.link (s.leftoversChecked occupied).judgeHold.link := by
  obtain ⟨hctl, hlink⟩ := (s.leftoversChecked_checked occupied).judgeHold
  generalize hy : ({ s.restarted with head := s.restarted.checkedHead occupied PocketId.all } : State) = y at hctl hlink
  have hlength : y.head.queue.length = s.head.queue.length + leftoversFound occupied s := by
    rw [← hy, ← State.leftoversFound_eq]
    show (s.head.queue ++ (PocketId.all.filter (s.found occupied)).map (s.clearEntry occupied)).length = _
    rw [List.length_append, List.length_map, List.countP_eq_length_filter]
  obtain ⟨hframe, hraised, hqueued⟩ := y.noteHold_raised false raised (by
    rw [h, hlength, ← hy]
    show _ ↔ true = true ∧ s.ctl.hold.active = false ∧ false = false ∧ HoldWanted _ s.rack.tray s
    simp)
  rw [State.judgeHold_eq y] at hctl hlink
  rw [hctl, hlink]
  refine ⟨?_, ?_, ?_⟩
  · rw [congrArg State.ctl hframe, ← hy]
    rfl
  · rw [← hy] at hraised ⊢
    exact hraised
  · rw [← hy] at hqueued ⊢
    exact hqueued

section Waiting

variable {s} (h : QueueHoldsWaiting s)
include h

/-- A selection after the checks moves at most a WAITING pocket to AT_HEAD. -/
theorem State.resume_pocket (p : PocketId) :
    (s.resume occupied).pockets.get p = s.checkedPocket occupied p ∨
      ∃ j, (s.checkedPocket occupied p).state = .waiting j ∧
        (s.resume occupied).pockets.get p = { s.checkedPocket occupied p with state := .atHead j } := by
  have hserve := State.serve_pockets (h.rescanned occupied) p
  rwa [State.rescanned_pockets, State.leftoversChecked_pocket] at hserve

theorem State.resume_others :
    OthersServed (fun q => (s.pockets.get q).state = .leftover) s (s.resume occupied) := by
  rw [State.resume_serves]
  refine State.serve_others (h.rescanned occupied) (fun q hq => ?_) (fun y hy _ => ?_) fun x hx => ?_
  · rw [State.rescanned_pockets, State.leftoversChecked_pocket, State.checkedPocket, if_neg hq]
  · rw [State.rescanned_head]
    exact ⟨y, (s.mem_leftoversChecked_queue occupied).2 (Or.inl hy), rfl⟩
  · rw [State.rescanned_head] at hx
    rcases (s.mem_leftoversChecked_queue occupied).1 hx with hold | ⟨p, hfound, rfl⟩
    · exact Or.inr ⟨x, hold, rfl⟩
    · exact Or.inl ((State.found_iff occupied).1 hfound).1

theorem State.resume_rescanned :
    Rescanned s.packs.bids (s.leftoversChecked occupied).judgeHold.link (s.resume occupied) := by
  have hchecked : (s.leftoversChecked occupied).packs = s.packs :=
    foldl_keeps (fun t => t.packs) (State.resumePocket occupied) (fun t p => by simp) PocketId.all s.restarted
  have hpacks : (s.leftoversChecked occupied).judgeHold.packs = s.packs := by simp [hchecked]
  have hscan : Rescanned s.packs.bids (s.leftoversChecked occupied).judgeHold.link (s.rescanned occupied) := by
    have hjudged := (s.leftoversChecked occupied).judgeHold.rescan_rescanned
    rwa [hpacks] at hjudged
  exact Rescanned.transfer (State.serve_sameForBids (h.rescanned occupied)) hscan

/-- What a resume leaves of each pocket (R81, R149). -/
theorem State.resume_pocketChecked (p : PocketId) :
    if (s.pockets.get p).state = .leftover then
      if occupied.get p then
        ((s.resume occupied).pockets.get p).job = some .clear ∧
          (s.resume occupied).pockets.get p =
            { Pocket.empty with state := ((s.resume occupied).pockets.get p).state } ∧
          EntryAppended p .clear (s.head.arrivals + s.foundThrough occupied p) s (s.resume occupied)
      else (s.resume occupied).pockets.get p = Pocket.empty
    else ((s.resume occupied).pockets.get p).job = (s.pockets.get p).job := by
  have hpocket := State.resume_pocket occupied h p
  split
  · next hleft =>
    split
    · next hocc =>
      have happended := s.resume_appended occupied ((State.found_iff occupied).2 ⟨hleft, hocc⟩)
      have hchecked : s.checkedPocket occupied p = { Pocket.empty with state := .waiting .clear } := by
        rw [State.checkedPocket, if_pos hleft, if_pos hocc]
      rw [hchecked] at hpocket
      rcases hpocket with e | ⟨j, hj, e⟩
      · exact ⟨by rw [e]; rfl, by rw [e], happended⟩
      · cases hj
        exact ⟨by rw [e]; rfl, by rw [e], happended⟩
    · next hocc =>
      have hchecked : s.checkedPocket occupied p = Pocket.empty := by
        rw [State.checkedPocket, if_pos hleft, if_neg hocc]
      rw [hchecked] at hpocket
      exact hpocket.elim id fun ⟨j, hj, _⟩ => absurd hj nofun
  · next hleft =>
    rw [State.checkedPocket, if_neg hleft] at hpocket
    rcases hpocket with e | ⟨j, hj, e⟩ <;> rw [e]
    simp only [Pocket.job, hj]

end Waiting

end Resume

end Sys2Proof.Machine

namespace Sys2Proof.Machine

open Sys2Proof.Config

/-- A station that resumes, once the part has read the sensors (R149). -/
theorem State.resume_resumed (r : ResumeReadings) {s : State} (h : QueueHoldsWaiting s) :
    Resumed r s ((s.readSensors r).resume r.occupied) := by
  generalize hu : s.readSensors r = u
  have hw : QueueHoldsWaiting u := by rw [← hu]; exact h
  have hhead : (u.resume r.occupied).head = (u.rescanned r.occupied).serve.head := rfl
  have hchecked := (u.leftoversChecked_checked r.occupied).head
  have hidle : (u.rescanned r.occupied).head.state = .idle := by
    rw [State.rescanned_head, hchecked]
    rfl
  have hstopped : (u.resume r.occupied).head.state ≠ .stopped :=
    State.serve_not_stopped (s := u.rescanned r.occupied) (by rw [hidle]; nofun)
  have harrivals : (u.resume r.occupied).head.arrivals = u.head.arrivals + leftoversFound r.occupied u := by
    rw [hhead, State.serve_arrivals, State.rescanned_head, hchecked]
    rfl
  obtain ⟨hctl, hraised, hqueued⟩ := u.leftoversChecked_hold r.occupied _ Iff.rfl
  have hresumed : (u.resume r.occupied).ctl = (u.leftoversChecked r.occupied).judgeHold.ctl := by
    simp [State.resume_eq]
  have hrescanned := State.resume_rescanned r.occupied hw
  subst hu
  refine ⟨?_, hstopped, ?_, ?_, ?_, harrivals, ?_, ?_, ?_, ?_,
    State.resume_pocketChecked r.occupied hw, State.resume_others r.occupied hw, State.serve_served _,
    _, _, Iff.rfl, ?_, hqueued, hrescanned⟩
  · rw [hresumed]
    exact hctl
  · simp
  · simp
  · simp
  · simp
  · simp
  · simp
  · simp [State.readSensors, State.onPart, SensorsRead]
  · rw [hresumed]
    exact hraised

/-! ### The service button (R182) -/

theorem State.jamPresent_iff (r : ResumeReadings) (s : State) :
    s.jamPresent r = true ↔ s.part.jamLines.any ∨ r.headJam ∨ r.carriageJam := by
  simp [State.jamPresent, or_assoc]

/-- A resume request in HALTED is refused for a jam, and taken otherwise (R148). -/
theorem State.resumeRequest_answered (r : ResumeReadings) (s : State) :
    if s.part.jamLines.any ∨ r.headJam ∨ r.carriageJam then
      (if s.jamPresent r then s.readSensors r else (s.readSensors r).resume r.occupied) =
        { s with part := SensorsRead r s }
    else QueueHoldsWaiting s →
      Resumed r s (if s.jamPresent r then s.readSensors r else (s.readSensors r).resume r.occupied) := by
  split
  · next hjam =>
    rw [if_pos ((State.jamPresent_iff r s).2 hjam)]
    rfl
  · next hjam =>
    rw [if_neg ((State.jamPresent_iff r s).not.2 hjam)]
    exact State.resume_resumed r

/-- Settles O37: by whether a self-test waits or runs, and then by the station state. -/
theorem serviceButtonActsByTheStationState : Obligations.ServiceButtonActsByTheStationState := by
  intro r s hr
  refine ⟨fun ht => ?_, fun ht => ⟨s.buttonPressed r, event_running hr, ?_⟩⟩
  · exact (event_running hr).trans (congrArg _ (if_pos ht))
  · simp only [State.buttonPressed, ht, Bool.false_eq_true, if_false]
    cases s.ctl.station with
    | run => exact s.enterDrain_enters
    | drain => exact s.enterRun_enters
    | standby => exact s.enterRun_enters
    | halted => exact s.resumeRequest_answered r
    | loading => rfl
    | configFault => rfl
    | joining => rfl
    | halting => rfl
    | safe => rfl

end Sys2Proof.Machine

namespace Sys2Proof.Machine

open Sys2Proof.Config

/-! ### Orders (R175, R179, R180) -/

/-- An ORDER of the console that names this station (R174, R175). -/
theorem State.orderDelivered_addressed {h : ConsoleHeader} {s : State} {o : OrderKind} (take : State → State)
    (hd : Addressed h s) : s.orderDelivered h o take = take s.received := by
  obtain ⟨hu, hs, ht⟩ := hd
  have ha := State.address_of_unitActive hu
  have hst : h.sender.toNat = 30 := by rw [hs]; rfl
  have hf : frameWellFormed s.address (orderFrame h o) = true := by
    refine (frameWellFormed_frameOf _ _ _ _ _).2 ⟨?_, ?_, ?_, ?_, by omega⟩
    · simp [FrameKind.sentBy, hst]
    · simp [FrameKind.sentTo, isStation, ht, ha]
    · cases o <;> rfl
    · cases o <;> rfl
  exact (State.fromMember_heard _ hu hf).trans (if_pos (ht : h.target.toNat = s.received.address))

/-- The ORDER reaches its block once the receive run has been cleared. -/
theorem order_addressed {h : ConsoleHeader} {s : State} {o : OrderKind} (take : State → State) (hd : Addressed h s) :
    event (State.orderDelivered h o take) s = .next (take s.received) :=
  (event_running (State.running_of_unitActive hd.1)).trans (congrArg _ (State.orderDelivered_addressed take hd))

theorem StationState.answers_iff {st : StationState} :
    st.answers = false ↔ st = .loading ∨ st = .configFault ∨ st = .safe := by
  cases st <;> simp [StationState.answers]

theorem StationState.not_safe_of_answers {st : StationState} (h : st.answers = true) : st ≠ .safe := by
  rintro rfl
  exact absurd h nofun

theorem State.takeOrder_ignored {s : State} {o : OrderKind} (obey : State → Obeyed) (ha : s.ctl.station.answers = true)
    (hslot : s.ctl.answerSlot ≠ none) : s.takeOrder o obey = s.count .ordersIgnored := by
  obtain ⟨a, hfull⟩ := Option.ne_none_iff_exists'.1 hslot
  simp only [State.takeOrder, ha, hfull, if_true]

theorem State.takeOrder_discarded {s : State} {o : OrderKind} (obey : State → Obeyed) (ha : s.ctl.station.answers = false) :
    s.takeOrder o obey = s := by simp [State.takeOrder, ha]

/-! ### The station after an order -/

theorem EntersDrain.station {s t : State} (h : EntersDrain s t) : t.ctl.station ≠ .safe := by
  obtain ⟨-, -, -, hstandby, hdrain, -⟩ := h
  by_cases hdrained : (∀ p, (s.pockets.get p).isBound = false) ∧ t.packs.bids = []
  · rw [hstandby hdrained]
    nofun
  · rw [hdrain hdrained]
    nofun

theorem EntersRun.station {s t : State} (h : EntersRun s t) : t.ctl.station ≠ .safe := by
  obtain ⟨-, -, hctl, -⟩ := h
  rw [hctl]
  nofun

theorem State.resume_station (occupied : PocketLevels) (s : State) : (s.resume occupied).ctl.station = .run := by
  have hctl : (s.resume occupied).ctl = (s.leftoversChecked occupied).judgeHold.ctl := by simp [State.resume_eq]
  rw [hctl, (s.leftoversChecked_hold occupied _ Iff.rfl).1]

/-- A self-test starts at once at an IDLE head, and waits at any other (R116). -/
theorem State.requestTest_requested (s : State) :
    s.requestTest =
        { s with head := { s.head with state := s.requestTest.head.state, testWaiting := s.requestTest.head.testWaiting } } ∧
      (s.head.state = .idle → s.requestTest.head.state = .testing .light 2 ∧ s.requestTest.head.testWaiting = false) ∧
      (s.head.state ≠ .idle → s.requestTest.head.state = s.head.state ∧ s.requestTest.head.testWaiting = true) := by
  by_cases hidle : s.head.state = .idle
  · have hstarts : s.requestTest = { s with head := { s.head with state := .testing .light 2, testWaiting := false } } := by
      simp [State.requestTest, State.serve, State.onHead, State.startTest, hidle, readingLimit]
    rw [hstarts]
    exact ⟨rfl, fun _ => ⟨rfl, rfl⟩, fun h => absurd hidle h⟩
  · have hwaits : s.requestTest = { s with head := { s.head with testWaiting := true } } :=
      State.serve_busy (s := s.onHead fun h => { h with testWaiting := true }) hidle
    rw [hwaits]
    exact ⟨rfl, fun h => absurd h hidle, fun _ => ⟨rfl, rfl⟩⟩

/-! ### Orders that are answered (R180) -/

section Answered

variable {s : State} (ha : s.ctl.station.answers = true) (hslot : s.ctl.answerSlot = none)
include ha hslot

/-- An order is carried out and its ANSWER queued. -/
theorem State.takeOrder_answered {o : OrderKind} {obey : State → Obeyed} {u : State} {c : AnswerCode}
    (hobey : obey s = { state := u, code := c }) (hsafe : u.ctl.station ≠ .safe) :
    OnlyAnswered o c u (s.takeOrder o obey) := by
  have htaken : s.takeOrder o obey = (u.append (.answer o c)).onCtl fun k => { k with answerSlot := some (o, c) } := by
    simp only [State.takeOrder, ha, hslot, hobey, if_true]
  rw [htaken]
  refine ⟨?_, State.append_queued _ hsafe⟩
  rw [State.append, if_neg hsafe]
  rfl

theorem State.standby_answered :
    match s.ctl.station with
    | .run => ∃ u, EntersDrain s u ∧ OnlyAnswered .standby .accepted u (s.takeOrder .standby State.obeyStandby)
    | .drain | .standby => OnlyAnswered .standby .accepted s (s.takeOrder .standby State.obeyStandby)
    | _ => OnlyAnswered .standby .wrongState s (s.takeOrder .standby State.obeyStandby) := by
  have hstands := StationState.not_safe_of_answers ha
  split
  · next hst =>
    have hu := s.enterDrain_enters
    exact ⟨_, hu, State.takeOrder_answered ha hslot (by simp only [State.obeyStandby, hst]) hu.station⟩
  · next hst => exact State.takeOrder_answered ha hslot (by simp only [State.obeyStandby, hst]) hstands
  · next hst => exact State.takeOrder_answered ha hslot (by simp only [State.obeyStandby, hst]) hstands
  · exact State.takeOrder_answered ha hslot (by simp [State.obeyStandby]) hstands

theorem State.resume_answered (r : ResumeReadings) :
    match s.ctl.station with
    | .run => OnlyAnswered .resume .accepted s (s.takeOrder .resume (State.obeyResume r))
    | .drain => ∃ u, EntersRun s u ∧ OnlyAnswered .resume .accepted u (s.takeOrder .resume (State.obeyResume r))
    | .standby =>
      if s.testing then OnlyAnswered .resume .busy s (s.takeOrder .resume (State.obeyResume r))
      else ∃ u, EntersRun s u ∧ OnlyAnswered .resume .accepted u (s.takeOrder .resume (State.obeyResume r))
    | .halted =>
      if s.part.jamLines.any ∨ r.headJam ∨ r.carriageJam then
        OnlyAnswered .resume .jamPresent { s with part := SensorsRead r s } (s.takeOrder .resume (State.obeyResume r))
      else ∃ u, (QueueHoldsWaiting s → Resumed r s u) ∧
        OnlyAnswered .resume .accepted u (s.takeOrder .resume (State.obeyResume r))
    | _ => OnlyAnswered .resume .wrongState s (s.takeOrder .resume (State.obeyResume r)) := by
  have hstands := StationState.not_safe_of_answers ha
  have hu := s.enterRun_enters
  split
  · next hst => exact State.takeOrder_answered ha hslot (by simp only [State.obeyResume, hst]) hstands
  · next hst => exact ⟨_, hu, State.takeOrder_answered ha hslot (by simp only [State.obeyResume, hst]) hu.station⟩
  · next hst =>
    split
    · next ht => exact State.takeOrder_answered ha hslot (by simp only [State.obeyResume, hst, ht, if_true]) hstands
    · next ht =>
      exact ⟨_, hu, State.takeOrder_answered ha hslot (by simp only [State.obeyResume, hst, if_neg ht]) hu.station⟩
  · next hst =>
    split
    · next hjam =>
      have hpresent := (State.jamPresent_iff r s).2 hjam
      exact State.takeOrder_answered ha hslot (by simp only [State.obeyResume, hst, if_pos hpresent]; rfl) hstands
    · next hjam =>
      have hclear := (State.jamPresent_iff r s).not.2 hjam
      refine ⟨_, State.resume_resumed r, State.takeOrder_answered ha hslot
        (by simp only [State.obeyResume, hst, if_neg hclear]) ?_⟩
      rw [State.resume_station]
      nofun
  · exact State.takeOrder_answered ha hslot (by simp [State.obeyResume]) hstands

theorem State.selfTest_answered :
    match s.ctl.station with
    | .standby =>
      if s.testing then OnlyAnswered .selfTest .busy s (s.takeOrder .selfTest State.obeySelfTest)
      else
        ∃ u, u = { s with head := { s.head with state := u.head.state, testWaiting := u.head.testWaiting } } ∧
          (s.head.state = .idle → u.head.state = .testing .light 2 ∧ u.head.testWaiting = false) ∧
          (s.head.state ≠ .idle → u.head.state = s.head.state ∧ u.head.testWaiting = true) ∧
          OnlyAnswered .selfTest .accepted u (s.takeOrder .selfTest State.obeySelfTest)
    | _ => OnlyAnswered .selfTest .wrongState s (s.takeOrder .selfTest State.obeySelfTest) := by
  have hstands := StationState.not_safe_of_answers ha
  split
  · next hst =>
    split
    · next ht => exact State.takeOrder_answered ha hslot (by simp only [State.obeySelfTest, hst, ht, if_true]) hstands
    · next ht =>
      obtain ⟨hframe, hidle, hbusy⟩ := s.requestTest_requested
      refine ⟨_, hframe, hidle, hbusy,
        State.takeOrder_answered ha hslot (by simp only [State.obeySelfTest, hst, if_neg ht]) ?_⟩
      rw [hframe]
      exact hstands
  · exact State.takeOrder_answered ha hslot (by simp [State.obeySelfTest]) hstands

end Answered

/-- A pocket is bound unless it is FREE, LEFTOVER or closed with a CLEAR job (R32, R63). -/
theorem Pocket.isBound_iff_state (q : Pocket) :
    q.isBound = true ↔
      q.state = .reserved ∨ q.state = .filling ∨ (∃ r, q.state = .absorbing r) ∨ (∃ j, q.state = .retiring j) ∨
        ∃ j : Job, j ≠ .clear ∧ (q.state = .waiting j ∨ q.state = .atHead j) := by
  cases hq : q.state with
  | waiting j => cases j <;> simp [Pocket.isBound, Job.ofPack, hq]
  | atHead j => cases j <;> simp [Pocket.isBound, Job.ofPack, hq]
  | _ => simp [Pocket.isBound, hq]

/-- Settles O36: by the station state for the four orders, by a full slot or a station that takes none, and by the echo
of the ANSWER. -/
theorem ordersAreAnsweredByTheStationState : Obligations.OrdersAreAnsweredByTheStationState := by
  refine ⟨fun st => StationState.answers_iff, fun q => q.isBound_iff_state, fun h readings s r hd hr ha hslot => ?_,
    fun h readings c s hd hc => ?_, fun e o code s he hf => ?_⟩
  · subst hr
    have ha' : s.received.ctl.station.answers = true := ha
    have hslot' : s.received.ctl.answerSlot = none := hslot
    refine ⟨⟨_, order_addressed _ hd, State.standby_answered ha' hslot'⟩,
      ⟨_, order_addressed _ hd, State.resume_answered ha' hslot' readings⟩,
      ⟨_, order_addressed _ hd, State.selfTest_answered ha' hslot'⟩,
      _, order_addressed _ hd, State.takeOrder_answered ha' hslot' rfl (StationState.not_safe_of_answers ha)⟩
  · have hexec : ∃ o obey, exec c s = .next (s.received.takeOrder o obey) := by
      simp only [List.mem_cons, List.not_mem_nil, or_false] at hc
      rcases hc with rfl | rfl | rfl | rfl
      all_goals exact ⟨_, _, order_addressed _ hd⟩
    obtain ⟨o, obey, hexec⟩ := hexec
    rw [hexec]
    refine ⟨fun ha hslot => congrArg _ (State.takeOrder_ignored obey ha hslot), fun hst => ?_⟩
    exact congrArg _ (State.takeOrder_discarded obey (StationState.answers_iff.2 hst))
  · exact (event_running (State.running_of_unitActive he.1)).trans (congrArg _ (State.echo_heard _ he (by rw [hf]; rfl)))

end Sys2Proof.Machine

namespace Sys2Proof.Machine

open Sys2Proof.Config

/-! ### An image read that fails (R150, R184, R186, R187) -/

/-- An image that is refused is refused for its first failing check. -/
theorem validate_error {address : Nat} {bytes : List Byte} {f : ConfigFault} (h : validate address bytes = .error f) :
    CheckFails address bytes f.code f.item ∧
      ∀ code item, code.number < f.code.number → ¬ CheckFails address bytes code item := by
  have ha := validate_answers address bytes
  rw [h] at ha
  exact ha

/-- Where no byte was read, the address is judged and then the length (R186 codes 1 and 2). -/
theorem validate_nil (address : Nat) :
    validate address [] =
      .error
        (if 1 ≤ address ∧ address ≤ 8 then { code := .readFailed, item := some 0 }
        else { code := .badAddress, item := some address }) := by
  by_cases h : 1 ≤ address ∧ address ≤ 8 <;> simp [validate, h, imageLength]

theorem State.imageRead_refused {s : State} {bytes : List Byte} {f : ConfigFault} (occupied : PocketLevels)
    (cartridge : Bool) (hst : s.ctl.station = .loading) (hf : validate s.address bytes = .error f) :
    s.imageRead bytes occupied cartridge = s.failLoading f := by
  simp only [State.imageRead, hst, hf]

theorem State.failLoading_safe {s : State} (f : ConfigFault) (h : s.ctl.linkLossHeld = true) :
    s.failLoading f = s.clearHeld.budgetUnset.enterSafe.onCtl fun k => { k with linkLossHeld := false } :=
  if_pos h

theorem State.failLoading_configFault {s : State} (f : ConfigFault) (h : s.ctl.linkLossHeld = false) :
    s.failLoading f =
      s.clearHeld.budgetUnset.stopHead.onCtl fun k =>
        { k with station := .configFault, configFault := some f, heldCause := none } :=
  if_neg (by simp [h])

/-- Settles O9: the order of the checks by what validation can answer, the failed read by the link loss held or not. -/
theorem failedValidationEntersConfigFault : Obligations.FailedValidationEntersConfigFault := by
  refine ⟨rfl, fun address bytes f => validate_error, fun c bytes f s hr hst hc u hu => ?_⟩
  subst hu
  have hexec : exec c s = .next (s.failLoading f) := by
    rcases hc with ⟨⟨occupied, cartridge, rfl⟩, hf⟩ | ⟨rfl, rfl⟩
    · exact (event_running hr).trans (congrArg _ (State.imageRead_refused occupied cartridge hst hf))
    · exact (event_running hr).trans (congrArg _ (State.imageRead_refused noLevels false hst (validate_nil s.address)))
  exact ⟨s.failLoading f, hexec, fun hl => State.failLoading_safe f hl, fun hl => State.failLoading_configFault f hl⟩

end Sys2Proof.Machine

namespace Sys2Proof.Machine

open Sys2Proof.Config

/-! ### The values of an accepted image (R46 to R48, R122, R163, R185, R186) -/

/-- An accepted image fails no check and its values are those read at their offsets. -/
theorem validate_ok {address : Nat} {bytes : List Byte} {c : StationConfig} (h : validate address bytes = .ok c) :
    (∀ code item, ¬ CheckFails address bytes code item) ∧ c = readConfig bytes ∧ ImageGives bytes c := by
  have ha := validate_answers address bytes
  rw [h] at ha
  exact ha

/-- What holds first nowhere holds nowhere. -/
theorem FirstOf.not_of_forall_not {P : Nat → Prop} (h : ∀ k, ¬ FirstOf P k) (n : Nat) : ¬ P n := by
  intro hn
  classical
  exact h (Nat.find ⟨n, hn⟩) ⟨Nat.find_spec ⟨n, hn⟩, fun _ hm => Nat.find_min ⟨n, hn⟩ hm⟩

/-- A verdict byte in range that encodes ACCEPT gives a fit of 1 to 15 (R46, R186). -/
theorem VerdictOf.fit_within {b fit : Nat} {v : Verdict} (hv : VerdictOf b v) (hb : ¬ VerdictFails b)
    (hfit : v = .accept fit) : 1 ≤ fit ∧ fit ≤ 15 := by
  obtain ⟨haccept, hrefuse⟩ := hv
  rcases Nat.lt_or_ge b 128 with hlow | hhigh
  · rw [hrefuse hlow] at hfit
    exact absurd hfit (by simp)
  · rw [haccept hhigh, Verdict.accept.injEq] at hfit
    unfold VerdictFails at hb
    omega

theorem RuleAt.verdict_of {i : List Byte} {o : Nat} {r : Rule} (h : RuleAt i o r) :
    VerdictOf (byteAt i (o + 2)) r.verdict := by
  obtain ⟨v, hv, hr⟩ := h
  split at hr
  · obtain ⟨_, _, -, -, rfl⟩ := hr
    exact hv
  · rw [hr]
    exact hv

theorem readMapEntry_overflow_pos {i : List Byte} {o b : Nat} (h : (readMapEntry i o).overflow = some b) : 1 ≤ b := by
  simp only [readMapEntry] at h
  split at h
  · exact absurd h (by simp)
  · next hne =>
    obtain rfl : byteAt i (o + 4) = b := by simpa using h
    exact Nat.pos_of_ne_zero hne

/-- Of the four mode codes, 3 alone is BLOCK (R185). -/
theorem readMode_block {n : Nat} (hn : n < 4) (h : readMode n = .block) : n = 3 := by
  match n with
  | 0 | 1 | 2 => exact absurd h (by decide)
  | 3 => rfl
  | n + 4 => omega

theorem byteAt_modeCode_lt (i : List Byte) (o : Nat) : byteAt i o / 64 < 4 :=
  Nat.div_lt_of_lt_mul (i.getD o 0).isLt

/-- The ranges of the values at offsets 0 to 20 (R185). -/
theorem not_headerFails_iff (i : List Byte) :
    (∀ o, ¬ HeaderFails i o) ↔
      byteAt i 0 < 8 ∧ (10 ≤ byteAt i 1 ∧ byteAt i 1 ≤ 120) ∧ (8 ≤ byteAt i 2 ∧ byteAt i 2 ≤ 48) ∧
        (4 ≤ byteAt i 3 ∧ byteAt i 3 ≤ 24) ∧ (40 ≤ wordAt i 4 ∧ wordAt i 4 ≤ 400) ∧
        (10 ≤ byteAt i 6 ∧ byteAt i 6 ≤ 60) ∧ (100 ≤ wordAt i 7 ∧ wordAt i 7 ≤ 5000) ∧
        (100 ≤ wordAt i 9 ∧ wordAt i 9 ≤ 700) ∧ (700 ≤ wordAt i 11 ∧ wordAt i 11 ≤ 1023) ∧
        (1 ≤ byteAt i 13 ∧ byteAt i 13 ≤ 60) ∧ (10 ≤ wordAt i 14 ∧ wordAt i 14 ≤ 600) ∧
        (2 ≤ byteAt i 16 ∧ byteAt i 16 ≤ 15) ∧ (1 ≤ byteAt i 17 ∧ byteAt i 17 ≤ 30) ∧
        (2 ≤ byteAt i 18 ∧ byteAt i 18 ≤ 4) ∧ ¬ VerdictFails (byteAt i 19) ∧ byteAt i 20 ≤ 16 := by
  simp only [HeaderFails, not_or, not_and (a := _ = _), forall_and, forall_eq, not_not, Nat.not_le, Nat.not_lt]

section Accepted

variable {address : Nat} {i : List Byte} (h : ∀ code item, ¬ CheckFails address i code item)
include h

theorem not_byteFails_of_accepted : ∀ o, ¬ ByteFails i o :=
  FirstOf.not_of_forall_not fun o ho => h .outOfRange (some o) ⟨o, ho, rfl⟩

theorem not_binOutsideRack_of_accepted {k : Nat} {e : MapEntry} (hk : (readMap i)[k]? = some e) :
    binOutsideRack (byteAt i 2) e = false :=
  Bool.eq_false_iff.2 fun hout =>
    FirstOf.not_of_forall_not (fun n hn => h .mapBin (some (n + 1)) ⟨n, hn, rfl⟩) k
      ((mapBin_iff i k).2 ⟨e, hk, hout⟩)

theorem not_sameBin_of_accepted {k : Nat} {e : MapEntry} (hk : (readMap i)[k]? = some e) : sameBin e = false :=
  Bool.eq_false_iff.2 fun heq =>
    FirstOf.not_of_forall_not (fun n hn => h .mapSameBin (some (n + 1)) ⟨n, hn, rfl⟩) k
      ((mapSameBin_iff i k).2 ⟨e, hk, heq⟩)

/-- The end of a chain is no SET_MASK (code 9). -/
theorem chain_end_not_mask_of_accepted {r : Rule} (hr : r ∈ readRules i 21 24) (hj : r.join = false) :
    r.isMask = false := by
  have hbytes := not_byteFails_of_accepted h
  obtain ⟨-, -, hactive, -, -, -⟩ := readConfig_gives hbytes
  obtain ⟨k, hk⟩ := List.mem_iff_getElem?.1 hr
  refine Bool.eq_false_iff.2 fun hmask => ?_
  exact FirstOf.not_of_forall_not (fun n hn => h .chainMaskEnd (some (n + 1)) ⟨_, n, hactive, hn, rfl⟩) k
    ((chainMaskEnd_iff hbytes k).2 ⟨r, hk, by simp [maskEnd, hj, hmask]⟩)

/-- The end of a chain carries a verdict in range (R46, code 4). -/
theorem chain_end_fit_of_accepted {r : Rule} (hr : r ∈ readRules i 21 24) (hj : r.join = false) {fit : Nat}
    (hfit : r.verdict = .accept fit) : 1 ≤ fit ∧ fit ≤ 15 := by
  have hbytes := not_byteFails_of_accepted h
  obtain ⟨-, -, ⟨hle, hused, -⟩, hrules, -, -⟩ := readConfig_gives hbytes
  obtain ⟨k, hk⟩ := List.mem_iff_getElem?.1 hr
  have hlt : k < (readRules i 21 24).length := (List.getElem?_eq_some_iff.1 hk).1
  have hplain : byteAt i (21 + 3 * k) % 2 = 0 := by
    have := mt (readRules_get hbytes hk).2.2 (by simp [hj])
    omega
  have hfits : ¬ VerdictFails (byteAt i (21 + 3 * k + 2)) := fun hfails =>
    hbytes _ (.inr (.inl ⟨k, Nat.lt_of_lt_of_le hlt hle, fun j hjk => hused j (Nat.lt_of_le_of_lt hjk hlt),
      .inr ⟨rfl, hplain, hfails⟩⟩))
  exact (hrules k r hk).verdict_of.fit_within hfits hfit

/-- The last active entry is joined to nothing (code 8). -/
theorem last_not_join_of_accepted {r : Rule} (hr : (readRules i 21 24).getLast? = some r) : r.join = false := by
  refine Bool.eq_false_iff.2 fun hj => ?_
  have hopen : openChain (readRules i 21 24) = some (readRules i 21 24).length := by simp [openChain, hr, hj]
  exact h .chainOpen _ ((openChain_spec (not_byteFails_of_accepted h)).1 _ hopen)

/-- The parts of a map entry that is not OFF lie in their ranges (R122, code 4). -/
theorem mapEntry_parts_of_accepted {k : Nat} (hlt : k < byteAt i 20) (hon : byteAt i (93 + 5 * k) / 64 ≠ 0) :
    (byteAt i (93 + 5 * k) / 64 = 3 → 1 ≤ byteAt i (93 + 5 * k) % 8 ∧ byteAt i (93 + 5 * k) % 8 ≤ 5) ∧
      (1 ≤ byteAt i (93 + 5 * k + 1) ∧ byteAt i (93 + 5 * k + 1) ≤ 250) ∧
      (1 ≤ byteAt i (93 + 5 * k + 2) ∧ byteAt i (93 + 5 * k + 2) ≤ 60) ∧ byteAt i (93 + 5 * k + 3) ≠ 0 := by
  have hparts : ∀ o, ¬ MapFails i 93 (byteAt i 20) o := fun o ho => not_byteFails_of_accepted h o (.inr (.inr ho))
  refine ⟨fun hblock => ?_, ?_, ?_, fun hp => hparts _ ⟨k, hlt, hon, .inr (.inr (.inr ⟨rfl, hp⟩))⟩⟩
  · exact by_contra fun hx => hparts _ ⟨k, hlt, hon, .inl ⟨rfl, .inr ⟨hblock, hx⟩⟩⟩
  · exact by_contra fun hx => hparts _ ⟨k, hlt, hon, .inr (.inl ⟨rfl, hx⟩)⟩
  · exact by_contra fun hx => hparts _ ⟨k, hlt, hon, .inr (.inr (.inl ⟨rfl, hx⟩))⟩

/-- A map entry that is not OFF has its parts in range and names bins of the rack, an overflow bin other than its primary
(R122; codes 4, 6 and 7). -/
theorem mapEntry_of_accepted {e : MapEntry} (he : e ∈ readMap i) (hon : e.mode ≠ .off) :
    1 ≤ e.classCode ∧ e.classCode ≤ 250 ∧ 1 ≤ e.rollBound ∧ e.rollBound ≤ 60 ∧ 1 ≤ e.primary ∧
      e.primary ≤ byteAt i 2 ∧ (∀ b, e.overflow = some b → 1 ≤ b ∧ b ≤ byteAt i 2 ∧ b ≠ e.primary) ∧
      (e.mode = .block → 1 ≤ e.exponent ∧ e.exponent ≤ 5) := by
  obtain ⟨k, hk⟩ := List.mem_iff_getElem?.1 he
  have hrack := not_binOutsideRack_of_accepted h hk
  have hother := not_sameBin_of_accepted h hk
  simp only [binOutsideRack, sameBin, hon, ne_eq, not_false_eq_true, decide_true, Bool.true_and, Bool.or_eq_false_iff,
    decide_eq_false_iff_not, Nat.not_lt] at hrack hother
  obtain ⟨hprimary, hoverflow⟩ := hrack
  obtain ⟨hlt, rfl⟩ := readMap_get.1 hk
  obtain ⟨hblock, ⟨hc1, hc2⟩, ⟨hb1, hb2⟩, hp⟩ := mapEntry_parts_of_accepted h hlt ((readMode_off i _).1 hon)
  refine ⟨hc1, hc2, hb1, hb2, Nat.pos_of_ne_zero hp, hprimary, fun b hb => ⟨readMapEntry_overflow_pos hb, ?_, ?_⟩,
    fun hm => hblock ?_⟩
  · rwa [hb] at hoverflow
  · rintro rfl
    exact hother hb
  · exact readMode_block (byteAt_modeCode_lt i _) hm

end Accepted

/-- Settles O11: what validation can answer gives the values, and each check that does not fail gives a range. -/
theorem validatedImageGivesItsValuesInTheirRanges : Obligations.ValidatedImageGivesItsValuesInTheirRanges := by
  refine ⟨fun bytes o => ⟨rfl, rfl⟩, fun address bytes c hc => ?_⟩
  obtain ⟨h, rfl, hgives⟩ := validate_ok hc
  have haddress : 1 ≤ address ∧ address ≤ 8 := by_contra fun hx => h .badAddress (some address) ⟨hx, rfl⟩
  have hlength : 175 ≤ bytes.length := Nat.le_of_not_lt fun hx => h .readFailed (some bytes.length) ⟨hx, rfl⟩
  have hsheets : byteAt bytes 1 ≤ wordAt bytes 4 := Nat.le_of_not_lt fun hx => h .sheetCapacity none ⟨hx, rfl⟩
  obtain ⟨-, ⟨hpocket1, hpocket2⟩, ⟨hrack1, hrack2⟩, ⟨hpacks1, hpacks2⟩, ⟨hcap1, hcap2⟩, ⟨htray1, htray2⟩, ⟨hcart1, hcart2⟩,
    ⟨hlow1, hlow2⟩, ⟨hover1, hover2⟩, ⟨hgap1, hgap2⟩, ⟨hfirst1, hfirst2⟩, ⟨hdrop1, hdrop2⟩, ⟨htime1, htime2⟩,
    ⟨hhold1, hhold2⟩, hdefault, hentries⟩ :=
    (not_headerFails_iff bytes).1 fun o ho => not_byteFails_of_accepted h o (.inl ho)
  have hverdict : VerdictOf (byteAt bytes 19) (readConfig bytes).defaultVerdict := readVerdict_of _
  have hrules : (readConfig bytes).rules.length ≤ 24 := (readRules_spec bytes 24 21).1
  have hmap : (readConfig bytes).map.length ≤ 16 := (readMap_spec bytes).1.trans_le hentries
  exact ⟨h, hgives, haddress.1, haddress.2, hlength, hpocket1, hpocket2, hrack1, hrack2, hpacks1, hpacks2, hcap1, hcap2,
    hsheets, htray1, htray2, hcart1, hcart2, hlow1, hlow2, hover1, hover2, hgap1, hgap2, hfirst1, hfirst2, hdrop1, hdrop2,
    htime1, htime2, hhold1, hhold2, hrules, hmap, fun fit hfit => hverdict.fit_within hdefault hfit,
    fun r hr hj => ⟨chain_end_not_mask_of_accepted h hr hj, fun fit => chain_end_fit_of_accepted h hr hj⟩,
    fun r => last_not_join_of_accepted h, fun e => mapEntry_of_accepted h⟩

end Sys2Proof.Machine

namespace Sys2Proof.Machine

open Sys2Proof.Config

/-! ### The evaluation of an offer (R49 to R55) -/

theorem compareHolds_iff (value entry mask : Byte) :
    (compareHolds .eq mask value entry = true ↔ value &&& mask = entry &&& mask) ∧
      (compareHolds .ne mask value entry = true ↔ value &&& mask ≠ entry &&& mask) ∧
      (compareHolds .ge mask value entry = true ↔ entry.toNat ≤ value.toNat) ∧
      (compareHolds .lt mask value entry = true ↔ value.toNat < entry.toNat) := by
  simp only [compareHolds, decide_eq_true_eq, and_self]

theorem walkChain_compare (o : Offer) (mask value : Byte) (field : RuleField) (relation : Relation) (join : Bool)
    (verdict : Verdict) (rest : List Rule) :
    walkChain o mask (.compare field relation value join verdict :: rest) =
      if compareHolds relation mask (BitVec.ofNat 8 (ruleValue o field)) value then
        if rest = [] then some verdict else walkChain o mask rest
      else none := by
  cases rest with
  | nil => rfl
  | cons r rest => rw [if_neg (List.cons_ne_nil r rest)]; rfl

theorem walkChain_setMask (o : Offer) (mask value : Byte) (join : Bool) (verdict : Verdict) (rest : List Rule) :
    walkChain o mask (.setMask value join verdict :: rest) =
      if rest = [] then some verdict else walkChain o value rest := by
  cases rest with
  | nil => rfl
  | cons r rest => rw [if_neg (List.cons_ne_nil r rest)]; rfl

theorem walkChains_eq_findSome? (o : Offer) (mask : Byte) (chains : List (List Rule)) :
    walkChains o mask chains = chains.findSome? (walkChain o mask) := by
  induction chains with
  | nil => rfl
  | cons c cs ih => cases h : walkChain o mask c <;> simp [walkChains, h, ih]

/-- The verdict is that of the first chain that decides, and the default where none does (R52, R54, R55). -/
theorem intakeVerdict_eq_iff (c : StationConfig) (o : Offer) (v : Verdict) :
    intakeVerdict c o = v ↔
      (∃ before chain after, chainsOf c.rules = before ++ chain :: after ∧
          (∀ x ∈ before, walkChain o 255 x = none) ∧ walkChain o 255 chain = some v) ∨
        (∀ x ∈ chainsOf c.rules, walkChain o 255 x = none) ∧ c.defaultVerdict = v := by
  have hsome := List.findSome?_eq_some_iff (f := walkChain o 255) (l := chainsOf c.rules) (b := v)
  have hnone := List.findSome?_eq_none_iff (p := walkChain o 255) (l := chainsOf c.rules)
  unfold intakeVerdict
  rw [walkChains_eq_findSome?, ← hnone]
  simp only [and_comm (b := _ = some v), ← hsome]
  cases (chainsOf c.rules).findSome? (walkChain o 255) <;> simp

/-! ### The division into chains (R48) -/

/-- A chain as R48 ties it: it holds an entry, and each entry but its last is joined to the next. -/
def ChainTied (chain : List Rule) : Prop := chain ≠ [] ∧ ∀ r ∈ chain.dropLast, r.join = true

/-- A chain that another follows ends at an entry that is not joined to the next. -/
def ChainEnded (chain : List Rule) : Prop := ∀ r, chain.getLast? = some r → r.join = false

theorem chainsOf_cons_of_not_join {r : Rule} (h : r.join = false) (rest : List Rule) :
    chainsOf (r :: rest) = [r] :: chainsOf rest := by
  simp [chainsOf, h]

/-- A joined entry is put ahead of the first chain of what follows it; it is a chain by itself where nothing follows. -/
theorem chainsOf_cons_of_join {r : Rule} (h : r.join = true) (rest : List Rule) :
    chainsOf (r :: rest) = (r :: (chainsOf rest).headD []) :: (chainsOf rest).tail := by
  cases hc : chainsOf rest <;> simp [chainsOf, h, hc]

theorem flatten_chainsOf (rules : List Rule) : (chainsOf rules).flatten = rules := by
  induction rules with
  | nil => rfl
  | cons r rest ih =>
    cases hj : r.join with
    | false => rw [chainsOf_cons_of_not_join hj, List.flatten_cons, ih, List.singleton_append]
    | true =>
      rw [chainsOf_cons_of_join hj]
      cases hc : chainsOf rest <;> simpa [hc] using ih

theorem ChainTied.cons {r : Rule} {chain : List Rule} (h : ChainTied chain) (hj : r.join = true) :
    ChainTied (r :: chain) := by
  obtain ⟨hne, htied⟩ := h
  refine ⟨List.cons_ne_nil r chain, ?_⟩
  rw [List.dropLast_cons_of_ne_nil hne]
  exact List.forall_mem_cons.2 ⟨hj, htied⟩

theorem ChainTied.singleton (r : Rule) : ChainTied [r] := ⟨List.cons_ne_nil r [], nofun⟩

theorem chainsOf_tied (rules : List Rule) : ∀ chain ∈ chainsOf rules, ChainTied chain := by
  induction rules with
  | nil => exact nofun
  | cons r rest ih =>
    cases hj : r.join with
    | false =>
      rw [chainsOf_cons_of_not_join hj]
      exact List.forall_mem_cons.2 ⟨.singleton r, ih⟩
    | true =>
      rw [chainsOf_cons_of_join hj]
      cases hc : chainsOf rest with
      | nil => exact List.forall_mem_cons.2 ⟨.singleton r, nofun⟩
      | cons chain chains =>
        rw [hc] at ih
        obtain ⟨hfirst, hothers⟩ := List.forall_mem_cons.1 ih
        exact List.forall_mem_cons.2 ⟨hfirst.cons hj, hothers⟩

theorem ChainEnded.cons {r : Rule} {chain : List Rule} (h : ChainEnded chain) (hne : chain ≠ []) :
    ChainEnded (r :: chain) := by
  intro x hx
  rw [List.getLast?_cons_of_ne_nil hne] at hx
  exact h x hx

theorem chainsOf_ended (rules : List Rule) : ∀ chain ∈ (chainsOf rules).dropLast, ChainEnded chain := by
  induction rules with
  | nil => exact nofun
  | cons r rest ih =>
    have htied := chainsOf_tied rest
    cases hj : r.join with
    | false =>
      rw [chainsOf_cons_of_not_join hj]
      have hended : ChainEnded [r] := fun x hx => by
        obtain rfl : r = x := by simpa using hx
        exact hj
      cases hc : chainsOf rest with
      | nil => exact nofun
      | cons chain chains =>
        rw [hc] at ih
        exact List.forall_mem_cons.2 ⟨hended, ih⟩
    | true =>
      rw [chainsOf_cons_of_join hj]
      match hc : chainsOf rest with
      | [] | [_] => exact nofun
      | chain :: next :: chains =>
        rw [hc] at ih htied
        obtain ⟨hfirst, hothers⟩ := List.forall_mem_cons.1 ih
        exact List.forall_mem_cons.2 ⟨hfirst.cons (htied chain List.mem_cons_self).1, hothers⟩

/-- Settles O53: the chains by induction on the active entries, the verdict by the first chain that decides. -/
theorem firstDecidingChainGivesTheVerdict : Obligations.FirstDecidingChainGivesTheVerdict := by
  intro c o v
  have hfinish : ruleValue o .finish = o.finish.need := rfl
  refine ⟨⟨rfl, rfl, rfl, by rw [hfinish]; cases o.finish <;> rfl, rfl, rfl⟩, compareHolds_iff,
    fun mask value field relation join verdict rest =>
      ⟨walkChain_compare o mask value field relation join verdict rest, walkChain_setMask o mask value join verdict rest⟩,
    flatten_chainsOf c.rules, chainsOf_tied c.rules, ?_, intakeVerdict_eq_iff c o v⟩
  intro before chain after hc hafter
  refine chainsOf_ended c.rules chain ?_
  rw [hc, List.dropLast_append_cons, List.dropLast_cons_of_ne_nil hafter]
  exact List.mem_append_right before List.mem_cons_self

end Sys2Proof.Machine

namespace Sys2Proof.Machine
open Sys2Proof.Config

/-! ### Half a second (R71 to R73, R83, R117, R155) -/

theorem step_empty {s : State} (h : s.pending = []) : step s = .next s.tick := by simp only [step, h]

theorem State.tick_not_running {s : State} (h : s.running = false) : s.tick = s := by simp [State.tick, h]

/-- Pocket timers run in RUN, DRAIN and STANDBY alone (R73). -/
theorem State.tickPockets_get (s : State) (p : PocketId) :
    s.tickPockets.pockets.get p =
      { s.pockets.get p with
        timer :=
          if s.ctl.station.gates then (s.pockets.get p).timer.map PocketTimer.tick else (s.pockets.get p).timer } := by
  unfold State.tickPockets
  split
  · cases p <;> rfl
  · rfl

theorem State.tickPockets_eq (s : State) : s.tickPockets = { s with pockets := s.tickPockets.pockets } := by
  unfold State.tickPockets
  split <;> rfl

/-- A part that takes events runs its pocket timers, the limit of the head and the renewal timer, and nothing else. -/
theorem State.tick_running {s : State} (h : s.running = true) :
    s.tick =
      { s with
        pockets := s.tickPockets.pockets
        head := { s.head with state := s.head.state.tick }
        ctl := { s.ctl with hold := { s.ctl.hold with timer := s.ctl.hold.timer.map fun n => n - 1 } } } := by
  rw [State.tick, if_pos h, State.tickPockets_eq]
  rfl

/-- Settles O2: a part that takes no event idles, and in one that does each timer ticks in its own block. -/
theorem emptyQueueLetsHalfASecondPass : Obligations.EmptyQueueLetsHalfASecondPass := by
  intro s hs
  refine ⟨s.tick, step_empty hs, State.tick_not_running, fun hr => ?_⟩
  rw [State.tick_running hr]
  refine ⟨rfl, rfl, rfl, rfl, rfl, rfl, rfl, rfl, ?_, fun p => s.tickPockets_get p⟩
  show { s.head with state := s.head.state.tick } = _
  cases s.head.state <;> rfl

end Sys2Proof.Machine

namespace Sys2Proof

/-! ### The printed mark (R58, R59) -/

/-- The last four places of a byte. -/
theorem Byte.low_places_zero (b : Byte) :
    b.toNat % 16 = 0 ↔
      b.getLsbD 0 = false ∧ b.getLsbD 1 = false ∧ b.getLsbD 2 = false ∧ b.getLsbD 3 = false := by
  simp only [BitVec.getLsbD, Nat.testBit_eq_decide_div_mod_eq, decide_eq_false_iff_not]
  omega

/-- A place of a mark that R58 gives as zero is 1. -/
theorem SheetMark.zeroPlaces_iff (m : SheetMark) :
    ¬ m.zeroPlaces = true ↔
      m.b1.getLsbD 0 = true ∨ m.b2.getLsbD 7 = true ∨ m.b3.getLsbD 0 = true ∨ m.b3.getLsbD 1 = true ∨
        m.b3.getLsbD 2 = true ∨ m.b3.getLsbD 3 = true := by
  simp only [SheetMark.zeroPlaces, Byte.low_places_zero, Bool.and_eq_true, Bool.not_eq_true', decide_eq_true_eq,
    ← Bool.not_eq_true]
  tauto

theorem SheetMark.groupSum_eq (m : SheetMark) :
    m.groupSum =
      m.b0.toNat / 16 + m.b0.toNat % 16 + (m.b1.toNat / 16 + m.b1.toNat % 16) + (m.b2.toNat / 16 + m.b2.toNat % 16) +
        (m.b3.toNat / 16 + m.b3.toNat % 16) := by
  simp [SheetMark.groupSum, Nat.add_assoc]

/-- The checks of R59 on a mark. -/
def SheetMark.Readable (m : SheetMark) : Prop :=
  m.groupSum % 16 = 0 ∧ m.zeroPlaces = true ∧ m.serial ≠ 0 ∧ m.sheetIndex ≠ 0 ∧ m.sheetIndex ≤ 120

theorem SheetMark.serial_eq (m : SheetMark) : m.serial = 64 * (m.b0.toNat % 64) + m.b1.toNat / 4 := by
  rw [SheetMark.serial, Nat.mul_comm]

/-- The five cases of R59. -/
theorem SheetMark.not_readable_iff (m : SheetMark) :
    ¬ m.Readable ↔
      m.groupSum % 16 ≠ 0 ∨ ¬ m.zeroPlaces = true ∨ m.serial = 0 ∨ m.sheetIndex = 0 ∨ 120 < m.sheetIndex := by
  simp only [SheetMark.Readable, ← Nat.not_le]
  tauto

end Sys2Proof

namespace Sys2Proof.Machine

open Sys2Proof.Config

theorem decodeMark_readable {m : SheetMark} (h : m.Readable) :
    decodeMark (some m) =
      some { id := { feed := 16 + m.b0.toNat / 64, serial := m.serial }, index := m.sheetIndex,
             last := m.b1.getLsbD 1 } := if_pos h

theorem decodeMark_unreadable {m : SheetMark} (h : ¬ m.Readable) : decodeMark (some m) = none := if_neg h

/-- Settles O38: by whether the checks of R59 hold of the mark. -/
theorem markIsReadableExactlyWhenItsChecksHold : Obligations.MarkIsReadableExactlyWhenItsChecksHold := by
  refine ⟨rfl, fun m => ⟨?_, fun k hk => ?_⟩⟩
  · rw [← m.groupSum_eq, ← m.zeroPlaces_iff, ← m.serial_eq]
    refine Iff.trans ⟨fun hn hr => ?_, decodeMark_unreadable⟩ m.not_readable_iff
    exact absurd (hn.symm.trans (decodeMark_readable hr)) nofun
  · by_cases hr : m.Readable
    · rw [decodeMark_readable hr] at hk
      rw [← Option.some.inj hk, m.serial_eq]
      rfl
    · exact absurd (hk.symm.trans (decodeMark_unreadable hr)) nofun

/-! ### The gate (R60, R61, R63) -/

theorem exec_sheetAtGate (raw : Option SheetMark) {s : State} (h : s.running = true) :
    exec (.sheetAtGate raw) s = .next (s.sheetArrives raw) := event_running h

theorem StationState.gates_iff {st : StationState} :
    st.gates = true ↔ st = .run ∨ st = .drain ∨ st = .standby := by
  cases st <;> simp [StationState.gates]

/-- Outside RUN, DRAIN and STANDBY the gate passes every sheet (R60). -/
theorem State.sheetArrives_closed {s : State} (raw : Option SheetMark) (h : s.ctl.station.gates = false) :
    s.sheetArrives raw = s.divertTo none := by simp [State.sheetArrives, h]

theorem State.sheetArrives_unreadable {s : State} {raw : Option SheetMark} (h : s.ctl.station.gates = true)
    (hm : decodeMark raw = none) : s.sheetArrives raw = (s.divertTo none).count .unreadable := by
  simp [State.sheetArrives, h, hm]

/-- A sheet of a pack without an own annex is passed (R61). -/
theorem State.sheetArrives_foreign {s : State} {raw : Option SheetMark} {m : Mark} (h : s.ctl.station.gates = true)
    (hm : decodeMark raw = some m) (hl : ∀ e a, s.lookup m.id ≠ .own e a) : s.sheetArrives raw = s.divertTo none := by
  simp only [State.sheetArrives, h, hm, if_true]
  split
  · rfl
  · rfl
  · rfl
  · next e a ho => exact absurd ho (hl e a)

theorem State.sheetArrives_own {s : State} {raw : Option SheetMark} {m : Mark} {e : Entry} {a : Annex}
    (h : s.ctl.station.gates = true) (hm : decodeMark raw = some m) (he : s.entry m.id = some e)
    (hst : e.state = .placed s.address (some a)) :
    s.sheetArrives raw = (s.divertTo none).sheetAtPocket a.pocket e.offer m := by
  simp [State.sheetArrives, h, hm, State.lookup, he, hst]

/-- Settles O39: by the station state, the mark and what the Pack Table says of its pack. -/
theorem gatePassesSheetsOfNoOwnPack : Obligations.GatePassesSheetsOfNoOwnPack := by
  intro raw s hr
  rw [exec_sheetAtGate raw hr]
  refine ⟨StationState.gates_iff, fun hg => ?_, fun hg hm => ?_, fun m hg hm hforeign => ?_⟩
  · rw [State.sheetArrives_closed raw hg]
    rfl
  · rw [State.sheetArrives_unreadable hg hm]
    rfl
  · rw [State.sheetArrives_foreign hg hm]
    · rfl
    · intro e' a'
      rcases hforeign with he | ⟨e, bids, he, hst⟩ | ⟨e, o, a, he, hst, ho⟩
      · simp [State.lookup, he]
      · simp [State.lookup, he, hst]
      · simp [State.lookup, he, hst, ho]

end Sys2Proof.Machine

namespace Sys2Proof.Machine

open Sys2Proof.Config

/-! ### A sheet for a pocket that has closed (R68 to R70) -/

section Extra

variable {s : State} {p : PocketId} {r : AsideReason} {o : Offer} {m : Mark}

theorem State.sheetAtPocket_atHead (h : (s.pockets.get p).state = .atHead .finish) :
    s.sheetAtPocket p o m = s.extraSheet.onPocket p fun q => { q with extraSeen := true } := by
  simp only [State.sheetAtPocket, h]

theorem State.sheetAtPocket_waiting (h : (s.pockets.get p).state = .waiting .finish) :
    s.sheetAtPocket p o m = s.extraSheet.convertWaiting p .extra := by
  simp only [State.sheetAtPocket, h]

/-- A set-aside and a pack that has left the head are beyond change (R68 to R70). -/
theorem State.sheetAtPocket_extra
    (h : (∃ r, (s.pockets.get p).state = .waiting (.setAside r) ∨ (s.pockets.get p).state = .atHead (.setAside r)) ∨
      ∃ j, (s.pockets.get p).state = .retiring j) : s.sheetAtPocket p o m = s.extraSheet := by
  unfold State.sheetAtPocket
  rcases h with ⟨r, h | h⟩ | ⟨j, h⟩ <;> rw [h]

/-- The entry of a converted pocket, where it is still queued, comes from the entry it had (R88). -/
theorem State.convertWaiting_queue {x : QueueEntry} (hx : x ∈ (s.convertWaiting p r).head.queue) (hp : x.pocket = p) :
    x.job = .setAside r ∧ x.lane = .normal ∧ BlockedBy p (.setAside r) x.blocked (s.convertWaiting p r) ∧
      ∃ y ∈ s.head.queue, y.pocket = p ∧ x.stamp = y.stamp ∧ x.strokes = y.strokes := by
  obtain ⟨z, hz, hxz⟩ := State.serve_queue (s := s.converted p r) hx
  obtain ⟨hpocket, hjob, hlane, hstamp, hblocked, hstrokes⟩ : x.pocket = z.pocket ∧ x.job = z.job ∧ x.lane = z.lane ∧
      x.stamp = z.stamp ∧ x.blocked = z.blocked ∧ x.strokes = z.strokes := by
    rcases hxz with rfl | ⟨n, rfl⟩
    · exact ⟨rfl, rfl, rfl, rfl, rfl, rfl⟩
    · exact passOver_parts n z
  obtain ⟨y, hy, rfl⟩ := (s.mem_converted_queue p r).1 hz
  have hyp : y.pocket = p := by
    rw [hp] at hpocket
    split at hpocket
    · next h => exact h
    · exact hpocket.symm
  rw [if_pos hyp] at hjob hlane hstamp hblocked hstrokes
  rw [hjob, hlane, hblocked]
  exact ⟨rfl, rfl, (s.asideReason_blocked p r).setAside_congr (by simp) (by simp), y, hy, hyp, hstamp, hstrokes⟩

end Extra

/-- Settles O41: by the state of the bound pocket. -/
theorem closedPocketPassesExtraSheets : Obligations.ClosedPocketPassesExtraSheets := by
  intro raw m e p bin stage k s hr hg hm he hst hk
  subst hk
  rw [exec_sheetAtGate raw hr, State.sheetArrives_own hg hm he hst]
  refine ⟨fun hp => ?_, fun hp => ?_, fun hp hq => ?_⟩
  · rw [State.sheetAtPocket_atHead (s := s.divertTo none) hp]
    rfl
  · rw [State.sheetAtPocket_extra (s := s.divertTo none) hp]
    rfl
  · rw [State.sheetAtPocket_waiting (s := s.divertTo none) hp]
    have hholds : QueueHoldsWaiting (s.divertTo none).extraSheet := hq
    obtain ⟨hpocket, hreleased, hctl, harrivals⟩ := (s.divertTo none).extraSheet.convertWaiting_spec p .extra
    refine ⟨_, rfl, State.convertWaiting_job _ _ _, hpocket, State.convertWaiting_others hholds, State.serve_served _, ?_, ?_,
      harrivals, hreleased, hctl, ?_, ?_, ?_, ?_, ?_, State.convertWaiting_entry hholds,
      fun x hx hxp => State.convertWaiting_queue hx hxp⟩ <;> simp only [State.convertWaiting_frame] <;> rfl

end Sys2Proof.Machine

namespace Sys2Proof.Machine

open Sys2Proof.Config

/-! ### A sheet for an open pocket (R64 to R67, R71, R74) -/

/-- The decision of a FILLING pocket after a sheet in order that leaves it `n` sheets (R64, R65). -/
def judgedJob (o : Offer) (m : Mark) (n : Nat) : Option Job :=
  if o.count ≠ 0 ∧ n = o.count then some .finish
  else if m.last then (if o.count ≠ 0 then some (.setAside .short) else some .finish)
  else none

/-- The sheets that a pocket holds once its pack's sheet has been diverted into it or passed. -/
def Pocket.sheetsAfter (q : Pocket) (diverted : Bool) : Nat := if diverted then q.sheets + 1 else q.sheets

theorem absorbingCloses_iff {c : StationConfig} {o : Offer} {m : Mark} {n : Nat} :
    absorbingCloses c o m n = true ↔
      m.last = true ∨ (o.count ≠ 0 ∧ m.index = o.count) ∨ c.pocketCapacity ≤ n := by
  simp [absorbingCloses, or_assoc]

/-- What a sheet makes of an open pocket: its state and binding, and the job with which it closes, if it does. -/
structure SheetFate where
  state : PocketState
  bound : Option Binding
  job : Option Job

/-- A FILLING pocket after its next sheet, the `n`th it holds (R64, R65). -/
def Binding.judged (b : Binding) (o : Offer) (m : Mark) (n : Nat) : SheetFate :=
  { state := .filling, bound := some { b with next := b.next + 1 }, job := judgedJob o m n }

/-- A pocket that is ABSORBING, or becomes it, and closes under a condition (R64, R66, R67). -/
def Pocket.absorbed (q : Pocket) (r : AsideReason) (closes : Prop) [Decidable closes] : SheetFate :=
  { state := .absorbing r, bound := q.bound, job := if closes then some (.setAside r) else none }

/-- A FILLING pocket whose next sheet has no room (R65). -/
def Pocket.truncated (q : Pocket) : SheetFate :=
  { state := .filling, bound := q.bound, job := some (.setAside .truncated) }

/-- What a sheet makes of an open pocket with its binding (R64 to R67). -/
def sheetFate (c : StationConfig) (o : Offer) (m : Mark) (diverted : Bool) (b : Binding) (q : Pocket) : SheetFate :=
  match q.state with
  | .reserved =>
    if m.index = 1 then b.judged o m (q.sheetsAfter diverted)
    else q.absorbed .sequence (o.count = 1 ∨ absorbingCloses c o m (q.sheetsAfter diverted) = true)
  | .filling =>
    if m.index = b.next then (if diverted then b.judged o m (q.sheetsAfter diverted) else q.truncated)
    else q.absorbed .sequence (absorbingCloses c o m (q.sheetsAfter diverted) = true)
  | .absorbing r => q.absorbed r (absorbingCloses c o m (q.sheetsAfter diverted) = true)
  | st => { state := st, bound := q.bound, job := none }

/-- A sheet leaves the pack of its pocket bound. -/
theorem sheetFate_pack (c : StationConfig) (o : Offer) (m : Mark) (diverted : Bool) {b : Binding} {q : Pocket}
    (hb : q.bound = some b) :
    (sheetFate c o m diverted b q).bound.map Binding.pack = q.bound.map Binding.pack := by
  have hjudged : (b.judged o m (q.sheetsAfter diverted)).bound.map Binding.pack = q.bound.map Binding.pack := by
    rw [hb]
    rfl
  unfold sheetFate
  split
  · split
    · exact hjudged
    · rfl
  · split
    · split
      · exact hjudged
      · rfl
    · rfl
  · rfl
  · rfl

/-- What a FILLING pocket's decision comes to, told by what its job or its lack of one brings. -/
theorem judgedJob_cases {o : Offer} {m : Mark} {n : Nat} {closes : Job → Prop} {stays : Prop}
    (hc : ∀ j, judgedJob o m n = some j → closes j) (hs : judgedJob o m n = none → stays) :
    if o.count ≠ 0 ∧ n = o.count then closes .finish
    else if m.last = true then (if o.count ≠ 0 then closes (.setAside .short) else closes .finish)
    else stays := by
  unfold judgedJob at hc hs
  (repeat' split) <;> simp_all

section OpenPocket

variable {p : PocketId} {diverted : Bool} {st : PocketState} {bd : Option Binding} {s : State} {o : Offer} {m : Mark}

/-- A sheet has been diverted into pocket `p` or passed, and the pocket stands in a state with its binding (R60, R61, R64 to
R67). -/
def State.afterSheet (p : PocketId) (diverted : Bool) (st : PocketState) (bd : Option Binding) (s : State) : State :=
  { s with
    part := { s.part with divert := if diverted then some p else none }
    ctl := { s.ctl with counters := if diverted then s.ctl.counters else s.ctl.counters.bump .ownPassed }
    pockets :=
      s.pockets.set
        { s.pockets.get p with
          state := st
          bound := bd
          sheets := (s.pockets.get p).sheetsAfter diverted
          timer := if diverted then some (.gap (2 * s.cfg.gapLimit)) else (s.pockets.get p).timer } p }

theorem State.afterSheet_get :
    (s.afterSheet p diverted st bd).pockets.get p =
      { s.pockets.get p with
        state := st
        bound := bd
        sheets := (s.pockets.get p).sheetsAfter diverted
        timer := if diverted then some (.gap (2 * s.cfg.gapLimit)) else (s.pockets.get p).timer } :=
  Pockets.get_set_self _ _ _

theorem State.afterSheet_sheets :
    ((s.afterSheet p diverted st bd).pockets.get p).sheets = (s.pockets.get p).sheetsAfter diverted := by
  rw [State.afterSheet_get]

theorem State.afterSheet_others : OtherPocketsUnchanged p s (s.afterSheet p diverted st bd) := fun _ h =>
  Pockets.get_set_other _ _ h

theorem State.afterSheet_pocketTo (st' : PocketState) :
    (s.afterSheet p diverted st bd).pocketTo p st' = s.afterSheet p diverted st' bd := by cases p <;> rfl

theorem State.afterSheet_nextIndex :
    (s.afterSheet p diverted st bd).nextIndex p =
      s.afterSheet p diverted st (bd.map fun b => { b with next := b.next + 1 }) := by cases p <;> rfl

theorem State.divertTo_pocketTo_same (h : (s.pockets.get p).state = st) :
    (s.divertTo none).pocketTo p st = s.divertTo none := by
  subst h
  cases p <;> rfl

theorem State.takeSheet_eq (st : PocketState) :
    ((s.divertTo none).pocketTo p st).takeSheet p = s.afterSheet p true st (s.pockets.get p).bound := by cases p <;> rfl

theorem State.passOwn_eq (st : PocketState) :
    ((s.divertTo none).pocketTo p st).passOwn = s.afterSheet p false st (s.pockets.get p).bound := by cases p <;> rfl

/-- The sheet's event, once the fate of the pocket is known (R74). -/
def State.sheetEnds (p : PocketId) (diverted : Bool) (f : SheetFate) (s : State) : State :=
  match f.job with
  | none => s.afterSheet p diverted f.state f.bound
  | some j => (s.afterSheet p diverted f.state f.bound).closePocket p j

/-- The pack is judged over the sheets that the pocket now holds. -/
theorem State.judgePack_ends {b : Binding} (hb : (s.pockets.get p).bound = some b) :
    ((s.afterSheet p diverted .filling (s.pockets.get p).bound).nextIndex p).judgePack p o m =
      s.sheetEnds p diverted (b.judged o m ((s.pockets.get p).sheetsAfter diverted)) := by
  rw [State.afterSheet_nextIndex, hb]
  simp only [State.judgePack, State.sheetEnds, Binding.judged, judgedJob, State.afterSheet_sheets, Option.map_some]
  (repeat' split) <;> simp_all

theorem State.absorbed_ends (r : AsideReason) (closes : Prop) [Decidable closes] :
    s.sheetEnds p diverted ((s.pockets.get p).absorbed r closes) =
      if closes then (s.afterSheet p diverted (.absorbing r) (s.pockets.get p).bound).closePocket p (.setAside r)
      else s.afterSheet p diverted (.absorbing r) (s.pockets.get p).bound := by
  unfold State.sheetEnds Pocket.absorbed
  split <;> simp_all

/-- A sheet of an ABSORBING pocket, and one that makes a FILLING pocket ABSORBING (R66, R67). -/
theorem State.absorbSheet_ends (r : AsideReason)
    (hd : diverted = decide ((s.pockets.get p).sheets < s.cfg.pocketCapacity)) :
    ((s.divertTo none).pocketTo p (.absorbing r)).absorbSheet p r o m =
      s.sheetEnds p diverted
        ((s.pockets.get p).absorbed r
          (absorbingCloses s.cfg o m ((s.pockets.get p).sheetsAfter diverted) = true)) := by
  generalize hv : (s.divertTo none).pocketTo p (.absorbing r) = v
  have htaken : (if (v.pockets.get p).sheets < v.cfg.pocketCapacity then v.takeSheet p else v.passOwn) =
      s.afterSheet p diverted (.absorbing r) (s.pockets.get p).bound := by
    rw [← hv, State.takeSheet_eq, State.passOwn_eq, State.pocketTo_get]
    show (if (s.pockets.get p).sheets < s.cfg.pocketCapacity then _ else _) = _
    split
    · next hroom => rw [hd, decide_eq_true hroom]
    · next hfull => rw [hd, decide_eq_false hfull]
  have hcfg : v.cfg = s.cfg := by rw [← hv]; rfl
  unfold State.absorbSheet
  rw [htaken, hcfg, State.absorbed_ends]
  simp only [State.afterSheet_sheets]

/-- A sheet of an open pocket ends by the pocket's fate. -/
theorem State.sheetAtPocket_ends {b : Binding} (hb : (s.pockets.get p).bound = some b)
    (hd : diverted =
      (decide ((s.pockets.get p).state = .reserved) || decide ((s.pockets.get p).sheets < s.cfg.pocketCapacity)))
    (h : (s.pockets.get p).state = .reserved ∨ (s.pockets.get p).state = .filling ∨
      ∃ r, (s.pockets.get p).state = .absorbing r) :
    (s.divertTo none).sheetAtPocket p o m =
      s.sheetEnds p diverted (sheetFate s.cfg o m diverted b (s.pockets.get p)) := by
  have hbound : ((s.divertTo none).pockets.get p).bound = some b := hb
  rcases h with hst | hst | ⟨r, hst⟩
  all_goals
    have hst' : ((s.divertTo none).pockets.get p).state = _ := hst
    have hsame := State.divertTo_pocketTo_same hst
    simp only [State.sheetAtPocket, sheetFate, hst, hst', hbound]
  · obtain rfl : diverted = true := by simpa [hst] using hd
    have htaken : (s.divertTo none).takeSheet p = s.afterSheet p true .reserved (s.pockets.get p).bound := by
      rw [← State.takeSheet_eq, hsame]
    unfold State.firstSheet
    rw [htaken]
    split
    · next hfirst =>
      dsimp only
      rw [State.afterSheet_pocketTo, State.judgePack_ends hb]
    · next hlate =>
      rw [State.absorbed_ends]
      simp only [State.afterSheet_pocketTo, State.afterSheet_sheets, Bool.or_eq_true, decide_eq_true_eq]
      rfl
  · have hroom : diverted = decide ((s.pockets.get p).sheets < s.cfg.pocketCapacity) := by simpa [hst] using hd
    have hfull : (s.divertTo none).cfg.pocketCapacity ≤ ((s.divertTo none).pockets.get p).sheets ↔
        ¬ diverted = true := by
      rw [hroom, decide_eq_true_eq, Nat.not_lt]
      rfl
    unfold State.fillingSheet
    split
    · next hnext =>
      simp only [hfull, ite_not]
      split
      · next hdiverted =>
        subst hdiverted
        rw [← hsame, State.takeSheet_eq, State.judgePack_ends hb]
      · next hpassed =>
        obtain rfl := Bool.eq_false_iff.2 hpassed
        rw [← hsame, State.passOwn_eq]
        rfl
    · next hbroken => rw [State.absorbSheet_ends _ hroom]
  · have hroom : diverted = decide ((s.pockets.get p).sheets < s.cfg.pocketCapacity) := by simpa [hst] using hd
    rw [← hsame, State.absorbSheet_ends _ hroom]

/-! What the end of the sheet's event shows of the state before it -/

/-- The lane of an entry is that of the pack bound before and after. -/
theorem LaneOf.transfer {p : PocketId} {j : Job} {l : Lane} {s u : State} (h : LaneOf p j l u)
    (hb : (u.pockets.get p).bound.map Binding.pack = (s.pockets.get p).bound.map Binding.pack)
    (he : u.packs.entries = s.packs.entries) : LaneOf p j l s := by
  cases j with
  | finish =>
    intro b e hbound hentry
    rw [hbound] at hb
    obtain ⟨b', hb', hpack⟩ := Option.map_eq_some_iff.1 hb
    exact h b' e hb' (by rw [hpack, State.entry_congr he, hentry])
  | setAside r => exact h
  | clear => exact h

/-- From `s` to `t` the sheet's event leaves pocket `p` open in a state. -/
def SheetStays (p : PocketId) (diverted : Bool) (st : PocketState) (bd : Option Binding) (s t : State) : Prop :=
  t =
      { s with
        part := t.part
        pockets := t.pockets
        ctl := { s.ctl with counters := if diverted then s.ctl.counters else s.ctl.counters.bump .ownPassed } } ∧
    t.pockets.get p =
      { s.pockets.get p with
        state := st
        bound := bd
        sheets := (s.pockets.get p).sheetsAfter diverted
        timer := if diverted then some (.gap (2 * s.cfg.gapLimit)) else (s.pockets.get p).timer } ∧
    OtherPocketsUnchanged p s t

/-- From `s` to `t` the sheet's event closes pocket `p` with a job. -/
def SheetCloses (p : PocketId) (diverted : Bool) (bd : Option Binding) (s t : State) (j : Job) : Prop :=
  ClosedAndQueued p j (if diverted then s.ctl.counters else s.ctl.counters.bump .ownPassed) s t ∧
    t.pockets.get p =
      { s.pockets.get p with
        state := (t.pockets.get p).state
        bound := bd
        sheets := (s.pockets.get p).sheetsAfter diverted
        timer := none }

theorem State.sheetEnds_stays {f : SheetFate} (hj : f.job = none) :
    SheetStays p diverted f.state f.bound s (s.sheetEnds p diverted f) := by
  simp only [State.sheetEnds, hj]
  exact ⟨rfl, State.afterSheet_get, State.afterSheet_others⟩

section Closes

variable (hq : ∀ x ∈ s.head.queue, x.pocket ≠ p)
  (hw : ∀ x ∈ s.head.queue, (s.pockets.get x.pocket).state = .waiting x.job)
include hq hw

/-- The close judged in the state after the sheet is one judged in the state before it. -/
theorem State.sheetEnds_closes {f : SheetFate} {j : Job}
    (hf : f.bound.map Binding.pack = (s.pockets.get p).bound.map Binding.pack) (hj : f.job = some j) :
    SheetCloses p diverted f.bound s (s.sheetEnds p diverted f) j := by
  simp only [State.sheetEnds, hj]
  have hget := State.afterSheet_get (p := p) (diverted := diverted) (st := f.state) (bd := f.bound) (s := s)
  have hother := State.afterSheet_others (p := p) (diverted := diverted) (st := f.state) (bd := f.bound) (s := s)
  have hbound : ((s.afterSheet p diverted f.state f.bound).pockets.get p).bound.map Binding.pack =
      (s.pockets.get p).bound.map Binding.pack := by rw [hget, hf]
  obtain ⟨hclosed, -, -, -, -, -, -, -, -, hothers, hserved⟩ :=
    State.closePocket_from (u := s.afterSheet p diverted f.state f.bound) j hq hw rfl rfl hother hbound (by rw [hget]) rfl
  obtain ⟨-, ⟨x, hpocket, hjob, hlane, hstamp, happended⟩, -, -, hrest⟩ :=
    State.closePocket_queued (p := p) (s := s.afterSheet p diverted f.state f.bound) j hq fun x hx => by
      rw [hother _ (hq x hx)]
      exact hw x hx
  have hrecord := State.closePocket_record (p := p) (s := s.afterSheet p diverted f.state f.bound) j
  rw [hget] at hrecord
  exact ⟨⟨hclosed, ⟨x, hpocket, hjob, hlane.transfer hbound rfl, hstamp, happended⟩, hothers, hserved, hrest⟩, hrecord⟩

/-- A FILLING pocket after its next sheet closes by its decision, or fills on (R64, R65). -/
theorem State.judged_outcome {b : Binding} (hb : (s.pockets.get p).bound = some b) :
    let f := b.judged o m ((s.pockets.get p).sheetsAfter diverted)
    let closes := SheetCloses p diverted f.bound s (s.sheetEnds p diverted f)
    if o.count ≠ 0 ∧ (s.pockets.get p).sheetsAfter diverted = o.count then closes .finish
    else if m.last = true then (if o.count ≠ 0 then closes (.setAside .short) else closes .finish)
    else SheetStays p diverted .filling f.bound s (s.sheetEnds p diverted f) :=
  judgedJob_cases (fun _ hj => State.sheetEnds_closes hq hw (by rw [hb]; rfl) hj) fun hj =>
    State.sheetEnds_stays (f := b.judged o m ((s.pockets.get p).sheetsAfter diverted)) hj

/-- An ABSORBING pocket closes under its condition, and only then (R64, R67). -/
theorem State.absorbed_outcome (r : AsideReason) {closes : Prop} [Decidable closes] :
    let t := s.sheetEnds p diverted ((s.pockets.get p).absorbed r closes)
    (closes → SheetCloses p diverted (s.pockets.get p).bound s t (.setAside r)) ∧
      (¬ closes → SheetStays p diverted (.absorbing r) (s.pockets.get p).bound s t) :=
  ⟨fun h => State.sheetEnds_closes hq hw (f := (s.pockets.get p).absorbed r closes) rfl (if_pos h),
    fun h => State.sheetEnds_stays (f := (s.pockets.get p).absorbed r closes) (if_neg h)⟩

/-- What the sheet's event leaves as it was, whether the pocket closes or not. -/
theorem State.sheetEnds_keeps {f : SheetFate}
    (hf : f.bound.map Binding.pack = (s.pockets.get p).bound.map Binding.pack) :
    (s.sheetEnds p diverted f).packs = s.packs ∧ (s.sheetEnds p diverted f).store = s.store ∧
      (s.sheetEnds p diverted f).config = s.config ∧ (s.sheetEnds p diverted f).rack.tray = s.rack.tray ∧
      (s.sheetEnds p diverted f).head.readings = s.head.readings ∧
      (s.sheetEnds p diverted f).part = { s.part with divert := if diverted then some p else none } ∧
      ((s.sheetEnds p diverted f).pockets.get p).sheets = (s.pockets.get p).sheetsAfter diverted ∧
      ∀ r, r ≠ p →
        ((s.sheetEnds p diverted f).pockets.get r).bound = (s.pockets.get r).bound ∧
          ((s.sheetEnds p diverted f).pockets.get r).sheets = (s.pockets.get r).sheets ∧
          ((s.sheetEnds p diverted f).pockets.get r).job = (s.pockets.get r).job := by
  have hget := State.afterSheet_get (p := p) (diverted := diverted) (st := f.state) (bd := f.bound) (s := s)
  have hother := State.afterSheet_others (p := p) (diverted := diverted) (st := f.state) (bd := f.bound) (s := s)
  unfold State.sheetEnds
  cases f.job with
  | none => exact ⟨rfl, rfl, rfl, rfl, rfl, rfl, State.afterSheet_sheets, fun r hr => by rw [hother r hr]; simp⟩
  | some j =>
    obtain ⟨-, hpacks, hstore, hconfig, htray, hreadings, hpart, hsheets, hothers, -⟩ :=
      State.closePocket_from (u := s.afterSheet p diverted f.state f.bound) j hq hw rfl rfl hother (by rw [hget, hf])
        (by rw [hget]) rfl
    exact ⟨hpacks, hstore, hconfig, htray, hreadings, hpart, hsheets.trans State.afterSheet_sheets, hothers⟩

end Closes

end OpenPocket

/-- Settles O40: by the state of the bound pocket and the index of the sheet. -/
theorem openPocketTakesItsSheets : Obligations.OpenPocketTakesItsSheets := by
  intro raw m e p bin stage q b diverted n k s hr hg hm he hst hq hb _ hwaits hd hn hk hopen
  subst hq
  have hn' : n = (s.pockets.get p).sheetsAfter diverted := hn
  subst hn' hk
  have hunqueued : ∀ x ∈ s.head.queue, x.pocket ≠ p := by
    refine hwaits.not_queued fun j hj => ?_
    rw [hj] at hopen
    simp at hopen
  have hexec : exec (.sheetAtGate raw) s =
      .next (s.sheetEnds p diverted (sheetFate s.cfg e.offer m diverted b (s.pockets.get p))) := by
    rw [exec_sheetAtGate raw hr, State.sheetArrives_own hg hm he hst, State.sheetAtPocket_ends hb hd hopen]
  have hpack := sheetFate_pack s.cfg e.offer m diverted hb
  obtain ⟨hpacks, hstore, hconfig, htray, hreadings, hpart, hsheets, hothers⟩ :=
    State.sheetEnds_keeps (diverted := diverted) hunqueued hwaits.2.1 hpack
  refine ⟨_, hexec, hpacks, hstore, hconfig, htray, hreadings, hpart, hsheets, hothers, ?_⟩
  have judged := State.judged_outcome (o := e.offer) (m := m) (diverted := diverted) hunqueued hwaits.2.1 hb
  have absorbed := State.absorbed_outcome (diverted := diverted) hunqueued hwaits.2.1
  rcases hopen with hst | hst | ⟨r, hst⟩ <;> simp only [hst, sheetFate, absorbingCloses_iff]
  · split
    · exact judged
    · exact absorbed .sequence
  · by_cases hnext : m.index = b.next
    · simp only [if_pos hnext]
      cases diverted with
      | true => exact judged
      | false => exact State.sheetEnds_closes hunqueued hwaits.2.1 (f := (s.pockets.get p).truncated) rfl rfl
    · simp only [if_neg hnext]
      exact absorbed .sequence
  · exact absorbed r

end Sys2Proof.Machine

namespace Sys2Proof.Machine

open Sys2Proof.Config

/-! ### The retained store check (R107, R136, R137, R188) -/

/-- What the retained store holds once it has been written under a configuration (R137, R188). -/
def State.storeContent (c : StationConfig) (s : State) : RetainedStore :=
  { rackSize := c.rackSize, binPackCapacity := c.binPackCapacity, binSheetCapacity := c.binSheetCapacity,
    trayCapacity := c.trayCapacity, bins := s.rack.bins.map Bin.retained, tray := s.rack.tray,
    remaining := s.head.staples.remaining, checkMatches := true }

/-- The configuration is in force and the retained store agrees with the values as they stand. -/
structure Stored (c : StationConfig) (s : State) : Prop where
  config : s.config = some c
  store : s.store = s.storeContent c

theorem State.writeStore_eq {c : StationConfig} {s : State} (h : s.config = some c) :
    s.writeStore = s.withStore (s.storeContent c) := by
  simp only [State.writeStore, h]
  rfl

theorem State.writeStore_stored {c : StationConfig} {s : State} (h : s.config = some c) : Stored c s.writeStore := by
  rw [State.writeStore_eq h]
  exact ⟨h, rfl⟩

theorem State.storeCheck_eq (s : State) :
    s.storeCheck =
      if s.ctl.resetCause = .power then .notMade else if s.store.checkMatches then .good else .bad := by
  unfold State.storeCheck
  cases s.ctl.resetCause <;> rfl

theorem startRack_eq (r : RetainedStore) (c : StationConfig) (result : StoreResult) :
    startRack r c result =
      if result = .good then
        { bins :=
            if r.rackSize = c.rackSize ∧ r.binPackCapacity = c.binPackCapacity ∧ r.binSheetCapacity = c.binSheetCapacity
            then r.bins.map RetainedBin.restored
            else List.replicate c.rackSize Bin.empty
          tray := min r.tray c.trayCapacity }
      else { bins := List.replicate c.rackSize Bin.empty, tray := 0 } := by
  cases result <;> simp [startRack, RetainedStore.sameGeometry]

theorem startStaples_eq (r : RetainedStore) (c : StationConfig) (result : StoreResult) (cartridge : Bool)
    (b : StapleBudget) :
    startStaples r c result cartridge b =
      { remaining :=
          if result = .good then min r.remaining c.cartridgeSize else if cartridge then c.cartridgeSize else 0
        committed := 0
        state := if result = .good then b.state else .ready } := by
  cases result <;> rfl

/-- Nothing is committed to a bin at the start (R136). -/
theorem startRack_uncommitted {r : RetainedStore} {c : StationConfig} {result : StoreResult} {b : Bin}
    (h : b ∈ (startRack r c result).bins) : b.committed = 0 := by
  have hempty : b ∈ List.replicate c.rackSize Bin.empty → b.committed = 0 := fun h => by
    rw [List.eq_of_mem_replicate h]
    rfl
  rw [startRack_eq] at h
  split at h
  · dsimp only at h
    split at h
    · obtain ⟨x, -, rfl⟩ := List.mem_map.1 h
      rfl
    · exact hempty h
  · exact hempty h

/-- The configuration distributed, the start values set and written back (R184 steps 4 and 5). -/
theorem State.checkStore_eq (c : StationConfig) (cartridge : Bool) (s : State) :
    ∃ u, (s.withConfig (some c)).checkStore c cartridge = u ∧ Stored c u ∧
      u =
        { s with
          part := { s.part with cartridgeSense := cartridge }
          config := some c
          ctl := { s.ctl with storeResult := s.storeCheck }
          head := { s.head with staples := startStaples s.store c s.storeCheck cartridge s.head.staples }
          rack := startRack s.store c s.storeCheck
          store := u.store } := by
  refine ⟨_, rfl, State.writeStore_stored rfl, ?_⟩
  unfold State.checkStore
  rw [State.writeStore_eq rfl]
  rfl

/-! ### Events that the senses held (R110, R133, R135, R184) -/

/-- A review of an empty queue at most starts a waiting self-test (R90, R116). -/
theorem State.review_unqueued {s : State} (h : s.head.queue = []) :
    s.reevaluateAndServe =
        { s with
          head :=
            { s.head with
              state := s.reevaluateAndServe.head.state, testWaiting := s.reevaluateAndServe.head.testWaiting } } ∧
      s.reevaluateAndServe.testing = s.testing := by
  have hreview : s.reevaluate = s := by
    unfold State.reevaluate
    split
    · rfl
    · simp only [State.onHead, h, List.map_nil]
      rw [← h]
  unfold State.reevaluateAndServe
  rw [hreview]
  rcases s.serve_cases with e | ⟨-, hwaits, e⟩ | ⟨g, hg, -⟩
  · rw [e]
    exact ⟨rfl, rfl⟩
  · rw [e]
    refine ⟨rfl, ?_⟩
    simp [State.testing, State.startTest, hwaits]
  · rw [h] at hg
    exact absurd hg List.not_mem_nil

/-- In LOADING with an empty queue, events of the senses have been taken: they change the rack, the budget and the store, may
start a waiting self-test, and may end the roster cursor. -/
structure SensesTaken (c : StationConfig) (s u : State) : Prop where
  frame :
    u =
      { s with
        ctl := { s.ctl with rosterCursor := u.ctl.rosterCursor }
        head :=
          { s.head with state := u.head.state, testWaiting := u.head.testWaiting, staples := u.head.staples }
        rack := u.rack
        store := u.store }
  cursor : s.ctl.rosterCursor = none → u.ctl.rosterCursor = none
  testing : u.testing = s.testing
  stored : Stored c u

section Senses

variable {c : StationConfig} {s u v : State}

theorem SensesTaken.refl (h : Stored c s) : SensesTaken c s s := ⟨rfl, id, rfl, h⟩

theorem SensesTaken.trans (h : SensesTaken c s u) (hu : SensesTaken c u v) : SensesTaken c s v := by
  refine ⟨?_, hu.cursor ∘ h.cursor, hu.testing.trans h.testing, hu.stored⟩
  have hs := h.frame
  have hv := hu.frame
  rw [hs] at hv
  exact hv

theorem SensesTaken.queue (h : SensesTaken c s u) : u.head.queue = s.head.queue := by rw [h.frame]

theorem SensesTaken.station (h : SensesTaken c s u) : u.ctl.station = s.ctl.station := by rw [h.frame]

/-- The review after an event finds no entry, and its re-scan ends at check 1 in LOADING (R22, R24). -/
theorem SensesTaken.review (h : SensesTaken c s u) (hq : s.head.queue = []) : SensesTaken c s u.reevaluateAndServe := by
  obtain ⟨hframe, htesting⟩ := State.review_unqueued (h.queue.trans hq)
  have hstored : Stored c u.reevaluateAndServe :=
    ⟨by simpa using h.stored.config, by simpa [State.storeContent] using h.stored.store⟩
  exact h.trans ⟨by rw [hframe], fun hc => by simpa using hc, htesting, hstored⟩

theorem SensesTaken.rescan (h : SensesTaken c s u) (hl : s.ctl.station = .loading) : SensesTaken c s u.rescan := by
  rwa [State.rescan_not_run (by rw [h.station, hl]; nofun)]

variable (hs : Stored c s) (hl : s.ctl.station = .loading) (hq : s.head.queue = [])
include hs hq

theorem State.emptyTray_taken : SensesTaken c s s.emptyTray := by
  have hw := State.writeStore_eq (s := s.onRack fun r => { r with tray := 0 }) hs.config
  have hstored := State.writeStore_stored (s := s.onRack fun r => { r with tray := 0 }) hs.config
  refine SensesTaken.review ⟨?_, fun h => ?_, ?_, hstored⟩ hq <;> rw [hw]
  · rfl
  · exact h
  · rfl

include hl

theorem State.refill_taken : SensesTaken c s (s.refill c) := by
  have hw := State.writeStore_eq (s := s.onStaples fun b => { b with remaining := c.cartridgeSize, state := .ready }) hs.config
  have hstored :=
    State.writeStore_stored (s := s.onStaples fun b => { b with remaining := c.cartridgeSize, state := .ready }) hs.config
  refine SensesTaken.rescan (SensesTaken.review ⟨?_, fun h => ?_, ?_, hstored⟩ hq) hl <;> rw [hw]
  · rfl
  · exact h
  · rfl

theorem State.emptyBin_taken (n : Nat) : SensesTaken c s (s.emptyBin n) := by
  cases hn : s.bin n with
  | none =>
    have hbeyond : s.emptyBin n = s := by simp only [State.emptyBin, hn]
    rw [hbeyond]
    exact .refl hs
  | some b =>
    have hconfig : (s.onBin n fun b => { b with fillPacks := 0, fillSheets := 0, roster := [] }).config = some c := by
      simpa using hs.config
    have hw := State.writeStore_eq hconfig
    have hstored := State.writeStore_stored hconfig
    have hcleared : SensesTaken c s (s.binCleared n) := by
      refine ⟨?_, fun h => ?_, ?_, hstored.config, hstored.store⟩
      · rw [State.binCleared, hw]
        unfold State.onBin
        split <;> rfl
      · rw [State.binCleared_ctl, h]
      · rw [State.binCleared, hw]
        unfold State.onBin
        split <;> rfl
    rw [State.emptyBin_eq hn]
    exact (hcleared.review hq).rescan hl

/-- The bins whose emptying was held are taken one after another (R133). -/
theorem State.emptyBins_taken (bins : List Nat) : SensesTaken c s (bins.foldl (fun u n => u.emptyBin n) s) := by
  induction bins generalizing s with
  | nil => exact .refl hs
  | cons n bins ih =>
    have hn := State.emptyBin_taken hs hl hq n
    exact hn.trans (ih hn.stored (hn.station.trans hl) (hn.queue.trans hq))

end Senses

/-- A bin after its emptying (R133). -/
def Bin.emptied (b : Bin) : Bin := { b with fillPacks := 0, fillSheets := 0, roster := [] }

section HeldValues

variable {c : StationConfig} {s : State}

theorem State.emptyBin_bins (n i : Nat) (s : State) :
    (s.emptyBin n).rack.bins[i]? = (s.rack.bins[i]?).map fun b => if i + 1 = n then b.emptied else b := by
  have hbin : ∀ u : State, u.bin (i + 1) = u.rack.bins[i]? := fun u => by simp [State.bin]
  cases hn : s.bin n with
  | none =>
    have hbeyond : s.emptyBin n = s := by simp only [State.emptyBin, hn]
    rw [hbeyond]
    by_cases hi : i + 1 = n
    · rw [← hbin, hi, hn]
      rfl
    · simp [hi]
  | some b =>
    rw [← hbin, State.emptyBin_bin hn, hbin]
    by_cases hi : i + 1 = n
    · simp only [hi, if_true]
      rfl
    · simp [hi]

theorem State.emptyBins_bins (bins : List Nat) (i : Nat) (s : State) :
    (bins.foldl (fun u n => u.emptyBin n) s).rack.bins[i]? =
      (s.rack.bins[i]?).map fun b => if i + 1 ∈ bins then b.emptied else b := by
  induction bins generalizing s with
  | nil => simp
  | cons n bins ih =>
    rw [List.foldl_cons, ih, State.emptyBin_bins, Option.map_map]
    congr 1
    funext b
    by_cases hn : i + 1 = n <;> by_cases hm : i + 1 ∈ bins <;> simp [hn, hm, Bin.emptied]

theorem State.emptyBin_values (n : Nat) (s : State) :
    (s.emptyBin n).rack.tray = s.rack.tray ∧ (s.emptyBin n).head.staples = s.head.staples := by
  cases hn : s.bin n with
  | none => simp only [State.emptyBin, hn, and_self]
  | some b =>
    obtain ⟨htray, -, -, hstaples, -⟩ := State.emptyBin_frame hn
    exact ⟨htray, hstaples⟩

/-- The tray once the bins have been emptied (R135). -/
def State.trayTaken (s : State) : State :=
  if s.part.held.tray then (s.part.held.bins.foldl (fun u n => u.emptyBin n) s).emptyTray
  else s.part.held.bins.foldl (fun u n => u.emptyBin n) s

/-- The events that the senses held, before they are forgotten. -/
def State.sensesTaken (c : StationConfig) (s : State) : State :=
  if s.part.held.cartridge then s.trayTaken.refill c else s.trayTaken

theorem State.takeHeld_eq (c : StationConfig) (s : State) : s.takeHeld c = (s.sensesTaken c).clearHeld := rfl

theorem State.sensesTaken_taken (hs : Stored c s) (hl : s.ctl.station = .loading) (hq : s.head.queue = []) :
    SensesTaken c s (s.sensesTaken c) := by
  have hbins := State.emptyBins_taken hs hl hq s.part.held.bins
  have htray : SensesTaken c s s.trayTaken := by
    unfold State.trayTaken
    split
    · exact hbins.trans (State.emptyTray_taken hbins.stored (hbins.queue.trans hq))
    · exact hbins
  unfold State.sensesTaken
  split
  · exact htray.trans (State.refill_taken htray.stored (htray.station.trans hl) (htray.queue.trans hq))
  · exact htray

/-- The values once the held events have been taken (R110, R133, R135). -/
theorem State.sensesTaken_values (c : StationConfig) (s : State) :
    (∀ i, (s.sensesTaken c).rack.bins[i]? =
      (s.rack.bins[i]?).map fun b => if i + 1 ∈ s.part.held.bins then b.emptied else b) ∧
      (s.sensesTaken c).rack.tray = (if s.part.held.tray then 0 else s.rack.tray) ∧
      (s.sensesTaken c).head.staples =
        if s.part.held.cartridge then { s.head.staples with remaining := c.cartridgeSize, state := .ready }
        else s.head.staples := by
  generalize hu : s.part.held.bins.foldl (fun u n => u.emptyBin n) s = u
  have hubins : ∀ i, u.rack.bins[i]? = _ := fun i => hu ▸ State.emptyBins_bins s.part.held.bins i s
  have hutray : u.rack.tray = s.rack.tray :=
    hu ▸ foldl_keeps (fun t => t.rack.tray) (fun t n => t.emptyBin n) (fun t n => (t.emptyBin_values n).1) _ s
  have hustaples : u.head.staples = s.head.staples :=
    hu ▸ foldl_keeps (fun t => t.head.staples) (fun t n => t.emptyBin n) (fun t n => (t.emptyBin_values n).2) _ s
  have htray : s.trayTaken.rack.bins = u.rack.bins ∧
      s.trayTaken.rack.tray = (if s.part.held.tray then 0 else s.rack.tray) ∧
      s.trayTaken.head.staples = s.head.staples := by
    unfold State.trayTaken
    rw [hu]
    split
    · simp [State.emptyTray, hustaples]
    · exact ⟨rfl, hutray, hustaples⟩
  obtain ⟨hbins, htray, hstaples⟩ := htray
  unfold State.sensesTaken
  split
  · have hrack : (s.trayTaken.refill c).rack = s.trayTaken.rack := by simp [State.refill]
    rw [hrack, hbins, htray]
    exact ⟨hubins, rfl, by simp [State.refill, hstaples]⟩
  · rw [hbins, htray, hstaples]
    exact ⟨hubins, rfl, rfl⟩

end HeldValues

end Sys2Proof.Machine

namespace Sys2Proof.Machine

open Sys2Proof.Config

/-! ### Selections among entries that are not of the first class (R90, R91) -/

section PlainQueue

variable {s : State} (h : ∀ g ∈ s.head.queue, g.firstClass = false)
include h

/-- Without a first-class entry the earliest ready one is granted, so none is passed over. -/
theorem State.serve_queue_plain {x : QueueEntry} (hx : x ∈ s.serve.head.queue) : x ∈ s.head.queue := by
  rcases s.serve_cases with e | ⟨-, -, e⟩ | ⟨g, hg, -, hchosen, -, -, e⟩ <;> rw [e] at hx
  · exact hx
  · exact hx
  · simp only [State.grant, State.headTo_queue, State.pocketTo_frame, State.onHead_head, List.mem_map] at hx
    obtain ⟨y, hy, rfl⟩ := hx
    have hy := List.mem_of_mem_erase hy
    have hkept : passOver g.stamp y = y := if_neg fun ⟨hr, hlt⟩ =>
      absurd (chosen_firstClass hchosen hy hr hlt) (by rw [h g hg]; nofun)
    rwa [hkept]

theorem QueuedOrGranted.serve_plain {y : QueueEntry} (hy : QueuedOrGranted y s) : QueuedOrGranted y s.serve := by
  rcases hy with hy | ⟨hb, op, hop, hparts⟩
  · exact State.serve_unpassed hy fun g hg hfirst => absurd hfirst (by rw [h g hg]; nofun)
  · rw [State.serve_busy (by rw [hop]; nofun)]
    exact Or.inr ⟨hb, op, hop, hparts⟩

end PlainQueue

/-- A selection starts a waiting self-test and no other (R116). -/
theorem State.serve_testing_eq (s : State) : s.serve.testing = s.testing := by
  rcases s.serve_cases with e | ⟨-, hwaits, e⟩ | ⟨g, -, -, -, hidle, -, e⟩ <;> rw [e]
  · simp [State.testing, State.startTest, hwaits]
  · simp [State.testing, hidle, State.grant, State.headTo, State.pocketTo, State.onPocket]

theorem State.serve_eq (s : State) :
    s.serve =
      { s with
        pockets := s.serve.pockets
        head := { s.serve.head with staples := s.head.staples, readings := s.head.readings } } := by
  rcases s.serve_cases with e | ⟨-, -, e⟩ | ⟨g, -, -, -, -, -, e⟩ <;> rw [e] <;> rfl

/-! ### The pocket checks of the start sequence (R81, R184 step 7) -/

/-- The pockets up to `p` whose sensor shows sheets. -/
def occupiedThrough (occupied : PocketLevels) (p : PocketId) : Nat :=
  PocketId.all.countP fun q => decide (q.number ≤ p.number) && occupied.get q

/-- The CLEAR entry of a pocket that shows sheets at the start (R81, R85). -/
def State.startEntry (occupied : PocketLevels) (s : State) (p : PocketId) : QueueEntry :=
  { pocket := p, job := .clear, lane := .normal, stamp := s.head.arrivals + occupiedThrough occupied p, passOvers := 0,
    blocked := s.blockedReason p .clear, strokes := none }

/-- What a check leaves of a pocket: a CLEAR job, WAITING or granted, or FREE. -/
def Pocket.CheckedAs (q : Pocket) (occupied : Bool) : Prop :=
  if occupied then q.job = some .clear ∧ q = { Pocket.empty with state := q.state } else q = Pocket.empty

/-- From `s` in LOADING with an empty queue to `w` the pockets `ps` have been checked, and the head served. -/
structure PocketsChecked (occupied : PocketLevels) (ps : List PocketId) (s w : State) : Prop where
  frame :
    w =
      { s with
        pockets := w.pockets
        head := { w.head with staples := s.head.staples, readings := s.head.readings } }
  arrivals : w.head.arrivals = s.head.arrivals + ps.countP occupied.get
  testing : w.testing = s.testing
  queue : ∀ x ∈ w.head.queue, ∃ q ∈ ps, occupied.get q = true ∧ x = s.startEntry occupied q
  placed : ∀ q ∈ ps, occupied.get q = true → QueuedOrGranted (s.startEntry occupied q) w
  pocket : ∀ q ∈ ps, (w.pockets.get q).CheckedAs (occupied.get q)

section PocketChecks

variable {occupied : PocketLevels} {ps : List PocketId} {s w : State} {p : PocketId}

theorem PocketsChecked.nil (hq : s.head.queue = []) : PocketsChecked occupied [] s s where
  frame := rfl
  arrivals := rfl
  testing := rfl
  queue := by simp [hq]
  placed := by simp
  pocket := by simp

theorem PocketsChecked.plain (h : PocketsChecked occupied ps s w) : ∀ g ∈ w.head.queue, g.firstClass = false := by
  intro g hg
  obtain ⟨q, -, -, rfl⟩ := h.queue g hg
  rfl

/-- A grant takes a CLEAR job of a pocket that shows sheets to the head. -/
theorem PocketsChecked.serve_pocket (h : PocketsChecked occupied ps s w) {q : PocketId} (hq : q ∈ ps) :
    (w.serve.pockets.get q).CheckedAs (occupied.get q) := by
  have hchecked := h.pocket q hq
  rcases w.serve_cases with e | ⟨-, -, e⟩ | ⟨g, hg, -, -, -, -, e⟩ <;> rw [e]
  · exact hchecked
  · exact hchecked
  · rw [State.grant_pocket]
    split
    · next hqg =>
      obtain ⟨r, -, hocc, rfl⟩ := h.queue g hg
      obtain rfl : q = r := hqg
      rw [hocc] at hchecked ⊢
      obtain ⟨-, hrecord⟩ := hchecked
      exact ⟨rfl, by rw [hrecord]⟩
    · exact hchecked

theorem PocketsChecked.serve (h : PocketsChecked occupied ps s w) : PocketsChecked occupied ps s w.serve where
  frame := by
    have hw := h.frame
    have hs := w.serve_eq
    rw [hw] at hs
    rw [hw]
    exact hs
  arrivals := by rw [State.serve_arrivals, h.arrivals]
  testing := by rw [State.serve_testing_eq, h.testing]
  queue := fun x hx => h.queue x (State.serve_queue_plain h.plain hx)
  placed := fun q hq hocc => (h.placed q hq hocc).serve_plain h.plain
  pocket := fun _ hq => h.serve_pocket hq

/-- In LOADING an append raises no hold (R155, R157). -/
theorem State.enqueue_loading {v : State} {j : Job} {l : Lane} (h : v.ctl.station = .loading) :
    v.enqueue p j l =
      v.onHead fun k => { k with queue := k.queue ++ [v.newEntry p j l], arrivals := k.arrivals + 1 } := by
  unfold State.enqueue State.noteHold State.raiseHold
  simp [h, StationState.holds]

/-- The check of the next pocket. -/
theorem PocketsChecked.check (h : PocketsChecked occupied ps s w) (hl : s.ctl.station = .loading) (hp : p ∉ ps)
    (hrank : occupied.get p = true → occupiedThrough occupied p = ps.countP occupied.get + 1) :
    PocketsChecked occupied (ps ++ [p]) s (w.checkPocket p (occupied.get p)) := by
  have hlw : w.ctl.station = .loading := by rw [h.frame]; exact hl
  have hother : ∀ (f : Pocket → Pocket), ∀ q ∈ ps, (w.onPocket p f).pockets.get q = w.pockets.get q := fun f q hq =>
    State.onPocket_other f w fun e => hp (e ▸ hq)
  cases hocc : occupied.get p with
  | false =>
    have hfree : w.checkPocket p false = w.onPocket p fun _ => Pocket.empty := rfl
    rw [hfree]
    refine ⟨?_, ?_, ?_, fun x hx => ?_, fun q hq ho => ?_, fun q hq => ?_⟩
    · rw [h.frame]
      rfl
    · simpa [hocc] using h.arrivals
    · exact h.testing
    · obtain ⟨q, hq, hrest⟩ := h.queue x hx
      exact ⟨q, List.mem_append_left _ hq, hrest⟩
    · rcases List.mem_append.1 hq with hq | hq
      · exact h.placed q hq ho
      · rw [List.mem_singleton.1 hq, hocc] at ho
        exact absurd ho nofun
    · rcases List.mem_append.1 hq with hq | hq
      · rw [hother _ q hq]
        exact h.pocket q hq
      · obtain rfl := List.mem_singleton.1 hq
        rw [State.onPocket_self, hocc]
        rfl
  | true =>
    let v := w.onPocket p fun _ => { Pocket.empty with state := .waiting .clear }
    have hentry : v.newEntry p .clear .normal = s.startEntry occupied p := by
      have harrivals : v.head.arrivals = s.head.arrivals + ps.countP occupied.get := h.arrivals
      have htray : v.trayFull = s.trayFull := by
        show w.trayFull = _
        rw [h.frame]
        rfl
      simp only [State.newEntry, State.startEntry, State.blockedReason, htray, harrivals, hrank hocc, Nat.add_assoc]
    have happended : w.checkPocket p true =
        v.onHead fun k => { k with queue := k.queue ++ [s.startEntry occupied p], arrivals := k.arrivals + 1 } := by
      rw [← hentry]
      exact State.enqueue_loading hlw
    rw [happended]
    refine ⟨?_, ?_, h.testing, fun x hx => ?_, fun q hq ho => ?_, fun q hq => ?_⟩
    · simp only [v]
      rw [h.frame]
      rfl
    · show w.head.arrivals + 1 = _
      simp [h.arrivals, hocc, Nat.add_assoc]
    · rcases List.mem_append.1 hx with hx | hx
      · obtain ⟨q, hq, hrest⟩ := h.queue x hx
        exact ⟨q, List.mem_append_left _ hq, hrest⟩
      · exact ⟨p, by simp, hocc, List.mem_singleton.1 hx⟩
    · rcases List.mem_append.1 hq with hq | hq
      · exact (h.placed q hq ho).imp_left fun hmem => List.mem_append_left _ hmem
      · rw [List.mem_singleton.1 hq]
        exact Or.inl (by simp)
    · show (v.pockets.get q).CheckedAs _
      rcases List.mem_append.1 hq with hq | hq
      · rw [hother _ q hq]
        exact h.pocket q hq
      · obtain rfl := List.mem_singleton.1 hq
        rw [State.onPocket_self, hocc]
        exact ⟨rfl, rfl⟩

/-- The rank of a pocket is one more than the pockets before it. -/
theorem occupiedThrough_eq (h : occupied.get p = true) :
    occupiedThrough occupied p =
      (PocketId.all.filter fun q => decide (q.number < p.number)).countP occupied.get + 1 := by
  cases p <;> simp [occupiedThrough, PocketId.all, PocketId.number, List.countP_cons, h] <;> omega

/-- The four pockets have been checked from pocket 1 to pocket 4, and an IDLE head has been served. -/
theorem State.checkPockets_checked (hl : s.ctl.station = .loading) (hq : s.head.queue = []) :
    PocketsChecked occupied PocketId.all (s.onPart fun k => { k with occupied := occupied })
        (s.checkPockets occupied) ∧ IdleHeadServed (s.checkPockets occupied) := by
  have hrank := fun p => occupiedThrough_eq (occupied := occupied) (p := p)
  have hnil : PocketsChecked occupied [] (s.onPart fun k => { k with occupied := occupied }) _ := .nil hq
  exact ⟨((((((hnil.check hl (by decide) (hrank .p1)).serve.check hl (by decide) (hrank .p2)).serve.check hl (by decide)
    (hrank .p3)).serve).check hl (by decide) (hrank .p4)).serve), State.serve_served _⟩

end PocketChecks

end Sys2Proof.Machine

namespace Sys2Proof.Machine

open Sys2Proof.Config

/-! ### The start sequence (R184 steps 4 to 8) -/

/-- The self-test of the start sequence is begun or waits where a stapler is fitted and no cause is held (R116, R184
step 6). -/
theorem State.startTestIfFitted_eq (c : StationConfig) (s : State) :
    s.startTestIfFitted c =
        { s with
          head :=
            { s.head with
              state := (s.startTestIfFitted c).head.state
              testWaiting := (s.startTestIfFitted c).head.testWaiting } } ∧
      (c.stapler = true → s.ctl.heldCause = none → (s.startTestIfFitted c).testing = true) ∧
      (c.stapler = false ∨ s.ctl.heldCause ≠ none → (s.startTestIfFitted c).testing = s.testing) := by
  by_cases h : c.stapler = true ∧ s.ctl.heldCause = none
  · have hstarts : s.startTestIfFitted c = s.requestTest := if_pos h
    obtain ⟨hframe, hidle, hbusy⟩ := s.requestTest_requested
    rw [hstarts]
    refine ⟨hframe, fun _ _ => ?_, fun hn => ?_⟩
    · by_cases hi : s.head.state = .idle
      · simp [State.testing, (hidle hi).1]
      · simp [State.testing, (hbusy hi).2]
    · rcases hn with hn | hn
      · exact absurd (h.1.symm.trans hn) nofun
      · exact absurd h.2 hn
  · have hstands : s.startTestIfFitted c = s := if_neg h
    rw [hstands]
    exact ⟨rfl, fun hs hc => absurd ⟨hs, hc⟩ h, fun _ => rfl⟩

/-- The start sequence up to its pocket checks. -/
def State.equipped (c : StationConfig) (cartridge : Bool) (s : State) : State :=
  (((s.withConfig (some c)).checkStore c cartridge).takeHeld c).startTestIfFitted c

/-- The start sequence up to its exit. -/
def State.readied (c : StationConfig) (occupied : PocketLevels) (cartridge : Bool) (s : State) : State :=
  (s.equipped c cartridge).checkPockets occupied

theorem State.startWith_eq (c : StationConfig) (occupied : PocketLevels) (cartridge : Bool) (s : State) :
    s.startWith c occupied cartridge = (s.readied c occupied cartridge).leaveLoading c := rfl

/-- The values with which the start sequence that began in `s` goes on in `w` (R136, R137, R184). -/
structure StartValues (c : StationConfig) (cartridge : Bool) (s w : State) : Prop where
  stored : Stored c w
  ctl : w.ctl = { s.ctl with storeResult := s.storeCheck, rosterCursor := w.ctl.rosterCursor }
  cursor : s.ctl.rosterCursor = none → w.ctl.rosterCursor = none
  link : w.link = s.link
  packs : w.packs = s.packs
  readings : w.head.readings = s.head.readings
  bins : ∀ i,
    w.rack.bins[i]? =
      ((startRack s.store c s.storeCheck).bins[i]?).map fun b =>
        if i + 1 ∈ s.part.held.bins then { fillPacks := 0, fillSheets := 0, committed := 0, roster := [] } else b
  tray : w.rack.tray = if s.part.held.tray then 0 else (startRack s.store c s.storeCheck).tray
  staples :
    w.head.staples =
      if s.part.held.cartridge then
        { startStaples s.store c s.storeCheck cartridge s.head.staples with
          remaining := c.cartridgeSize, state := .ready }
      else startStaples s.store c s.storeCheck cartridge s.head.staples
  tested : c.stapler = true → s.ctl.heldCause = none → w.testing = true
  untested : c.stapler = false ∨ s.ctl.heldCause ≠ none → w.testing = s.testing

/-- What the start sequence has made of `s` before its exit. -/
structure Readied (c : StationConfig) (occupied : PocketLevels) (cartridge : Bool) (s w : State) : Prop
    extends StartValues c cartridge s w where
  part :
    w.part =
      { s.part with
        held := { bins := [], tray := false, cartridge := false }
        cartridgeSense := cartridge
        occupied := occupied }
  arrivals : w.head.arrivals = s.head.arrivals + PocketId.all.countP occupied.get
  queue : ∀ x ∈ w.head.queue, occupied.get x.pocket = true
  appended : ∀ p, occupied.get p = true →
    EntryAppended p .clear (s.head.arrivals + occupiedThrough occupied p) s w
  pocket : ∀ p, (w.pockets.get p).CheckedAs (occupied.get p)
  served : IdleHeadServed w

theorem Stored.congr {c : StationConfig} {s t : State} (h : Stored c s) (hc : t.config = s.config)
    (hst : t.store = s.store) (hr : t.rack = s.rack) (hb : t.head.staples = s.head.staples) : Stored c t :=
  ⟨hc.trans h.config, by rw [hst, h.store, State.storeContent, State.storeContent, hr, hb]⟩

section StartSequence

variable {c : StationConfig} {occupied : PocketLevels} {cartridge : Bool} {s : State}

/-- An entry that the pocket checks have appended, seen from before the sequence. -/
theorem PocketsChecked.appended {u w : State} {p : PocketId} (h : PocketsChecked occupied PocketId.all u w)
    (hu : u.head.arrivals = s.head.arrivals) (hocc : occupied.get p = true) :
    EntryAppended p .clear (s.head.arrivals + occupiedThrough occupied p) s w := by
  have hblocked : BlockedBy p .clear (u.startEntry occupied p).blocked w := by
    have hb := u.blockedReason_blockedBy p .clear
    simp only [BlockedBy] at hb ⊢
    rw [h.frame]
    exact hb
  refine ⟨u.startEntry occupied p, rfl, rfl, rfl, by rw [← hu]; rfl, fun _ => rfl, rfl, hblocked, ?_⟩
  exact h.placed p (PocketId.mem_all p) hocc

/-- The values stand through the pocket checks. -/
theorem StartValues.checked {u w : State} (hu : StartValues c cartridge s u)
    (h : PocketsChecked occupied PocketId.all (u.onPart fun k => { k with occupied := occupied }) w) :
    StartValues c cartridge s w := by
  have htesting : w.testing = u.testing := h.testing
  have hframe := h.frame
  obtain ⟨hconfig, hstore, hctl, hlink, hpacks, hrack, hstaples, hreadings⟩ : w.config = u.config ∧
      w.store = u.store ∧ w.ctl = u.ctl ∧ w.link = u.link ∧ w.packs = u.packs ∧ w.rack = u.rack ∧
      w.head.staples = u.head.staples ∧ w.head.readings = u.head.readings := by
    rw [hframe]
    exact ⟨rfl, rfl, rfl, rfl, rfl, rfl, rfl, rfl⟩
  exact
    { stored := hu.stored.congr hconfig hstore hrack hstaples
      ctl := by rw [hctl]; exact hu.ctl
      cursor := by rw [hctl]; exact hu.cursor
      link := hlink.trans hu.link
      packs := hpacks.trans hu.packs
      readings := hreadings.trans hu.readings
      bins := by rw [hrack]; exact hu.bins
      tray := by rw [hrack]; exact hu.tray
      staples := hstaples.trans hu.staples
      tested := by rw [htesting]; exact hu.tested
      untested := by rw [htesting]; exact hu.untested }

/-- The configuration, the store check, the held events and the self-test give the values (R184 steps 4 to 6). -/
theorem State.equipped_values (hl : s.ctl.station = .loading) (hq : s.head.queue = []) :
    StartValues c cartridge s (s.equipped c cartridge) ∧
      (s.equipped c cartridge).part =
        { s.part with held := { bins := [], tray := false, cartridge := false }, cartridgeSense := cartridge } ∧
      (s.equipped c cartridge).head.arrivals = s.head.arrivals ∧ (s.equipped c cartridge).head.queue = [] := by
  obtain ⟨u, hu, hstored, hframe⟩ := s.checkStore_eq c cartridge
  have htaken := State.sensesTaken_taken hstored (by rw [hframe]; exact hl) (by rw [hframe]; exact hq)
  obtain ⟨hbins, htray, hstaples⟩ := u.sensesTaken_values c
  rw [State.equipped, hu, State.takeHeld_eq]
  generalize u.sensesTaken c = v at htaken hbins htray hstaples
  obtain ⟨htest, htested, huntested⟩ := v.clearHeld.startTestIfFitted_eq c
  generalize v.clearHeld.startTestIfFitted c = y at htest htested huntested
  have hv : v.part = { s.part with cartridgeSense := cartridge } ∧
      v.ctl = { s.ctl with storeResult := s.storeCheck, rosterCursor := v.ctl.rosterCursor } ∧ v.link = s.link ∧
      v.packs = s.packs ∧ v.head.arrivals = s.head.arrivals ∧ v.head.queue = s.head.queue ∧
      v.head.readings = s.head.readings ∧ v.testing = s.testing := by
    rw [htaken.testing, htaken.frame, hframe]
    exact ⟨rfl, rfl, rfl, rfl, rfl, rfl, rfl, rfl⟩
  have hy : y.part = { v.part with held := { bins := [], tray := false, cartridge := false } } ∧
      y.config = v.config ∧ y.ctl = v.ctl ∧ y.link = v.link ∧ y.packs = v.packs ∧ y.rack = v.rack ∧
      y.store = v.store ∧ y.head.arrivals = v.head.arrivals ∧ y.head.queue = v.head.queue ∧
      y.head.staples = v.head.staples ∧ y.head.readings = v.head.readings := by
    rw [htest]
    exact ⟨rfl, rfl, rfl, rfl, rfl, rfl, rfl, rfl, rfl, rfl, rfl⟩
  obtain ⟨vpart, vctl, vlink, vpacks, varrivals, vqueue, vreadings, vtesting⟩ := hv
  obtain ⟨ypart, yconfig, yctl, ylink, ypacks, yrack, ystore, yarrivals, yqueue, ystaples, yreadings⟩ := hy
  have vcause : v.clearHeld.ctl.heldCause = s.ctl.heldCause := by
    show v.ctl.heldCause = _
    rw [vctl]
  refine ⟨?_, by rw [ypart, vpart], yarrivals.trans varrivals, yqueue.trans (vqueue.trans hq)⟩
  exact
    { stored := htaken.stored.congr yconfig ystore yrack ystaples
      ctl := by rw [yctl]; exact vctl
      cursor := fun h => by
        rw [yctl]
        exact htaken.cursor (by rw [hframe]; exact h)
      link := ylink.trans vlink
      packs := ypacks.trans vpacks
      readings := yreadings.trans vreadings
      bins := fun i => by
        rw [yrack, hbins, hframe]
        refine Option.map_congr fun b hb => ?_
        have hnone := startRack_uncommitted (List.mem_of_getElem? hb)
        simp only [Bin.emptied, hnone]
      tray := by rw [yrack, htray, hframe]
      staples := by rw [ystaples, hstaples, hframe]
      tested := fun hs hc => htested hs (vcause.trans hc)
      untested := fun h => by
        rw [← vcause] at h
        exact (huntested h).trans vtesting }

theorem State.readied_readied (hl : s.ctl.station = .loading) (hq : s.head.queue = []) :
    Readied c occupied cartridge s (s.readied c occupied cartridge) := by
  obtain ⟨hvalues, hpart, harrivals, hqueue⟩ := State.equipped_values (c := c) (cartridge := cartridge) hl hq
  have hstation : (s.equipped c cartridge).ctl.station = .loading := by rw [hvalues.ctl]; exact hl
  obtain ⟨hchecked, hserved⟩ := State.checkPockets_checked (occupied := occupied) hstation hqueue
  rw [State.readied]
  generalize (s.equipped c cartridge).checkPockets occupied = w at hchecked hserved
  refine ⟨hvalues.checked hchecked, ?_, ?_, fun x hx => ?_, fun p hp => hchecked.appended harrivals hp,
    fun p => hchecked.pocket p (PocketId.mem_all p), hserved⟩
  · rw [hchecked.frame]
    exact congrArg (fun k : Part => { k with occupied := occupied }) hpart
  · exact hchecked.arrivals.trans (congrArg (· + _) harrivals)
  · obtain ⟨q, -, hocc, rfl⟩ := hchecked.queue x hx
    exact hocc

end StartSequence

/-! The exit of the start sequence (R150, R157, R184 step 8) -/

/-- With link loss held the station enters SAFE (R150). -/
theorem State.leaveLoading_safe {c : StationConfig} {s : State} (h : s.ctl.linkLossHeld = true) :
    s.leaveLoading c =
      { s with
        ctl :=
          { s.ctl with
            station := .safe
            linkLossHeld := false
            hold := { active := false, queued := false, timer := none }
            reportSlot := none
            answerSlot := none
            rosterCursor := none }
        link := { s.link with queue := [] }
        packs := { s.packs with bids := s.packs.bids.filter fun b => decide (b.stage = .sent) }
        head := { s.head with state := .stopped, testWaiting := false } } := if_pos h

/-- The station in JOINING with its JOIN queued, before the hold is judged. -/
def State.joining (c : StationConfig) (s : State) : State :=
  (s.append (.join s.ctl.resetCause c.stapler c.edge s.head.readings.outcome c.pocketCapacity)).enter .joining

theorem State.leaveLoading_joining {c : StationConfig} {s : State} (h : s.ctl.linkLossHeld = false) :
    s.leaveLoading c = (s.joining c).judgeHold := if_neg (by rw [h]; nofun)

theorem State.joining_eq (c : StationConfig) (s : State) :
    s.joining c = { s with ctl := { s.ctl with station := .joining }, link := (s.joining c).link } := by
  unfold State.joining State.append
  split <;> rfl

theorem State.joining_queued (c : StationConfig) {s : State} (h : s.ctl.station = .loading) :
    FrameQueued (.join s.ctl.resetCause c.stapler c.edge s.head.readings.outcome c.pocketCapacity) (fun _ => True) s.link
      (s.joining c).link :=
  State.append_queued _ (by rw [h]; nofun)

/-- The hold is judged at the entry to JOINING (R157). -/
theorem State.joining_judged (c : StationConfig) (s : State) :
    (s.joining c).judgeHold =
        { s with
          ctl := { s.ctl with station := .joining, hold := (s.joining c).judgeHold.ctl.hold }
          link := (s.joining c).judgeHold.link } ∧
      HoldRaised (s.ctl.hold.active = false ∧ HoldWanted s.head.queue.length s.rack.tray s) s.ctl.hold
        (s.joining c).judgeHold.ctl.hold ∧
      HoldQueued (s.ctl.hold.active = false ∧ HoldWanted s.head.queue.length s.rack.tray s) s.ctl.hold s.cfg.holdTime
        (s.joining c).link (s.joining c).judgeHold.link := by
  have hj := s.joining_eq c
  obtain ⟨hframe, hjudged⟩ := (s.joining c).noteHold_raised false
    (s.ctl.hold.active = false ∧ HoldWanted s.head.queue.length s.rack.tray s) (by
      rw [hj]
      simp [StationState.holds, HoldWanted])
  rw [← State.judgeHold_eq] at hframe hjudged
  rw [show (s.joining c).ctl.hold = s.ctl.hold by rw [hj], show (s.joining c).cfg = s.cfg by rw [hj]; rfl] at hjudged
  refine ⟨?_, hjudged⟩
  rw [hframe]
  generalize (s.joining c).judgeHold = t
  rw [hj]

/-- What the exit leaves as it was. -/
theorem State.leaveLoading_keeps (c : StationConfig) (s : State) :
    (s.leaveLoading c).config = s.config ∧ (s.leaveLoading c).ctl.storeResult = s.ctl.storeResult ∧
      (s.leaveLoading c).packs.entries = s.packs.entries ∧ (s.leaveLoading c).head.readings = s.head.readings ∧
      (s.leaveLoading c).head.arrivals = s.head.arrivals ∧ (s.leaveLoading c).head.queue = s.head.queue ∧
      (s.leaveLoading c).part = s.part ∧ (s.leaveLoading c).rack = s.rack ∧
      (s.leaveLoading c).head.staples = s.head.staples ∧ (s.leaveLoading c).store = s.store ∧
      (s.leaveLoading c).pockets = s.pockets := by
  cases h : s.ctl.linkLossHeld with
  | true =>
    rw [State.leaveLoading_safe h]
    exact ⟨rfl, rfl, rfl, rfl, rfl, rfl, rfl, rfl, rfl, rfl, rfl⟩
  | false =>
    rw [State.leaveLoading_joining h, (s.joining_judged c).1]
    exact ⟨rfl, rfl, rfl, rfl, rfl, rfl, rfl, rfl, rfl, rfl, rfl⟩

/-- An entry stands appended in a state with the same head and the same reasons to block. -/
theorem EntryAppended.later {p : PocketId} {j : Job} {k : Nat} {s w t : State} (h : EntryAppended p j k s w)
    (hhead : t.head = w.head) (hblocked : ∀ b, BlockedBy p j b w → BlockedBy p j b t) : EntryAppended p j k s t := by
  obtain ⟨x, hpocket, hjob, hlane, hstamp, hpassed, hstrokes, hb, hplaced⟩ := h
  exact ⟨x, hpocket, hjob, hlane, hstamp, hpassed, hstrokes, hblocked _ hb, by rwa [hhead]⟩

section Exit

variable {c : StationConfig} {occupied : PocketLevels} {cartridge : Bool} {s w : State}

/-- The exit by a link loss held (R150). -/
theorem Readied.exit_safe (h : Readied c occupied cartridge s w) (hloss : s.ctl.linkLossHeld = true) :
    (w.leaveLoading c).ctl =
        { s.ctl with
          station := .safe
          storeResult := s.storeCheck
          linkLossHeld := false
          hold := { active := false, queued := false, timer := none }
          reportSlot := none
          answerSlot := none
          rosterCursor := none } ∧
      (w.leaveLoading c).link = { s.link with queue := [] } ∧
      (w.leaveLoading c).packs.bids = (s.packs.bids.filter fun b => decide (b.stage = .sent)) ∧
      (w.leaveLoading c).head.state = .stopped ∧ (w.leaveLoading c).head.testWaiting = false := by
  have hw : w.ctl.linkLossHeld = true := by rw [h.ctl]; exact hloss
  rw [State.leaveLoading_safe hw]
  refine ⟨?_, ?_, ?_, rfl, rfl⟩
  · rw [h.ctl]
  · rw [h.link]
  · rw [h.packs]

/-- The exit to JOINING (R157, R184 step 8). -/
theorem Readied.exit_joining (h : Readied c occupied cartridge s w) (hl : s.ctl.station = .loading)
    (hloss : s.ctl.linkLossHeld = false) {t : State} (ht : w.leaveLoading c = t) :
    t.ctl =
        { s.ctl with
          station := .joining
          storeResult := s.storeCheck
          hold := t.ctl.hold
          rosterCursor := t.ctl.rosterCursor } ∧
      t.ctl.rosterCursor = w.ctl.rosterCursor ∧ t.packs = s.packs ∧ t.head = w.head ∧ IdleHeadServed t ∧
      (∀ p b, BlockedBy p .clear b w → BlockedBy p .clear b t) ∧
      ∃ raised l,
        (raised ↔ s.ctl.hold.active = false ∧ HoldWanted t.head.queue.length t.rack.tray t) ∧
          FrameQueued (.join s.ctl.resetCause c.stapler c.edge s.head.readings.outcome c.pocketCapacity)
            (fun _ => True) s.link l ∧
          HoldQueued raised s.ctl.hold c.holdTime l t.link ∧ HoldRaised raised s.ctl.hold t.ctl.hold := by
  have hw : w.ctl.linkLossHeld = false := by rw [h.ctl]; exact hloss
  have hstation : w.ctl.station = .loading := by rw [h.ctl]; exact hl
  have hwctl := h.ctl
  have hhold : w.ctl.hold = s.ctl.hold := by rw [hwctl]
  have htime : w.cfg.holdTime = c.holdTime := by rw [State.cfg, h.stored.config]; rfl
  have hjoin := State.joining_queued c hstation
  rw [h.link, h.readings, hwctl] at hjoin
  obtain ⟨hframe, hraised, hqueued⟩ := w.joining_judged c
  rw [hhold] at hraised hqueued
  rw [htime] at hqueued
  rw [← State.leaveLoading_joining hw, ht] at hframe hraised hqueued
  have hctl : t.ctl = { w.ctl with station := .joining, hold := t.ctl.hold } := by rw [hframe]
  have hhead : t.head = w.head := by rw [hframe]
  have hwanted : HoldWanted w.head.queue.length w.rack.tray w = HoldWanted t.head.queue.length t.rack.tray t := by
    rw [hframe]
    rfl
  rw [hwanted] at hraised hqueued
  refine ⟨?_, ?_, ?_, hhead, ?_, fun p b hb => ?_, _, _, Iff.rfl, hjoin, hqueued, hraised⟩
  · rw [hctl, hwctl]
  · rw [hctl]
  · rw [hframe]
    exact h.packs
  · intro hidle
    rw [hhead] at hidle ⊢
    exact ⟨(h.served hidle).1, fun _ => (h.served hidle).2 (Or.inl hstation)⟩
  · unfold BlockedBy at hb ⊢
    rw [hframe]
    exact hb

end Exit

/-- Settles O10: the start sequence up to its exit, and then the exit by the link loss held. -/
theorem startSequenceEntersJoining : Obligations.StartSequenceEntersJoining := by
  intro bytes occupied cartridge c start remaining result s hr hl hq _ hv hresult hstart hremaining
  obtain rfl : s.storeCheck = result := s.storeCheck_eq.trans hresult.symm
  have hexec : exec (.imageReadComplete bytes occupied cartridge) s =
      .next ((s.readied c occupied cartridge).leaveLoading c) := by
    refine (event_running hr).trans (congrArg _ ?_)
    simp only [State.imageRead, hl, hv, State.startWith_eq]
  have hready := State.readied_readied (c := c) (occupied := occupied) (cartridge := cartridge) hl hq
  generalize s.readied c occupied cartridge = w at hexec hready
  have hrack : startRack s.store c s.storeCheck = start := by rw [startRack_eq, hstart]; rfl
  obtain ⟨tconfig, tresult, tentries, treadings, tarrivals, tqueue, tpart, track, tstaples, tstore, tpockets⟩ :=
    w.leaveLoading_keeps c
  refine ⟨_, hexec, ?_, ?_, ?_, ?_, ?_, ?_, ?_, fun i => ?_, ?_, ?_, ?_, fun p => ?_, hready.exit_safe, fun hloss => ?_⟩
  · exact tconfig.trans hready.stored.config
  · rw [tresult, hready.ctl]
  · rw [tentries, hready.packs]
  · exact treadings.trans hready.readings
  · exact tarrivals.trans hready.arrivals
  · rw [tqueue]
    exact hready.queue
  · exact tpart.trans hready.part
  · rw [track, hready.bins, hrack]
  · rw [track, hready.tray, hrack]
  · rw [tstaples, hready.staples, startStaples_eq, ← hremaining]
    cases s.part.held.cartridge <;> by_cases hgood : s.storeCheck = .good <;> simp [hgood]
  · rw [tstore, hready.stored.store, track, tstaples]
    rfl
  · have hp := hready.pocket p
    rw [tpockets]
    unfold Pocket.CheckedAs at hp
    exact hp
  · obtain ⟨hctl, hcursor, hpacks, hhead, hserved, hblocked, hframes⟩ := hready.exit_joining hl hloss rfl
    refine ⟨hctl, fun hc => hcursor.trans (hready.cursor hc), hpacks, hserved, fun hst hc => ?_, fun hst ht => ?_,
      fun p hp => (hready.appended p hp).later hhead (hblocked p), hframes⟩
    · rw [State.testing, hhead]
      exact hready.tested hst hc
    · rw [State.testing, hhead]
      exact (hready.untested hst).trans ht

end Sys2Proof.Machine

namespace Sys2Proof.Machine

open Sys2Proof.Config

/-! ### Room on the exception tray (R86, R100, R134) -/

/-- The exception tray count is at most the capacity (R134). -/
def TrayBound (s : State) : Prop := ∀ c, s.config = some c → s.rack.tray ≤ c.trayCapacity

/-- A tray drop is in progress (R100). -/
def State.dropsToTray (s : State) : Prop := ∃ op, s.head.state = .busy op ∧ op.phase = .trayDrop

/-- A ready entry would start a tray drop (R86, R92). -/
def State.trayAwaited (s : State) : Prop :=
  s.ctl.station.freezes = false ∧ ∃ e ∈ s.head.queue, e.job ≠ .finish ∧ e.blocked = none

/-- The tray has room for one pack more wherever there is a configuration. -/
def State.trayHasRoom (s : State) : Prop := ∀ c, s.config = some c → s.rack.tray < c.trayCapacity

/-- The tray count is within the capacity, with room for a drop in progress and for a ready entry that would start one. -/
def TrayRoom (s : State) : Prop :=
  TrayBound s ∧ (s.dropsToTray → s.trayHasRoom) ∧ (s.trayAwaited → s.trayHasRoom)

/-- What the tray invariant says beside the transmit queue. -/
def TrayFits (s : State) : Prop := ConfiguredOrIdle s ∧ TrayRoom s

theorem trayWithin_iff {s : State} : TrayWithin s ↔ TransmitSound s ∧ TrayFits s := by
  constructor
  · rintro ⟨htx, hconf, hroom⟩
    refine ⟨htx, hconf, fun c hc => (hroom c hc).1, ?_, ?_⟩
    · rintro ⟨op, hop, hph⟩ c hc
      exact (hroom c hc).2.1 op hop hph
    · rintro ⟨hfr, e, he, hj, hb⟩ c hc
      exact (hroom c hc).2.2 hfr e he hj hb
  · rintro ⟨htx, hconf, hbound, hdrops, hawaited⟩
    exact ⟨htx, hconf, fun c hc => ⟨hbound c hc, fun op hop hph => hdrops ⟨op, hop, hph⟩ c hc,
      fun hfr e he hj hb => hawaited ⟨hfr, e, he, hj, hb⟩ c hc⟩⟩

section Room

variable {s t : State}

theorem TrayRoom.bound (h : TrayRoom s) : TrayBound s := h.1

theorem TrayRoom.drops (h : TrayRoom s) : s.dropsToTray → s.trayHasRoom := h.2.1

theorem TrayRoom.awaited (h : TrayRoom s) : s.trayAwaited → s.trayHasRoom := h.2.2

theorem TrayBound.congr (h : TrayBound s) (hc : t.config = s.config) (ht : t.rack.tray = s.rack.tray) : TrayBound t := by
  unfold TrayBound
  rw [hc, ht]
  exact h

theorem TrayBound.hasRoom (h : TrayBound s) (hf : s.trayFull = false) : s.trayHasRoom := by
  intro c hc
  have hne : s.rack.tray ≠ c.trayCapacity := by simpa [State.trayFull, hc] using hf
  exact Nat.lt_of_le_of_ne (h c hc) hne

/-- Room for what the state asks of the tray is all that a state with the same tray needs. -/
theorem TrayRoom.mono (h : TrayRoom s) (hc : t.config = s.config) (ht : t.rack.tray = s.rack.tray)
    (hd : t.dropsToTray → s.dropsToTray ∨ s.trayHasRoom) (ha : t.trayAwaited → s.trayAwaited ∨ s.trayHasRoom) :
    TrayRoom t := by
  have hroom : s.trayHasRoom → t.trayHasRoom := fun hr => by
    unfold State.trayHasRoom
    rw [hc, ht]
    exact hr
  exact ⟨h.bound.congr hc ht, fun hw => hroom ((hd hw).elim h.drops id), fun hw => hroom ((ha hw).elim h.awaited id)⟩

theorem State.dropsToTray_congr (hh : t.head.state = s.head.state) : t.dropsToTray ↔ s.dropsToTray := by
  unfold State.dropsToTray
  rw [hh]

theorem State.not_dropsToTray (hh : ∀ op, s.head.state ≠ .busy op) : ¬ s.dropsToTray := fun ⟨op, hop, _⟩ => hh op hop

theorem State.not_trayAwaited (hq : s.head.queue = []) : ¬ s.trayAwaited := fun ⟨_, e, he, _⟩ => by
  rw [hq] at he
  exact absurd he List.not_mem_nil

theorem TrayRoom.congr (h : TrayRoom s) (hc : t.config = s.config) (ht : t.rack.tray = s.rack.tray)
    (hh : t.head.state = s.head.state) (hq : t.head.queue = s.head.queue)
    (hf : t.ctl.station.freezes = false → s.ctl.station.freezes = false) : TrayRoom t := by
  refine h.mono hc ht (fun hd => Or.inl ((State.dropsToTray_congr hh).1 hd)) fun ⟨hfr, hw⟩ => Or.inl ⟨hf hfr, ?_⟩
  rwa [hq] at hw

theorem State.blockedReason_not_full {p : PocketId} {j : Job} (hj : j ≠ .finish) (hb : s.blockedReason p j = none) :
    s.trayFull = false := by
  cases j with
  | finish => exact absurd rfl hj
  | setAside r => simpa [State.blockedReason] using hb
  | clear => simpa [State.blockedReason] using hb

/-- The blocked reasons evaluated again leave a ready entry that needs the tray only where it has room (R86, R87). -/
theorem TrayBound.reevaluate (h : TrayBound s) (hd : s.dropsToTray → s.trayHasRoom) : TrayRoom s.reevaluate := by
  refine ⟨h.congr (by simp) (by simp), fun hw => ?_, fun ⟨hfr, e, he, hj, hb⟩ => ?_⟩
  · have := hd ((State.dropsToTray_congr (by simp)).1 hw)
    simpa [State.trayHasRoom] using this
  · have hfr' : s.ctl.station.freezes = false := by simpa using hfr
    simp only [State.reevaluate, hfr', Bool.false_eq_true, if_false, State.onHead_head, List.mem_map] at he
    obtain ⟨x, -, rfl⟩ := he
    have := h.hasRoom (State.blockedReason_not_full hj hb)
    simpa [State.trayHasRoom] using this

/-- A grant starts a tray drop for a ready entry that awaits the tray alone (R86, R92). -/
theorem TrayRoom.serve (h : TrayRoom s) : TrayRoom s.serve := by
  rcases s.serve_cases with e | ⟨-, -, e⟩ | ⟨x, hx, hb, -, -, hsel, e⟩ <;> rw [e]
  · exact h
  · exact h.mono rfl rfl (fun ⟨op, hop, _⟩ => absurd hop nofun) fun hw => Or.inl hw
  · have hfr : s.ctl.station.freezes = false := by
      revert hsel
      cases s.ctl.station <;> simp [StationState.selects, StationState.freezes]
    refine h.mono rfl rfl ?_ fun ⟨_, y, hy, hj, hyb⟩ => Or.inl ⟨hfr, ?_⟩
    · rintro ⟨op, hop, hph⟩
      obtain rfl : s.operationOf x = op := HeadState.busy.inj hop
      refine Or.inr (h.awaited ⟨hfr, x, hx, fun hj => ?_, hb⟩)
      simp only [State.operationOf, State.firstPhase, hj, State.finishPhase] at hph
      split at hph <;> exact absurd hph nofun
    · obtain ⟨z, hz, rfl⟩ : ∃ z ∈ s.head.queue.erase x, passOver x.stamp z = y := by
        simpa [State.grant] using hy
      obtain ⟨-, hzj, -, -, hzb, -⟩ := passOver_parts x.stamp z
      exact ⟨z, List.mem_of_mem_erase hz, hzj ▸ hj, hzb ▸ hyb⟩

theorem TrayBound.reevaluateAndServe (h : TrayBound s) (hd : s.dropsToTray → s.trayHasRoom) :
    TrayRoom s.reevaluateAndServe := (h.reevaluate hd).serve

/-- The end of an operation needs no more than the bound: every reason is evaluated afresh (R87). -/
theorem TrayBound.headIdle (h : TrayBound s) : TrayRoom s.headIdle :=
  TrayBound.reevaluateAndServe (s := s.headTo .idle) h fun hd =>
    absurd hd (State.not_dropsToTray (s := s.headTo .idle) fun _ => nofun)

theorem TrayRoom.rescan (h : TrayRoom s) : TrayRoom s.rescan :=
  h.congr (by simp) (by simp) (by simp) (by simp) (by simp)

@[simp] theorem State.accounted_state (p : PocketId) (j : Job) (s : State) :
    (s.accounted p j).head.state = s.head.state := by
  cases j <;> simp [State.accounted]

/-- An appended entry is blocked while the tray is full (R85, R86). -/
theorem TrayRoom.enqueue (h : TrayRoom s) (p : PocketId) (j : Job) (l : Lane) : TrayRoom (s.enqueue p j l) := by
  refine h.mono (by simp) (by simp) (fun hd => Or.inl ((State.dropsToTray_congr (by simp)).1 hd)) ?_
  rintro ⟨hfr, e, he, hj, hb⟩
  rw [State.enqueue_queue] at he
  rcases List.mem_append.1 he with he | he
  · exact Or.inl ⟨by simpa using hfr, e, he, hj, hb⟩
  · rw [List.mem_singleton.1 he] at hj hb
    exact Or.inr (h.bound.hasRoom (State.blockedReason_not_full hj hb))

theorem TrayRoom.closePocket (h : TrayRoom s) (p : PocketId) (j : Job) : TrayRoom (s.closePocket p j) := by
  rw [State.closePocket_eq]
  refine TrayRoom.serve (TrayRoom.enqueue ?_ p j _)
  exact h.congr (by simp) (by simp) (by simp) (by simp) (by simp)

theorem TrayRoom.checkPocket (h : TrayRoom s) (p : PocketId) (occupied : Bool) : TrayRoom (s.checkPocket p occupied) := by
  unfold State.checkPocket
  split
  · exact TrayRoom.enqueue (s := s.onPocket p _) h p .clear .normal
  · exact h

/-- A converted entry has its reason evaluated again (R76, R86). -/
theorem TrayRoom.convertWaiting (h : TrayRoom s) (p : PocketId) (r : AsideReason) : TrayRoom (s.convertWaiting p r) := by
  rw [State.convertWaiting_eq]
  refine TrayRoom.serve (h.mono (by simp [State.converted]) (by simp [State.converted])
    (fun hd => Or.inl ((State.dropsToTray_congr (by simp [State.converted])).1 hd)) ?_)
  rintro ⟨hfr, e, he, hj, hb⟩
  obtain ⟨y, hy, rfl⟩ := (s.mem_converted_queue p r).1 he
  split at hb
  · have hroom := TrayBound.hasRoom (s := (s.accountAside p r).pocketTo p (.waiting (.setAside r)))
      (h.bound.congr (by simp) (by simp)) (State.blockedReason_not_full (p := p) (j := .setAside r) (by simp) hb)
    exact Or.inr (by simpa [State.trayHasRoom] using hroom)
  · next hp =>
    rw [if_neg hp] at hj
    exact Or.inl ⟨by simpa [State.converted] using hfr, y, hy, hj, hb⟩

end Room

end Sys2Proof.Machine

namespace Sys2Proof.Machine

open Sys2Proof.Config

/-! ### A station without a configuration begins no work (R184, R187) -/

section Fits

variable {s t : State}

theorem ConfiguredOrIdle.config_of (h : ConfiguredOrIdle s)
    (hs : s.ctl.station ≠ .loading ∧ s.ctl.station ≠ .configFault ∧ s.ctl.station ≠ .safe) : s.config ≠ none := fun hn => by
  obtain ⟨-, -, -, hst⟩ := h.1 hn
  rcases hst with e | e | e
  · exact hs.1 e
  · exact hs.2.1 e
  · exact hs.2.2 e

theorem ConfiguredOrIdle.config_of_holds (h : ConfiguredOrIdle s) (hs : s.ctl.station.holds = true) : s.config ≠ none := by
  refine h.config_of ⟨?_, ?_, ?_⟩ <;> intro he <;> rw [he] at hs <;> exact absurd hs nofun

theorem ConfiguredOrIdle.config_of_gates (h : ConfiguredOrIdle s) (hs : s.ctl.station.gates = true) : s.config ≠ none := by
  refine h.config_of ⟨?_, ?_, ?_⟩ <;> intro he <;> rw [he] at hs <;> exact absurd hs nofun

theorem ConfiguredOrIdle.config_of_busy (h : ConfiguredOrIdle s) {op : Operation} (hb : s.head.state = .busy op) :
    s.config ≠ none := fun hn => (h.1 hn).2.2.1 op hb

/-- The station and the configuration stand, and nothing begins at a station without one. -/
theorem ConfiguredOrIdle.kept (h : ConfiguredOrIdle s) (hc : t.config = s.config) (hst : t.ctl.station = s.ctl.station)
    (hq : s.head.queue = [] → t.head.queue = []) (hb : s.packs.bids = [] → t.packs.bids = [])
    (hh : (∀ op, s.head.state ≠ .busy op) → ∀ op, t.head.state ≠ .busy op) : ConfiguredOrIdle t := by
  refine ⟨fun hn => ?_, fun hn => ?_⟩
  · obtain ⟨h1, h2, h3, h4⟩ := h.1 (hc ▸ hn)
    exact ⟨hq h1, hb h2, hh h3, hst ▸ h4⟩
  · exact hst ▸ h.2 (hc ▸ hn)

theorem TrayFits.configured (h : TrayFits s) : ConfiguredOrIdle s := h.1

theorem TrayFits.room (h : TrayFits s) : TrayRoom s := h.2

/-- A configured station goes on in its state, or in another one that has a configuration. -/
theorem TrayFits.of_config (hs : s.config ≠ none) (hc : t.config = s.config)
    (hl : t.ctl.station ≠ .loading ∧ t.ctl.station ≠ .configFault) (hr : TrayRoom t) : TrayFits t :=
  ⟨⟨fun hn => absurd (hc ▸ hn) hs, fun _ => hl⟩, hr⟩

theorem TrayFits.stays (h : TrayFits s) (hs : s.config ≠ none) (hc : t.config = s.config)
    (hst : t.ctl.station = s.ctl.station) (hr : TrayRoom t) : TrayFits t :=
  .of_config hs hc (hst ▸ h.configured.2 hs) hr

theorem ConfiguredOrIdle.eased (h : ConfiguredOrIdle s) (k : s.view.Eased t.view) : ConfiguredOrIdle t := by
  obtain ⟨hc, hq, -, hh, -, -⟩ := k.eqs
  have hbids : s.packs.bids = [] → t.packs.bids = [] := fun he =>
    State.view_claims_eq_nil.1 (List.sublist_nil.1 (State.view_claims_eq_nil.2 he ▸ k.claims))
  have hbusy : (∀ op, s.head.state ≠ .busy op) → ∀ op, t.head.state ≠ .busy op := fun hn =>
    HeadState.work_ne_busy.1 (by rw [show t.head.state.work = s.head.state.work from hh]; exact HeadState.work_ne_busy.2 hn)
  rcases k.station with hst | ⟨hd, hst⟩
  · exact h.kept hc hst (fun he => (show t.head.queue = s.head.queue from hq).trans he) hbids hbusy
  · have hs : s.config ≠ none := h.config_of_gates (by rw [show s.ctl.station = .drain from hd]; rfl)
    exact ⟨fun hn => absurd ((show t.config = s.config from hc) ▸ hn) hs, fun _ => by
      rw [show t.ctl.station = .standby from hst]
      exact ⟨nofun, nofun⟩⟩

/-- Claims that end and a drain that completes leave the tray and the phase of the head (R35, R190). -/
theorem TrayFits.eased (h : TrayFits s) (k : s.view.Eased t.view) (ht : t.rack.tray = s.rack.tray)
    (hh : t.head.state = s.head.state) : TrayFits t := by
  obtain ⟨hc, hq, -⟩ := k.eqs
  refine ⟨h.configured.eased k, h.room.congr hc ht hh hq fun hf => ?_⟩
  rcases k.station with hst | ⟨hd, -⟩
  · exact (congrArg StationState.freezes hst).symm.trans hf
  · exact congrArg StationState.freezes hd

theorem keepsFits_of_eased {f : State → State} (h : ∀ s : State, s.view.Eased (f s).view)
    (hk : ∀ s : State, (f s).rack.tray = s.rack.tray ∧ (f s).head.state = s.head.state) : Keeps TrayFits f :=
  fun s hs => hs.eased (h s) (hk s).1 (hk s).2

theorem keepsFits_of_view {f : State → State} (h : ∀ s : State, (f s).view = s.view)
    (hk : ∀ s : State, (f s).rack.tray = s.rack.tray ∧ (f s).head.state = s.head.state) : Keeps TrayFits f :=
  keepsFits_of_eased (fun s => .of_eq (h s)) hk

theorem TrayFits.of_view (h : TrayFits s) (hv : t.view = s.view) (ht : t.rack.tray = s.rack.tray)
    (hh : t.head.state = s.head.state) : TrayFits t := h.eased (.of_eq hv) ht hh

theorem TrayFits.serve (h : TrayFits s) : TrayFits s.serve := by
  refine ⟨?_, h.room.serve⟩
  rcases s.serve_cases with e | ⟨-, -, e⟩ | ⟨x, hx, -, -, -, -, e⟩
  · rw [e]
    exact h.configured
  · rw [e]
    exact h.configured.kept rfl rfl id id fun _ _ => nofun
  · have hs : s.config ≠ none := fun hn => by
      rw [(h.configured.1 hn).1] at hx
      exact absurd hx List.not_mem_nil
    exact (h.stays hs (by simp) (by simp) h.room.serve).configured

/-- A re-scan bids in RUN alone (R22, R24). -/
theorem TrayFits.rescan (h : TrayFits s) : TrayFits s.rescan := by
  by_cases hrun : s.ctl.station = .run
  · exact h.stays (h.configured.config_of_gates (by rw [hrun]; rfl)) (by simp) (by simp) h.room.rescan
  · rw [State.rescan_not_run hrun]
    exact h

theorem ConfiguredOrIdle.reevaluate (h : ConfiguredOrIdle s) : ConfiguredOrIdle s.reevaluate := by
  refine h.kept (by simp) (by simp) (fun hq => ?_) (by simp) (by simp)
  unfold State.reevaluate
  split
  · exact hq
  · simp [hq]

/-- Blocked reasons evaluated again, and the head served, after a change that leaves room for a drop in progress. -/
theorem TrayFits.reviewed (h : ConfiguredOrIdle s) (hb : TrayBound s) (hd : s.dropsToTray → s.trayHasRoom) :
    TrayFits s.reevaluateAndServe := TrayFits.serve (s := s.reevaluate) ⟨h.reevaluate, hb.reevaluate hd⟩

/-- The end of an operation (R87, R90). -/
theorem TrayFits.headIdle (hs : s.config ≠ none) (hst : s.ctl.station ≠ .loading ∧ s.ctl.station ≠ .configFault)
    (hb : TrayBound s) : TrayFits s.headIdle := .of_config hs (by simp) (by simpa using hst) hb.headIdle

/-! ### The gate and the pockets (R60 to R79) -/

theorem TrayFits.closePocket (h : TrayFits s) (hs : s.config ≠ none) (p : PocketId) (j : Job) :
    TrayFits (s.closePocket p j) := h.stays hs (by simp) (by simp) (h.room.closePocket p j)

theorem TrayFits.convertWaiting (h : TrayFits s) (hs : s.config ≠ none) (p : PocketId) (r : AsideReason) :
    TrayFits (s.convertWaiting p r) := h.stays hs (by simp) (by simp) (h.room.convertWaiting p r)

theorem State.retireUngathered_fits (p : PocketId) (r : AsideReason) : Keeps TrayFits (State.retireUngathered p r) :=
  fun s h => ⟨h.configured.kept (by simp) (by simp) (by simp) (by simp) (by simp),
    h.room.congr (by simp) (by simp) (by simp) (by simp) (by simp)⟩

theorem State.judgePack_fits {p : PocketId} (o : Offer) (m : Mark) (h : TrayFits s) (hs : s.config ≠ none) :
    TrayFits (s.judgePack p o m) := by
  unfold State.judgePack
  split
  · exact h.closePocket hs _ _
  · split
    · split <;> exact h.closePocket hs _ _
    · exact h

theorem State.absorbSheet_fits {p : PocketId} (r : AsideReason) (o : Offer) (m : Mark) (h : TrayFits s)
    (hs : s.config ≠ none) : TrayFits (s.absorbSheet p r o m) := by
  have hcloses : ∀ t : State, TrayFits t → t.config ≠ none →
      TrayFits (if absorbingCloses s.cfg o m (t.pockets.get p).sheets then t.closePocket p (.setAside r) else t) := by
    intro t ht hconf
    split
    · exact ht.closePocket hconf _ _
    · exact ht
  unfold State.absorbSheet
  dsimp only
  split
  · exact hcloses (s.takeSheet p) h hs
  · exact hcloses s.passOwn h hs

theorem State.firstSheet_fits {p : PocketId} (o : Offer) (m : Mark) (h : TrayFits s) (hs : s.config ≠ none) :
    TrayFits (s.firstSheet p o m) := by
  unfold State.firstSheet
  dsimp only
  split
  · exact State.judgePack_fits (s := (((s.takeSheet p).pocketTo p .filling).nextIndex p)) o m h hs
  · split
    · exact TrayFits.closePocket (s := (s.takeSheet p).pocketTo p (.absorbing .sequence)) h hs _ _
    · exact h

theorem State.fillingSheet_fits {p : PocketId} (next : Nat) (o : Offer) (m : Mark) (h : TrayFits s) (hs : s.config ≠ none) :
    TrayFits (s.fillingSheet p next o m) := by
  unfold State.fillingSheet
  split
  · split
    · exact TrayFits.closePocket (s := s.passOwn) h hs _ _
    · exact State.judgePack_fits (s := (s.takeSheet p).nextIndex p) o m h hs
  · exact State.absorbSheet_fits (s := s.pocketTo p (.absorbing .sequence)) _ o m h hs

theorem State.sheetAtPocket_fits {p : PocketId} (o : Offer) (m : Mark) (h : TrayFits s) (hs : s.config ≠ none) :
    TrayFits (s.sheetAtPocket p o m) := by
  unfold State.sheetAtPocket
  split
  · exact State.firstSheet_fits o m h hs
  · split
    · exact h
    · exact State.fillingSheet_fits _ o m h hs
  · exact State.absorbSheet_fits _ o m h hs
  · exact TrayFits.convertWaiting (s := s.extraSheet) h hs _ _
  all_goals exact h

theorem State.sheetArrives_fits (raw : Option SheetMark) : Keeps TrayFits (State.sheetArrives raw) := by
  intro s h
  unfold State.sheetArrives
  dsimp only
  split
  · next hg =>
    split
    · exact h
    · split
      · exact h
      · exact h
      · exact h
      · exact State.sheetAtPocket_fits (s := s.divertTo none) _ _ h (h.configured.config_of_gates hg)
  · exact h

theorem State.gapExpires_fits (p : PocketId) : Keeps TrayFits (State.gapExpires p) := by
  intro s h
  unfold State.gapExpires
  split
  · next hg =>
    have hs := h.configured.config_of_gates hg
    split
    · exact h.closePocket hs _ _
    · exact h.closePocket hs _ _
    · exact h
  · exact h

theorem State.firstSheetExpires_fits (p : PocketId) : Keeps TrayFits (State.firstSheetExpires p) := by
  intro s h
  unfold State.firstSheetExpires
  split
  · split
    · exact State.retireUngathered_fits p _ s h
    · exact h
  · exact h

/-! ### Frames of the pack table (R8 to R16, R36 to R39, R78, R79) -/

theorem State.considerNew_fits (e : Entry) : Keeps TrayFits fun s => s.considerNew e := by
  intro s h
  dsimp only [State.considerNew]
  split
  · split
    · exact h
    · exact h
    · next b load hb =>
      have hs := h.configured.config_of_gates (by rw [(State.consider_bid hb).1]; rfl)
      exact h.stays hs (by simp) (by simp) (h.room.congr (by simp) (by simp) (by simp) (by simp) (by simp))
  · exact h

theorem State.takeOffer_fits (sender : Nat) (b : OfferBody) : Keeps TrayFits (State.takeOffer sender b) := by
  intro s h
  unfold State.takeOffer
  split
  · exact h
  · split
    · exact h
    · split
      · exact h
      · split
        · exact State.considerNew_fits _ (s.onPacks _) h
        · exact h

theorem State.takeBid_kept (sender : Nat) (mine : Bool) (fit load : Nat) (id : PackId) (s : State) :
    (s.takeBid sender mine fit load id).rack.tray = s.rack.tray ∧
      (s.takeBid sender mine fit load id).head.state = s.head.state := by
  unfold State.takeBid
  (repeat' split) <;> simp [State.recordBid, State.bidSent]

theorem State.takeBidFrom_fits (sender : Nat) (b : BidBody) (id : PackId) : Keeps TrayFits (State.takeBidFrom sender b id) :=
  keepsFits_of_eased (fun s => s.takeBidFrom_eased sender b id) fun s => by
    unfold State.takeBidFrom
    split
    · exact s.takeBid_kept _ _ _ _ _
    · exact ⟨rfl, rfl⟩

theorem State.takeBidEcho_fits (e : TxEntry) : Keeps TrayFits (State.takeBidEcho e) :=
  keepsFits_of_eased (fun s => s.takeBidEcho_eased e) fun s => by
    unfold State.takeBidEcho
    split
    · split
      · exact s.takeBid_kept _ _ _ _ _
      · exact ⟨rfl, rfl⟩
    · exact ⟨rfl, rfl⟩

theorem State.resolveRetired_fits (id : PackId) : Keeps TrayFits (State.resolveRetired id) :=
  keepsFits_of_eased (fun s => s.resolveRetired_eased id) fun s => by
    unfold State.resolveRetired
    (repeat' split) <;> simp

theorem State.commitClaims_fits (b : PendingBid) : Keeps TrayFits (State.commitClaims b) := fun s h =>
  ⟨h.configured.kept (by simp [State.commitClaims]) (by simp [State.commitClaims]) (by simp [State.commitClaims])
      (fun hb => by simp [State.commitClaims, State.dropBid, hb]) (by simp [State.commitClaims]),
    h.room.congr (by simp [State.commitClaims]) (by simp [State.commitClaims]) (by simp [State.commitClaims])
      (by simp [State.commitClaims]) (by simp [State.commitClaims])⟩

theorem State.resolvePlaced_fits (id : PackId) (owner : Nat) : Keeps TrayFits (State.resolvePlaced id owner) := by
  intro s h
  unfold State.resolvePlaced
  split
  · exact h
  · next b _ =>
    split
    · exact TrayFits.eased (s := s.placeEntry id owner none) h (State.removeBid_eased id _) (by simp) (by simp)
    · split
      · exact State.commitClaims_fits b (s.placeEntry _ _ _) h
      · exact TrayFits.eased (s := s.placeEntry id owner none) h (State.releaseBid_eased id _) (by simp) (by simp)

theorem State.takeClose_fits (sender : Nat) (id : PackId) : Keeps TrayFits (State.takeClose sender id) := by
  intro s h
  unfold State.takeClose
  split
  · exact h
  · split
    · exact h
    · split
      · exact h
      · split
        · exact State.resolveRetired_fits id (s.retire id) h
        · exact State.resolvePlaced_fits id _ s h

theorem State.withdrawAtOwner_fits (p : PocketId) : Keeps TrayFits (State.withdrawAtOwner p) := by
  intro s h
  unfold State.withdrawAtOwner
  split
  · next hg =>
    split
    · exact State.retireUngathered_fits p _ s h
    · exact h
    · exact h
    · exact h.convertWaiting (h.configured.config_of_gates hg) _ _
    all_goals exact h
  · exact h

theorem State.takeWithdraw_fits (sender : Nat) (id : PackId) : Keeps TrayFits (State.takeWithdraw sender id) := by
  intro s h
  unfold State.takeWithdraw
  split
  · exact h
  · split
    · exact h
    · split
      · exact State.resolveRetired_fits id (s.retire id) h
      · split
        · split
          · exact State.withdrawAtOwner_fits _ s h
          · exact h
        · exact h

theorem State.freeRetired_fits (p : PocketId) : Keeps TrayFits (State.freeRetired p) := by
  intro s h
  unfold State.freeRetired
  split
  · have hr : TrayFits (s.onPocket p fun _ => Pocket.empty).rescan := TrayFits.rescan (s := s.onPocket p _) h
    exact hr.eased (State.judgeDrain_eased _) (by simp) (by simp)
  · exact h

theorem State.takeEnd_fits (sender : Nat) (id : PackId) : Keeps TrayFits (State.takeEnd sender id) := by
  intro s h
  unfold State.takeEnd
  split
  · exact h
  · split
    · exact h
    · split
      · split
        · exact h
        · split
          · exact State.freeRetired_fits _ (s.retire id) h
          · exact h
      · exact h

theorem State.takeEndEcho_fits (e : TxEntry) : Keeps TrayFits (State.takeEndEcho e) := by
  intro s h
  unfold State.takeEndEcho
  split
  · split
    · exact State.takeEnd_fits _ _ s h
    · exact State.takeEnd_fits _ _ s h
    · exact h
  · exact h

theorem State.takeForget_fits (sender : Nat) : Keeps TrayFits (State.takeForget sender) :=
  keepsFits_of_eased (fun s => s.takeForget_eased sender) fun s => by
    unfold State.takeForget
    split <;> simp

end Fits

end Sys2Proof.Machine

namespace Sys2Proof.Machine

open Sys2Proof.Config

/-! ### Head operations (R93 to R101) -/

section Head

variable {s t : State} {op : Operation}

/-- The operation in progress goes on in a phase: a tray drop only where the tray has room (R96, R100). -/
theorem TrayFits.startPhase (h : TrayFits s) (hs : s.config ≠ none) (next : Operation) {ph : Phase}
    (hph : ph = .trayDrop → s.trayHasRoom) : TrayFits (s.startPhase next ph) :=
  h.stays hs rfl rfl (h.room.mono rfl rfl
    (fun ⟨_, hop, hdrop⟩ => Or.inr (hph (by rw [← HeadState.busy.inj hop] at hdrop; exact hdrop))) fun ha => Or.inl ha)

theorem State.finishPhase_ne_trayDrop (p : PocketId) (retry : Bool) (s : State) : s.finishPhase p retry ≠ .trayDrop := by
  unfold State.finishPhase
  split <;> exact nofun

theorem State.goodClinch_fits (v : SenseReading) (h : TrayFits s) (hs : s.config ≠ none) : TrayFits (s.goodClinch op v) := by
  unfold State.goodClinch
  dsimp only
  split <;> exact TrayFits.startPhase (by exact h) (by exact hs) _ fun hp => absurd hp (State.finishPhase_ne_trayDrop _ _ _)

/-- A put-back ends in a fresh evaluation (R87, R89). -/
theorem TrayFits.putBack (h : TrayFits s) (hs : s.config ≠ none) (op : Operation) (j : Job) (lane : Lane)
    (strokes : Option StrokesDone) : TrayFits (s.putBack op j lane strokes) := by
  rw [State.putBack_eq]
  refine .headIdle (by simpa [State.returned] using hs) ?_
    (h.room.bound.congr (by simp [State.returned]) (by simp [State.returned]))
  simpa [State.returned] using h.configured.2 hs

theorem State.convertClinch_fits (h : TrayFits s) (hs : s.config ≠ none) : TrayFits (s.convertClinch op) := by
  have ht : TrayFits ((s.accountAside op.pocket .clinch).pocketTo op.pocket (.atHead (.setAside .clinch))) :=
    h.stays hs (by simp) (by simp) (h.room.congr (by simp) (by simp) (by simp) (by simp) (by simp))
  have hconf : ((s.accountAside op.pocket .clinch).pocketTo op.pocket (.atHead (.setAside .clinch))).config ≠ none := by
    simpa using hs
  unfold State.convertClinch
  dsimp only
  split
  · exact ht.putBack hconf _ _ _ _
  · next hf => exact ht.startPhase hconf _ fun _ => ht.room.bound.hasRoom (Bool.eq_false_iff.2 hf)

theorem State.strokeCompletes_fits (v : SenseReading) : Keeps TrayFits (State.strokeCompletes v) := by
  intro s h
  unfold State.strokeCompletes
  split
  · next op hb =>
    split
    · next position retry _ =>
      have hs := h.configured.config_of_busy hb
      have ht : TrayFits (s.writeClinch position v).spendStaple :=
        h.of_view (by simp) (by simp [State.spendStaple, State.writeClinch]) (by simp [State.spendStaple, State.writeClinch])
      have hconf : (s.writeClinch position v).spendStaple.config ≠ none := by
        simpa [State.spendStaple, State.writeClinch] using hs
      unfold State.strokeDone
      dsimp only
      split
      · exact State.goodClinch_fits v ht hconf
      · split
        · exact State.convertClinch_fits ht hconf
        · exact TrayFits.startPhase (s := State.count _ _) ht hconf _ nofun
    · exact h
  · exact h

/-- An emptied budget leaves the tray and the head as they were (R111). -/
theorem State.emptyStaples_fits : Keeps TrayFits State.emptyStaples := fun s h =>
  h.of_view (by simp) (by simp [State.emptyStaples]) (by simp [State.emptyStaples])

theorem State.noStapleFound_fits : Keeps TrayFits State.noStapleFound := by
  intro s h
  have ht := State.emptyStaples_fits s h
  have hserved := TrayFits.reviewed ht.configured ht.room.bound ht.room.drops
  unfold State.noStapleFound
  split
  · exact h
  · next op hb =>
    split
    · exact ht.putBack (by simpa [State.emptyStaples] using h.configured.config_of_busy hb) _ _ _ _
    · exact hserved
  · exact hserved
  · exact hserved

theorem State.dropConfirms_fits : Keeps TrayFits State.dropConfirms := by
  intro s h
  unfold State.dropConfirms
  split
  · next op hb =>
    have hs := h.configured.config_of_busy hb
    split
    · split
      · refine .headIdle (by simpa using hs) ?_ (h.room.bound.congr (by simp) ?_)
        · simpa [State.deliverPack, State.recordDrop] using h.configured.2 hs
        · simp [State.deliverPack, State.recordDrop]
      · exact .headIdle hs (h.configured.2 hs) h.room.bound
    · exact h
  · exact h

/-- A confirmed tray drop fills the room that the drop had (R100, R134). -/
theorem State.trayEnded_fits (h : TrayFits s) (hs : s.config ≠ none) (hd : s.dropsToTray) :
    TrayFits (s.trayEnded op).headIdle := by
  refine .headIdle (by simpa using hs) (by simpa [State.trayTakes] using h.configured.2 hs) fun c hc => ?_
  have hroom := h.room.drops hd c (by simpa using hc)
  simpa using hroom

/-! ### The self-test (R116 to R118) -/

/-- The head takes a state that is no operation. -/
theorem TrayFits.onHeadState (h : TrayFits s) {f : FinishingHead → FinishingHead}
    (hq : (f s.head).queue = s.head.queue) (hst : ∀ op, (f s.head).state ≠ .busy op) : TrayFits (s.onHead f) :=
  ⟨h.configured.kept rfl rfl (fun he => hq.trans he) id fun _ => hst,
    h.room.mono rfl rfl (fun hd => absurd hd (State.not_dropsToTray hst))
      fun ⟨hf, e, he, hj, hb⟩ => Or.inl ⟨hf, e, hq ▸ he, hj, hb⟩⟩

theorem State.requestTest_fits : Keeps TrayFits State.requestTest := fun s h =>
  TrayFits.serve (s := s.onHead fun k => { k with testWaiting := true }) h

theorem State.levelEnds_fits (level : TestLevel) (j : Judgement) : Keeps TrayFits (State.levelEnds level j) := by
  intro s h
  unfold State.levelEnds
  split
  · exact h.onHeadState rfl fun _ => nofun
  · exact h.onHeadState rfl fun _ => nofun
  · exact (h.onHeadState (f := fun k => { k with state := .idle, readings := _ }) rfl fun _ => nofun).rescan.serve

theorem State.referenceRead_fits (v : SenseReading) : Keeps TrayFits (State.referenceRead v) := by
  intro s h
  unfold State.referenceRead
  split
  · exact State.levelEnds_fits _ _ (s.writeReference _ v) h
  · exact h

theorem State.readingExpires_fits : Keeps TrayFits State.readingExpires := by
  intro s h
  unfold State.readingExpires
  split
  · exact State.levelEnds_fits _ _ s h
  · exact h

/-! ### The senses of the rack and the cartridge (R110, R133, R135) -/

/-- What changes the blocked reasons and not the tray, at a configured station (R87). -/
theorem TrayRoom.reviewed (h : TrayRoom s) (hc : t.config = s.config) (ht : t.rack.tray = s.rack.tray)
    (hh : t.head.state = s.head.state) : TrayRoom t.reevaluateAndServe := by
  refine (h.bound.congr hc ht).reevaluateAndServe fun hd => ?_
  have := h.drops ((State.dropsToTray_congr hh).1 hd)
  unfold State.trayHasRoom
  rw [hc, ht]
  exact this

theorem State.refill_room (c : StationConfig) : Keeps TrayRoom (State.refill c) := fun s h =>
  TrayRoom.rescan (h.reviewed (by simp) (by simp) (by simp))

theorem State.emptyBin_room (bin : Nat) : Keeps TrayRoom (State.emptyBin bin) := by
  intro s h
  unfold State.emptyBin
  split
  · exact h
  · exact TrayRoom.rescan
      (h.reviewed (by simp [State.forgetCursor]) (by simp [State.forgetCursor]) (by simp [State.forgetCursor]))

/-- An emptied tray has the room that a drop in progress had (R135). -/
theorem State.emptyTray_room : Keeps TrayRoom State.emptyTray := by
  intro s h
  unfold State.emptyTray
  refine TrayBound.reevaluateAndServe (fun c _ => by simp) fun hd c hc => ?_
  have hroom := h.drops ((State.dropsToTray_congr (by simp)).1 hd) c (by simpa using hc)
  simpa using Nat.zero_lt_of_lt hroom

theorem State.senseRaised_fits (hold : HeldEvents → HeldEvents) {take : StationConfig → State → State}
    (hroom : ∀ c, Keeps TrayRoom (take c))
    (hkept : ∀ c (s : State), (take c s).config = s.config ∧ (take c s).ctl.station = s.ctl.station) :
    Keeps TrayFits (State.senseRaised hold take) := by
  intro s h
  unfold State.senseRaised
  split
  · next c hc => exact h.stays (by simp [hc]) (hkept c s).1 (hkept c s).2 (hroom c s h.room)
  · split <;> exact h

/-! ### Stops (R102, R139 to R141, R150) -/

theorem State.stopHead_fits : Keeps TrayFits State.stopHead := fun _ h => h.onHeadState rfl fun _ => nofun

/-- Entry to HALTING with its head stopped (R141). -/
theorem State.enterHalting_fits (c : HaltCause) (h : TrayFits s) (hs : s.config ≠ none) : TrayFits (s.enterHalting c) := by
  have hstopped : TrayFits
      ((s.onCtl fun k => { k with station := .halting, haltCause := some c }).stopHead).endHold :=
    .of_config hs rfl ⟨nofun, nofun⟩ (h.room.mono rfl rfl (fun hd => absurd hd (State.not_dropsToTray fun _ => nofun))
      fun ⟨hf, _⟩ => absurd hf nofun)
  unfold State.enterHalting
  have hwithdrawn := hstopped.eased (State.withdrawUnsent_eased _) (by simp) (by simp)
  exact hwithdrawn.of_view (State.append_view _ _) (by simp) (by simp)

theorem State.holdFault_fits (c : HaltCause) : Keeps TrayFits (State.holdFault c) := by
  intro s h
  unfold State.holdFault
  split
  · exact h
  · exact State.stopHead_fits (s.onCtl _) h

theorem State.takeFault_fits (c : HaltCause) : Keeps TrayFits (State.takeFault c) := by
  intro s h
  have hhalts : s.ctl.station.gates = true → TrayFits (s.enterHalting c) := fun hg =>
    State.enterHalting_fits c h (h.configured.config_of_gates hg)
  unfold State.takeFault
  split
  · next hst => exact hhalts (hst ▸ rfl)
  · next hst => exact hhalts (hst ▸ rfl)
  · next hst => exact hhalts (hst ▸ rfl)
  · exact State.holdFault_fits c s h
  · exact State.holdFault_fits c s h
  all_goals exact h

theorem State.headFault_fits (c : HaltCause) : Keeps TrayFits (State.headFault c) := fun s h =>
  State.takeFault_fits c _ (State.stopHead_fits s h)

theorem State.enterSafe_fits : Keeps TrayFits State.enterSafe := by
  intro s h
  refine ⟨⟨fun hn => ?_, fun _ => ⟨nofun, nofun⟩⟩, h.room.mono rfl rfl
    (fun hd => absurd hd (State.not_dropsToTray fun _ => nofun)) fun ⟨hf, _⟩ => absurd hf nofun⟩
  obtain ⟨hq, hb, -, -⟩ := h.configured.1 hn
  exact ⟨hq,
    by simp [State.enterSafe, State.onCtl, State.onLink, State.stopHead, State.onHead, State.enter, State.onPacks, hb],
    fun _ => nofun, Or.inr (Or.inr rfl)⟩

theorem State.linkLoss_fits : Keeps TrayFits State.linkLoss := by
  intro s h
  unfold State.linkLoss
  split
  · exact h
  · exact h
  all_goals exact State.enterSafe_fits s h

@[simp] theorem State.startAttempt_frame (s : State) : s.startAttempt.rack = s.rack ∧ s.startAttempt.head = s.head := by
  unfold State.startAttempt
  split <;> exact ⟨rfl, rfl⟩

theorem State.ownSpoiled_fits : Keeps TrayFits State.ownSpoiled := by
  intro s h
  unfold State.ownSpoiled
  dsimp only
  split
  · exact h
  · have hstarted : TrayFits ((s.count .spoiledSeen).count .ownRetries).startAttempt :=
      h.of_view (State.startAttempt_view _) (by simp) (by simp)
    have hended := hstarted.eased (State.endAttempt_eased _) (by simp) (by simp)
    split
    · exact State.linkLoss_fits (State.onLink _ _) hended
    · exact hended

theorem State.receivedSpoiled_fits (r : Reception) : Keeps TrayFits (State.receivedSpoiled r) := by
  intro s h
  unfold State.receivedSpoiled
  dsimp only
  split
  · split
    · exact State.linkLoss_fits (State.onLink _ _) h
    · exact h
  · exact h

theorem State.frameSpoiled_fits (f : SpoiledFrame) : Keeps TrayFits (State.frameSpoiled f) := by
  intro s h
  unfold State.frameSpoiled
  split
  · cases f with
    | own => exact State.ownSpoiled_fits s h
    | received r => exact State.receivedSpoiled_fits r s h
  · exact h

theorem State.ejectCompletes_fits (occupied : Bool) : Keeps TrayFits (State.ejectCompletes occupied) := by
  intro s h
  unfold State.ejectCompletes
  split
  · next op hb =>
    split
    · dsimp only
      split
      · exact State.headFault_fits _ (s.readOccupied op.pocket occupied) h
      · exact TrayFits.startPhase (s := s.readOccupied op.pocket occupied) h (h.configured.config_of_busy hb) _ nofun
    · exact h
  · exact h

theorem State.trayDropConfirms_fits (occupied : Bool) : Keeps TrayFits (State.trayDropConfirms occupied) := by
  intro s h
  cases hst : s.head.state with
  | busy op =>
    cases hph : op.phase with
    | trayDrop =>
      cases occupied with
      | true =>
        have heq : s.trayDropConfirms true = (s.readOccupied op.pocket true).headFault .ejectFault := by
          simp [State.trayDropConfirms, hst, hph]
        rw [heq]
        exact State.headFault_fits _ (s.readOccupied op.pocket true) h
      | false =>
        rw [State.trayDropConfirms_ends hst hph]
        exact State.trayEnded_fits (s := s.readOccupied op.pocket false) h (h.configured.config_of_busy hst) ⟨op, hst, hph⟩
    | _ => simpa [State.trayDropConfirms, hst, hph] using h
  | _ => simpa [State.trayDropConfirms, hst] using h

theorem State.limitExpires_fits (inPhase : Phase → Bool) (c : HaltCause) :
    Keeps TrayFits (State.limitExpires inPhase c) := by
  intro s h
  unfold State.limitExpires
  split
  · split
    · exact State.headFault_fits c s h
    · exact h
  · exact h

theorem State.headJams_fits : Keeps TrayFits State.headJams := by
  intro s h
  unfold State.headJams
  split
  · exact h
  all_goals exact State.headFault_fits _ s h

theorem State.pocketJams_fits (p : PocketId) : Keeps TrayFits (State.pocketJams p) := by
  intro s h
  unfold State.pocketJams
  dsimp only
  split
  · exact State.takeFault_fits _ (s.jamLine p true) h
  · exact h

/-! ### JOINING, RUN, DRAIN and STANDBY (R22, R41, R140, R189, R190) -/

/-- A configured station in a hold state. -/
theorem TrayFits.of_holds (hs : s.config ≠ none) (hst : s.ctl.station.holds = true) (hr : TrayRoom s) : TrayFits s :=
  .of_config hs rfl ⟨fun e => absurd (e ▸ hst) nofun, fun e => absurd (e ▸ hst) nofun⟩ hr

/-- A station that works takes another hold state. -/
theorem TrayFits.enter (h : TrayFits s) (hs : s.ctl.station.holds = true) {st : StationState} (hst : st.holds = true) :
    TrayFits (s.enter st) := by
  refine .of_holds (h.configured.config_of_holds hs) hst (h.room.congr rfl rfl rfl rfl fun _ => ?_)
  revert hs
  cases s.ctl.station <;> simp [StationState.holds, StationState.freezes]

theorem State.enterDrain_fits (h : TrayFits s) (hs : s.ctl.station.holds = true) : TrayFits s.enterDrain :=
  ((h.enter hs (st := .drain) rfl).eased (State.withdrawUnsent_eased _) (by simp) (by simp)).eased
    (State.judgeDrain_eased _) (by simp) (by simp)

theorem State.enterRun_fits (h : TrayFits s) (hs : s.ctl.station.holds = true) : TrayFits s.enterRun :=
  (h.enter hs (st := .run) rfl).rescan

theorem State.haltOnHeld_fits (h : TrayFits s) (hs : s.config ≠ none) : TrayFits s.haltOnHeld := by
  unfold State.haltOnHeld
  split
  · exact h
  · exact State.enterHalting_fits (s := s.onCtl _) _ h hs

theorem State.joinEchoed_fits : Keeps TrayFits State.joinEchoed := by
  intro s h
  unfold State.joinEchoed
  split
  · next hst =>
    have hholds : s.ctl.station.holds = true := hst ▸ rfl
    have hentered : TrayFits (s.forgetSelf.enter .run) := TrayFits.enter (s := s.forgetSelf) h hholds rfl
    exact (State.haltOnHeld_fits hentered (h.configured.config_of_holds hholds)).rescan
  · exact h

/-! ### HALTED and back (R144, R148, R149) -/

/-- The halt consequences empty the queue (R144). -/
theorem State.haltEchoed_fits (h : TrayFits s) (hst : s.ctl.station = .halting) : TrayFits s.haltEchoed := by
  obtain ⟨-, -, -, hctl, -, -, -, hhead, -⟩ := s.haltEchoed_spec
  have hs : s.config ≠ none := h.configured.config_of (by rw [hst]; exact ⟨nofun, nofun, nofun⟩)
  refine .of_config hs (by simp) (by simp [hctl]) (h.room.mono (by simp) (by simp)
    (fun hd => Or.inl ((State.dropsToTray_congr (by simp)).1 hd))
    fun ha => absurd ha (State.not_trayAwaited (by rw [hhead])))

theorem State.resume_fits (occupied : PocketLevels) (h : TrayFits s) (hst : s.ctl.station = .halted) :
    TrayFits (s.resume occupied) := by
  have hs : s.config ≠ none := h.configured.config_of (by rw [hst]; exact ⟨nofun, nofun, nofun⟩)
  have hrestarted : TrayRoom s.restarted := h.room.mono rfl rfl
    (fun hd => absurd hd (State.not_dropsToTray fun _ => nofun)) fun ⟨_, hw⟩ => Or.inl ⟨by rw [hst]; rfl, hw⟩
  have hchecked : TrayRoom (s.leftoversChecked occupied) :=
    foldl_keepsCondition (P := TrayRoom) (fun p u hu => by
      dsimp only [State.resumePocket]
      split
      · exact hu.checkPocket _ _
      · exact hu) PocketId.all s.restarted hrestarted
  obtain ⟨hholds, hconf⟩ := State.leftoversChecked_open occupied hs
  rw [State.resume_eq]
  have hjudged : TrayFits (s.leftoversChecked occupied).judgeHold :=
    .of_holds (by simpa [State.view] using hconf) (by simpa [State.view] using hholds)
      (hchecked.congr (by simp) (by simp) (by simp) (by simp) (by simp))
  exact hjudged.rescan.serve

end Head

end Sys2Proof.Machine

namespace Sys2Proof.Machine

open Sys2Proof.Config

/-! ### The link, the console and the service button (R165, R175 to R182) -/

section Console

theorem State.contends_fits (m : ContentionMoment) : Keeps TrayFits (State.contends m) :=
  keepsFits_of_eased (fun s => s.contends_eased m) fun s => by
    unfold State.contends State.arbitrate State.enterContention
    (repeat' split) <;> simp

theorem State.renewHold_fits : Keeps TrayFits State.renewHold :=
  keepsFits_of_view State.renewHold_view fun s => by
    unfold State.renewHold
    (repeat' split) <;> simp

theorem State.asked_fits (a : Ask) : Keeps TrayFits (State.asked a) :=
  keepsFits_of_view (fun s => s.asked_view a) fun s => by
    unfold State.asked
    split <;> simp

theorem State.reportEchoed_fits (e : TxEntry) : Keeps TrayFits (State.reportEchoed e) :=
  keepsFits_of_view (fun s => s.reportEchoed_view e) fun s => by
    unfold State.reportEchoed State.freeReportSlot State.contentReported
    (repeat' split) <;> simp [State.headReported, State.binReported]

theorem State.takeOrder_fits (o : OrderKind) {obey : State → Obeyed} (h : Keeps TrayFits fun s => (obey s).state) :
    Keeps TrayFits (State.takeOrder o obey) := by
  intro s hs
  unfold State.takeOrder
  split
  · split
    · exact hs
    · exact TrayFits.of_view (h s hs) (State.append_view _ _) (by simp) (by simp)
  · exact hs

theorem State.obeyStandby_fits : Keeps TrayFits fun s => s.obeyStandby.state := by
  intro s h
  unfold State.obeyStandby
  dsimp only
  split
  · next hst => exact State.enterDrain_fits h (hst ▸ rfl)
  all_goals exact h

theorem State.obeyResume_fits (r : ResumeReadings) : Keeps TrayFits fun s => (s.obeyResume r).state := by
  intro s h
  unfold State.obeyResume
  dsimp only
  split
  · exact h
  · next hst => exact State.enterRun_fits h (hst ▸ rfl)
  · next hst =>
    split
    · exact h
    · exact State.enterRun_fits h (hst ▸ rfl)
  · next hst =>
    split
    · exact h
    · exact State.resume_fits (s := s.readSensors r) _ h hst
  · exact h

theorem State.obeySelfTest_fits : Keeps TrayFits fun s => s.obeySelfTest.state := by
  intro s h
  unfold State.obeySelfTest
  dsimp only
  split
  · split
    · exact h
    · exact State.requestTest_fits s h
  · exact h

theorem State.buttonPressed_fits (r : ResumeReadings) : Keeps TrayFits (State.buttonPressed r) := by
  intro s h
  unfold State.buttonPressed
  split
  · exact h
  · split
    · next hst =>
      split
      · exact h
      · exact State.resume_fits (s := s.readSensors r) _ h hst
    · next hst => exact State.enterDrain_fits h (hst ▸ rfl)
    · next hst => exact State.enterRun_fits h (hst ▸ rfl)
    · next hst => exact State.enterRun_fits h (hst ▸ rfl)
    · exact h

end Console

/-! ### Resets and the start sequence (R183 to R187) -/

section Start

variable {s : State}

theorem State.resetTo_fits (cause : ResetCause) (s : State) : TrayFits (s.resetTo cause) :=
  (trayWithin_iff.1 invariantsHoldAtReset.2.2.2.1).2

theorem State.cutStore_fits (cut : Bool) : Keeps TrayFits (State.cutStore cut) :=
  keepsFits_of_view (fun s => s.cutStore_view cut) fun s => by
    unfold State.cutStore
    split <;> exact ⟨rfl, rfl⟩

theorem State.reboot_fits (straps : Straps) (cut : Bool) (s : State) : TrayFits (s.reboot straps cut) :=
  State.cutStore_fits cut _ (s.resetTo_fits .reboot)

theorem State.orderOf_fits (o : OrderKind) : Keeps TrayFits (State.orderOf o) := by
  intro s h
  cases o with
  | standby => exact State.takeOrder_fits _ State.obeyStandby_fits s h
  | resume => exact State.takeOrder_fits _ (State.obeyResume_fits _) s h
  | selfTest => exact State.takeOrder_fits _ State.obeySelfTest_fits s h
  | clearCounters => exact State.takeOrder_fits .clearCounters (obey := State.obeyClear) (fun _ hu => hu) s h
  | reboot => exact s.reboot_fits _ _

theorem State.pinActive_fits (cut : Bool) : Keeps TrayFits (State.pinActive cut) := by
  intro s h
  unfold State.pinActive
  split
  · exact h
  · split
    · exact State.cutStore_fits cut _ (s.resetTo_fits .line)
    · exact h

theorem State.pinReleased_fits (straps : Straps) : Keeps TrayFits (State.pinReleased straps) := by
  intro s h
  unfold State.pinReleased
  dsimp only
  split
  · split <;> exact h
  · exact h

/-- A failed validation leaves a station without a configuration (R187). -/
theorem State.failLoading_fits (f : ConfigFault) (h : TrayFits s) (hc : s.config = none) : TrayFits (s.failLoading f) := by
  cases hl : s.ctl.linkLossHeld with
  | true =>
    rw [State.failLoading_safe f hl]
    exact State.enterSafe_fits s.clearHeld.budgetUnset h
  | false =>
    rw [State.failLoading_configFault f hl]
    obtain ⟨hq, hb, -, -⟩ := h.configured.1 hc
    have hroom := (State.stopHead_fits s.clearHeld.budgetUnset h).room
    exact ⟨⟨fun _ => ⟨hq, hb, fun _ => nofun, Or.inr (Or.inl rfl)⟩, fun hn => absurd hc hn⟩,
      hroom.mono rfl rfl Or.inl fun ha => absurd ha (State.not_trayAwaited hq)⟩

theorem startRack_within (r : RetainedStore) (c : StationConfig) (result : StoreResult) :
    (startRack r c result).tray ≤ c.trayCapacity := by
  cases result with
  | good => exact Nat.min_le_right _ _
  | notMade => exact Nat.zero_le _
  | bad => exact Nat.zero_le _

/-- The start value of the tray count is within the capacity, and no work has begun (R136). -/
theorem State.checkStore_room (c : StationConfig) (cartridge : Bool) (h : TrayFits s) (hc : s.config = none) :
    TrayRoom ((s.withConfig (some c)).checkStore c cartridge) := by
  obtain ⟨hq, -, hb, -⟩ := h.configured.1 hc
  obtain ⟨u, hu, -, hframe⟩ := s.checkStore_eq c cartridge
  rw [hu, hframe]
  refine ⟨fun d hd => ?_, fun hd => absurd hd (State.not_dropsToTray hb), fun ha => absurd ha (State.not_trayAwaited hq)⟩
  obtain rfl : c = d := Option.some.inj hd
  exact startRack_within _ _ _

theorem State.takeHeld_room (c : StationConfig) : Keeps TrayRoom (State.takeHeld c) := by
  intro s h
  have hbins := foldl_keepsCondition (P := TrayRoom) (f := fun (u : State) bin => u.emptyBin bin)
    (fun bin => State.emptyBin_room bin) s.part.held.bins s h
  unfold State.takeHeld
  dsimp only
  have htray : TrayRoom (if s.part.held.tray then (s.part.held.bins.foldl (fun u bin => u.emptyBin bin) s).emptyTray
      else s.part.held.bins.foldl (fun u bin => u.emptyBin bin) s) := by
    split
    · exact State.emptyTray_room _ hbins
    · exact hbins
  split
  · exact State.refill_room c _ htray
  · exact htray

theorem State.startTestIfFitted_room (c : StationConfig) : Keeps TrayRoom (State.startTestIfFitted c) := by
  intro s h
  unfold State.startTestIfFitted
  split
  · exact TrayRoom.serve (s := s.onHead fun k => { k with testWaiting := true }) h
  · exact h

theorem State.checkPockets_room (occupied : PocketLevels) : Keeps TrayRoom (State.checkPockets occupied) := fun s h =>
  foldl_keepsCondition (P := TrayRoom) (f := fun (t : State) p => (t.checkPocket p (occupied.get p)).serve)
    (fun p _ hu => (hu.checkPocket p _).serve) PocketId.all (s.onPart fun k => { k with occupied := occupied }) h

theorem State.readied_room (c : StationConfig) (occupied : PocketLevels) (cartridge : Bool) (h : TrayFits s)
    (hc : s.config = none) : TrayRoom (s.readied c occupied cartridge) :=
  State.checkPockets_room occupied _ (State.startTestIfFitted_room c _
    (State.takeHeld_room c _ (State.checkStore_room c cartridge h hc)))

theorem State.leaveLoading_fits (c : StationConfig) (h : TrayRoom s) (hs : s.config ≠ none)
    (hst : s.ctl.station = .loading) : TrayFits (s.leaveLoading c) := by
  cases hl : s.ctl.linkLossHeld with
  | true =>
    rw [State.leaveLoading_safe hl]
    exact .of_config hs rfl ⟨nofun, nofun⟩ (h.mono rfl rfl (fun ⟨_, hop, _⟩ => absurd hop nofun)
      fun ⟨hf, _⟩ => absurd hf nofun)
  | false =>
    rw [State.leaveLoading_joining hl, (s.joining_judged c).1]
    exact .of_holds hs rfl (h.congr rfl rfl rfl rfl fun _ => by rw [hst]; rfl)

theorem State.imageRead_fits (bytes : List Byte) (occupied : PocketLevels) (cartridge : Bool) :
    Keeps TrayFits (State.imageRead bytes occupied cartridge) := by
  intro s h
  unfold State.imageRead
  split
  · next hst =>
    have hc : s.config = none := by
      by_contra hn
      exact (h.configured.2 hn).1 hst
    split
    · exact State.failLoading_fits _ h hc
    · next c _ =>
      have hready := State.readied_readied (c := c) (occupied := occupied) (cartridge := cartridge) hst
        (h.configured.1 hc).1
      rw [State.startWith_eq]
      exact State.leaveLoading_fits c (State.readied_room c occupied cartridge h hc)
        (by rw [hready.stored.config]; nofun) ((congrArg Controller.station hready.ctl).trans hst)
  · exact h

end Start

end Sys2Proof.Machine

namespace Sys2Proof.Machine

/-! ### A condition that every meaning keeps -/

/-- What has to be shown of a condition for every step to keep it beside a sound transmit queue: each operation that a
command hands on to keeps it. The echo of a HALT is taken in HALTING alone (R141, R168). -/
structure MeaningsKeep (P : State → Prop) : Prop where
  waiting : ∀ cs, Keeps P (State.withPending cs)
  tick : Keeps P State.tick
  powerApplied : ∀ straps, Keeps P (State.powerApplied straps)
  pinActive : ∀ cut, Keeps P (State.pinActive cut)
  pinReleased : ∀ straps, Keeps P (State.pinReleased straps)
  powerLost : ∀ cut, Keeps P (State.powerLost cut)
  imageRead : ∀ bytes occupied cartridge, Keeps P (State.imageRead bytes occupied cartridge)
  contends : ∀ m, Keeps P (State.contends m)
  frameSpoiled : ∀ f, Keeps P (State.frameSpoiled f)
  received : Keeps P State.received
  malformed : Keeps P (State.count .malformed)
  echoed : ∀ e, Keeps P (State.echoed e)
  takeOffer : ∀ sender b, Keeps P (State.takeOffer sender b)
  takeBidFrom : ∀ sender b id, Keeps P (State.takeBidFrom sender b id)
  takeBidEcho : ∀ e, Keeps P (State.takeBidEcho e)
  takeClose : ∀ sender id, Keeps P (State.takeClose sender id)
  takeWithdraw : ∀ sender id, Keeps P (State.takeWithdraw sender id)
  takeEnd : ∀ sender id, Keeps P (State.takeEnd sender id)
  takeEndEcho : ∀ e, Keeps P (State.takeEndEcho e)
  takeForget : ∀ sender, Keeps P (State.takeForget sender)
  haltEchoed : ∀ s, P s → s.ctl.station = .halting → P s.haltEchoed
  joinEchoed : Keeps P State.joinEchoed
  holdEchoed : Keeps P State.holdEchoed
  renewHold : Keeps P State.renewHold
  asked : ∀ a, Keeps P (State.asked a)
  reportEchoed : ∀ e, Keeps P (State.reportEchoed e)
  answerEchoed : Keeps P State.answerEchoed
  orderOf : ∀ o, Keeps P (State.orderOf o)
  takeResume : ∀ r, Keeps P (State.takeOrder .resume (State.obeyResume r))
  reboot : ∀ straps cut, Keeps P (State.reboot straps cut)
  buttonPressed : ∀ r, Keeps P (State.buttonPressed r)
  sheetArrives : ∀ mark, Keeps P (State.sheetArrives mark)
  gapExpires : ∀ p, Keeps P (State.gapExpires p)
  firstSheetExpires : ∀ p, Keeps P (State.firstSheetExpires p)
  strokeCompletes : ∀ v, Keeps P (State.strokeCompletes v)
  limitExpires : ∀ inPhase c, Keeps P (State.limitExpires inPhase c)
  noStapleFound : Keeps P State.noStapleFound
  headJams : Keeps P State.headJams
  ejectCompletes : ∀ occupied, Keeps P (State.ejectCompletes occupied)
  dropConfirms : Keeps P State.dropConfirms
  trayDropConfirms : ∀ occupied, Keeps P (State.trayDropConfirms occupied)
  referenceRead : ∀ v, Keeps P (State.referenceRead v)
  readingExpires : Keeps P State.readingExpires
  cartridgeShows : Keeps P State.cartridgeShows
  refillSensed : ∀ hold, Keeps P (State.senseRaised hold State.refill)
  binSensed : ∀ hold bin, Keeps P (State.senseRaised hold fun _ => State.emptyBin bin)
  traySensed : ∀ hold, Keeps P (State.senseRaised hold fun _ => State.emptyTray)
  pocketJams : ∀ p, Keeps P (State.pocketJams p)
  jamLine : ∀ p level, Keeps P (State.jamLine p level)

namespace MeaningsKeep

variable {P : State → Prop} (k : MeaningsKeep P)

include k

theorem member {handOn : State → State} (h : Keeps P handOn) (f : Frame) : Keeps P (State.fromMember f handOn) :=
  fromMember_keeps k.received k.malformed h f

theorem packFrame {take : PackId → State → State} (h : ∀ id, Keeps P (take id)) (f : Frame) (w : WirePackId) :
    Keeps P (State.fromMember f (State.withPack w take)) := k.member (withPack_keeps k.malformed h w) f

theorem echo {handOn : TxEntry → State → State} (h : ∀ e, Keeps P (handOn e)) (isKind : TxFrame → Bool) :
    Keeps P (State.echo isKind handOn) := echo_keeps k.received k.malformed k.echoed h isKind

theorem ask (h : ConsoleHeader) (a : Ask) : Keeps P (State.askDelivered h a) :=
  k.member (forThisStation_keeps (k.asked a) _) _

theorem order (h : ConsoleHeader) (o : OrderKind) {take : State → State} (ht : Keeps P take) :
    Keeps P (State.orderDelivered h o take) := k.member (forThisStation_keeps ht _) _

theorem handOn (f : Frame) : Keeps P (State.handOn f) := by
  intro s hs
  have hpack : ∀ (w : WirePackId) {take : PackId → State → State}, (∀ id, Keeps P (take id)) → P (s.withPack w take) :=
    fun w _ ht => withPack_keeps k.malformed ht w s hs
  unfold State.handOn
  split
  · exact hpack _ fun _ => k.takeOffer _ _
  · exact hpack _ (k.takeBidFrom _ _)
  · exact hpack _ (k.takeClose _)
  · exact hpack _ (k.takeWithdraw _)
  · exact hpack _ (k.takeEnd _)
  · exact hpack _ (k.takeEnd _)
  · exact k.takeForget _ s hs
  · exact k.takeForget _ s hs
  · split
    · exact hs
    · exact forThisStation_keeps (k.asked _) _ s hs
  · split
    · exact hs
    · exact forThisStation_keeps (k.orderOf _) _ s hs
  · exact hs

theorem haltEcho {s : State} (htx : TransmitSound s) (hs : P s) :
    P (s.echo (TxFrame.isKind .halt) fun _ => State.haltEchoed) := by
  unfold State.echo
  split
  · split
    · exact k.malformed _ (k.received s hs)
    · next e he =>
      split
      · next hf => exact k.haltEchoed _ (k.echoed e s hs) (htx.halting_of_halt (State.sending_mem he) hf).1
      · exact k.malformed _ (k.received s hs)
  · exact hs

theorem exec (c : Instr) {s t : State} (htx : TransmitSound s) (hs : P s) (h : exec c s = .next t) : P t := by
  cases c with
  | powerReset straps =>
    obtain rfl := Host.Outcome.next.inj h
    exact k.powerApplied straps s hs
  | resetPinActive cut =>
    obtain rfl := Host.Outcome.next.inj h
    exact k.pinActive cut s hs
  | resetPinReleased straps =>
    obtain rfl := Host.Outcome.next.inj h
    exact k.pinReleased straps s hs
  | imageReadComplete bytes occupied cartridge => exact event_keeps (k.imageRead _ _ _) h hs
  | imageReadTimeout => exact event_keeps (k.imageRead _ _ _) h hs
  | contention m => exact event_keeps (k.contends m) h hs
  | spoiledFrame f => exact event_keeps (k.frameSpoiled f) h hs
  | malformedFrame f => exact event_keeps (k.member (k.handOn f) f) h hs
  | offer sender b => exact event_keeps (k.packFrame (fun _ => k.takeOffer _ b) _ _) h hs
  | bid a =>
    cases a with
    | echo => exact event_keeps (k.echo k.takeBidEcho _) h hs
    | other sender b => exact event_keeps (k.packFrame (k.takeBidFrom _ b) _ _) h hs
  | close sender w => exact event_keeps (k.packFrame (k.takeClose _) _ _) h hs
  | withdraw sender w => exact event_keeps (k.packFrame (k.takeWithdraw _) _ _) h hs
  | delivered a =>
    cases a with
    | echo => exact event_keeps (k.echo k.takeEndEcho _) h hs
    | other sender b => exact event_keeps (k.packFrame (k.takeEnd _) _ _) h hs
  | aside a =>
    cases a with
    | echo => exact event_keeps (k.echo k.takeEndEcho _) h hs
    | other sender b => exact event_keeps (k.packFrame (k.takeEnd _) _ _) h hs
  | halt sender cause => exact event_keeps (k.member (k.takeForget _) _) h hs
  | haltEcho =>
    obtain rfl : (if s.running then s.echo (TxFrame.isKind .halt) fun _ => State.haltEchoed else s) = t :=
      Host.Outcome.next.inj h
    split
    · exact k.haltEcho htx hs
    · exact hs
  | join sender b => exact event_keeps (k.member (k.takeForget _) _) h hs
  | joinEcho => exact event_keeps (k.echo (fun _ => k.joinEchoed) _) h hs
  | hold sender time => exact event_keeps (k.member Keeps.id _) h hs
  | holdEcho => exact event_keeps (k.echo (fun _ => k.holdEchoed) _) h hs
  | renewalTimerExpiry => exact event_keeps k.renewHold h hs
  | askSummary hd => exact event_keeps (k.ask hd _) h hs
  | askPack hd id => exact event_keeps (k.ask hd _) h hs
  | askPocket hd selector => exact event_keeps (k.ask hd _) h hs
  | askBin hd selector => exact event_keeps (k.ask hd _) h hs
  | askHead hd => exact event_keeps (k.ask hd _) h hs
  | askCounters hd => exact event_keeps (k.ask hd _) h hs
  | reportEcho => exact event_keeps (k.echo k.reportEchoed _) h hs
  | answerEcho => exact event_keeps (k.echo (fun _ => k.answerEchoed) _) h hs
  | orderStandby hd => exact event_keeps (k.order hd _ (k.orderOf .standby)) h hs
  | orderResume hd r => exact event_keeps (k.order hd _ (k.takeResume r)) h hs
  | orderSelfTest hd => exact event_keeps (k.order hd _ (k.orderOf .selfTest)) h hs
  | orderClearCounters hd => exact event_keeps (k.order hd _ (k.orderOf .clearCounters)) h hs
  | orderReboot hd straps cut => exact event_keeps (k.order hd _ (k.reboot straps cut)) h hs
  | serviceButton r => exact event_keeps (k.buttonPressed r) h hs
  | sheetAtGate mark => exact event_keeps (k.sheetArrives mark) h hs
  | gapTimerExpiry p => exact event_keeps (k.gapExpires p) h hs
  | firstSheetTimerExpiry p => exact event_keeps (k.firstSheetExpires p) h hs
  | strokeComplete v => exact event_keeps (k.strokeCompletes v) h hs
  | strokeLimitExpiry => exact event_keeps (k.limitExpires _ _) h hs
  | noStaple => exact event_keeps k.noStapleFound h hs
  | headJam => exact event_keeps k.headJams h hs
  | ejectComplete occupied => exact event_keeps (k.ejectCompletes occupied) h hs
  | ejectLimitExpiry => exact event_keeps (k.limitExpires _ _) h hs
  | carriageJam => exact event_keeps (k.limitExpires _ _) h hs
  | dropConfirmed => exact event_keeps k.dropConfirms h hs
  | dropLimitExpiry => exact event_keeps (k.limitExpires _ _) h hs
  | trayDropConfirmed occupied => exact event_keeps (k.trayDropConfirms occupied) h hs
  | trayDropLimitExpiry => exact event_keeps (k.limitExpires _ _) h hs
  | referenceReading v => exact event_keeps (k.referenceRead v) h hs
  | readingLimitExpiry => exact event_keeps k.readingExpires h hs
  | cartridgeInserted =>
    exact event_keeps (f := fun u => State.senseRaised _ _ u.cartridgeShows)
      (fun u hu => k.refillSensed _ _ (k.cartridgeShows u hu)) h hs
  | binEmptied bin => exact event_keeps (k.binSensed _ bin) h hs
  | trayEmptied => exact event_keeps (k.traySensed _) h hs
  | pocketJam p =>
    obtain rfl := Host.Outcome.next.inj h
    exact k.pocketJams p s hs
  | lossOfPower cut =>
    obtain rfl := Host.Outcome.next.inj h
    exact k.powerLost cut s hs
  | frameForAnotherMember f => exact event_keeps (k.member (k.handOn f) f) h hs
  | pocketJamCleared p =>
    obtain rfl := Host.Outcome.next.inj h
    exact k.jamLine p false s hs

/-- Every step keeps the condition beside a sound transmit queue. -/
theorem kept : Kept fun s => TransmitSound s ∧ P s := by
  rintro s t ⟨htx, hs⟩ h
  unfold step at h
  split at h
  · obtain rfl := Host.Outcome.next.inj h
    exact ⟨keepsTransmit_of (fun _ _ => tick_keepsLink) s htx, k.tick s hs⟩
  · next c rest _ =>
    exact ⟨exec_keepsTransmit c (s := s.withPending rest) htx h,
      k.exec c (s := s.withPending rest) htx (k.waiting rest s hs) h⟩

end MeaningsKeep

/-! ### The tray (R134) -/

theorem HeadState.tick_busy {h : HeadState} {op : Operation} (ht : h.tick = .busy op) :
    ∃ x, h = .busy x ∧ x.phase = op.phase := by
  cases h with
  | busy x => exact ⟨x, rfl, by rw [← HeadState.busy.inj ht]⟩
  | _ => exact absurd ht nofun

/-- Half a second leaves the phase of an operation. -/
theorem State.tick_fits : Keeps TrayFits State.tick := by
  intro s h
  refine ⟨h.configured.eased (.of_eq s.tick_view), ?_⟩
  cases hr : s.running with
  | false =>
    rw [State.tick_not_running hr]
    exact h.room
  | true =>
    rw [State.tick_running hr]
    refine h.room.mono rfl rfl (fun ⟨op, hop, hph⟩ => Or.inl ?_) Or.inl
    obtain ⟨x, hx, hxp⟩ := HeadState.tick_busy hop
    exact ⟨x, hx, hxp.trans hph⟩

theorem trayFits_meanings : MeaningsKeep TrayFits where
  waiting _ _ h := h
  tick := State.tick_fits
  powerApplied _ s _ := s.resetTo_fits .power
  pinActive := State.pinActive_fits
  pinReleased := State.pinReleased_fits
  powerLost cut s h := State.cutStore_fits _ s h
  imageRead := State.imageRead_fits
  contends := State.contends_fits
  frameSpoiled := State.frameSpoiled_fits
  received _ h := h
  malformed _ h := h
  echoed _ _ h := h
  takeOffer := State.takeOffer_fits
  takeBidFrom := State.takeBidFrom_fits
  takeBidEcho := State.takeBidEcho_fits
  takeClose := State.takeClose_fits
  takeWithdraw := State.takeWithdraw_fits
  takeEnd := State.takeEnd_fits
  takeEndEcho := State.takeEndEcho_fits
  takeForget := State.takeForget_fits
  haltEchoed _ h hst := State.haltEchoed_fits h hst
  joinEchoed := State.joinEchoed_fits
  holdEchoed _ h := h
  renewHold := State.renewHold_fits
  asked := State.asked_fits
  reportEchoed := State.reportEchoed_fits
  answerEchoed _ h := h
  orderOf := State.orderOf_fits
  takeResume r := State.takeOrder_fits _ (State.obeyResume_fits r)
  reboot straps cut s _ := s.reboot_fits straps cut
  buttonPressed := State.buttonPressed_fits
  sheetArrives := State.sheetArrives_fits
  gapExpires := State.gapExpires_fits
  firstSheetExpires := State.firstSheetExpires_fits
  strokeCompletes := State.strokeCompletes_fits
  limitExpires := State.limitExpires_fits
  noStapleFound := State.noStapleFound_fits
  headJams := State.headJams_fits
  ejectCompletes := State.ejectCompletes_fits
  dropConfirms := State.dropConfirms_fits
  trayDropConfirms := State.trayDropConfirms_fits
  referenceRead := State.referenceRead_fits
  readingExpires := State.readingExpires_fits
  cartridgeShows _ h := h
  refillSensed hold := State.senseRaised_fits hold State.refill_room fun c s => by simp [State.refill]
  binSensed hold bin := State.senseRaised_fits hold (fun _ => State.emptyBin_room bin) fun _ s => by
    unfold State.emptyBin
    split <;> simp [State.forgetCursor]
  traySensed hold := State.senseRaised_fits hold (fun _ => State.emptyTray_room) fun _ s => by simp [State.emptyTray]
  pocketJams := State.pocketJams_fits
  jamLine _ _ _ h := h

/-- Settles O59: a drop has room because its entry was ready, and every rise of the tray count ends in a fresh
evaluation of the blocked reasons, which every meaning that appends, converts or grants goes by. -/
theorem trayStaysWithinItsCapacity : Obligations.TrayStaysWithinItsCapacity := by
  intro s t hs h
  exact trayWithin_iff.2 (trayFits_meanings.kept s t (trayWithin_iff.1 hs) h)

end Sys2Proof.Machine

namespace Sys2Proof.Machine

/-! ### Head events in a phase that awaits none -/

section StrayEvents

variable {s : State}

theorem State.strokeCompletes_stray (v : SenseReading)
    (h : ∀ op k retry, s.head.state = .busy op → op.phase ≠ .stroke k retry) : s.strokeCompletes v = s := by
  unfold State.strokeCompletes
  split
  case h_1 op hop =>
    split
    case h_1 position retry hph => exact absurd hph (h op position retry hop)
    case h_2 => rfl
  case h_2 => rfl

theorem State.ejectCompletes_stray (b : Bool) (h : ∀ op, s.head.state = .busy op → op.phase ≠ .eject) :
    s.ejectCompletes b = s := by
  unfold State.ejectCompletes
  split
  case h_1 op hop =>
    split
    case h_1 hph => exact absurd hph (h op hop)
    case h_2 => rfl
  case h_2 => rfl

theorem State.dropConfirms_stray (h : ∀ op, s.head.state = .busy op → op.phase ≠ .drop) : s.dropConfirms = s := by
  unfold State.dropConfirms
  split
  case h_1 op hop =>
    split
    case h_1 hph => exact absurd hph (h op hop)
    case h_2 => rfl
  case h_2 => rfl

theorem State.trayDropConfirms_stray (b : Bool) (h : ∀ op, s.head.state = .busy op → op.phase ≠ .trayDrop) :
    s.trayDropConfirms b = s := by
  unfold State.trayDropConfirms
  split
  case h_1 op hop =>
    split
    case h_1 hph => exact absurd hph (h op hop)
    case h_2 => rfl
  case h_2 => rfl

theorem State.limitExpires_stray (inPhase : Phase → Bool) (c : HaltCause)
    (h : ∀ op, s.head.state = .busy op → inPhase op.phase = false) : s.limitExpires inPhase c = s := by
  unfold State.limitExpires
  split
  case h_1 op hop => simp [h op hop]
  case h_2 => rfl

theorem Phase.usesCarriage_eq_false {p : Phase} (h : p ≠ .eject ∧ p ≠ .drop ∧ p ≠ .trayDrop) :
    p.usesCarriage = false := by
  obtain ⟨heject, hdrop, htray⟩ := h
  cases p with
  | stroke => rfl
  | eject => exact absurd rfl heject
  | drop => exact absurd rfl hdrop
  | trayDrop => exact absurd rfl htray

theorem State.referenceRead_stray (v : SenseReading) (h : ∀ level limit, s.head.state ≠ .testing level limit) :
    s.referenceRead v = s := by
  unfold State.referenceRead
  split
  case h_1 level limit ht => exact absurd ht (h level limit)
  case h_2 => rfl

theorem State.noStapleFound_stopped (h : s.head.state = .stopped) : s.noStapleFound = s := by
  unfold State.noStapleFound
  rw [h]

theorem State.headJams_stopped (h : s.head.state = .stopped) : s.headJams = s := by
  unfold State.headJams
  rw [h]

end StrayEvents

/-- Settles O49: an event that the head state and phase do not await leaves the state as it is. -/
theorem strayHeadEventsAreIgnored : Obligations.StrayHeadEventsAreIgnored := by
  intro c s hr h
  rcases h with ⟨⟨v, rfl⟩, h⟩ | ⟨⟨b, rfl⟩, h⟩ | ⟨rfl, h⟩ | ⟨⟨b, rfl⟩, h⟩ | ⟨rfl, h⟩ | ⟨⟨v, rfl⟩, h⟩ | ⟨rfl | rfl, h⟩
  · exact (event_running hr).trans (congrArg _ (State.strokeCompletes_stray v h))
  · exact (event_running hr).trans (congrArg _ (State.ejectCompletes_stray b h))
  · exact (event_running hr).trans (congrArg _ (State.dropConfirms_stray h))
  · exact (event_running hr).trans (congrArg _ (State.trayDropConfirms_stray b h))
  · exact (event_running hr).trans
      (congrArg _ (State.limitExpires_stray _ _ fun op hop => Phase.usesCarriage_eq_false (h op hop)))
  · exact (event_running hr).trans (congrArg _ (State.referenceRead_stray v h))
  · exact (event_running hr).trans (congrArg _ (State.noStapleFound_stopped h))
  · exact (event_running hr).trans (congrArg _ (State.headJams_stopped h))

end Sys2Proof.Machine

namespace Sys2Proof.Machine

open Sys2Proof.Config

/-! ### The choice among entries with distinct stamps (R91) -/

section Choice

variable {q : List QueueEntry} {e : QueueEntry}

theorem QueueEntry.ready_iff : e.ready = true ↔ e.blocked = none := by simp [QueueEntry.ready]

theorem QueueEntry.firstClass_iff : e.firstClass = true ↔ e.lane = .urgent ∨ e.passOvers = 8 := by
  rw [QueueEntry.firstClass, Bool.or_eq_true, decide_eq_true_iff, decide_eq_true_iff, agingLimit]

theorem passOver_unfolded (n : Nat) (e : QueueEntry) :
    passOver n e =
      if e.blocked = none ∧ e.stamp < n then { e with passOvers := min 8 (e.passOvers + 1) } else e := by
  simp only [passOver, QueueEntry.ready_iff, agingLimit]

variable (hn : (q.map QueueEntry.stamp).Nodup)
include hn

theorem earliest_eq_some (he : e ∈ q) (h : ∀ x ∈ q, e.stamp ≤ x.stamp) : earliest q = some e := by
  cases hc : earliest q with
  | none => rw [earliest_none.1 hc] at he; exact absurd he List.not_mem_nil
  | some z =>
    obtain ⟨hz, hle⟩ := earliest_some hc
    rw [List.inj_on_of_nodup_map hn hz he (Nat.le_antisymm (hle e he) (h z hz))]

theorem candidates_stamps_nodup : ((candidates q).map QueueEntry.stamp).Nodup := by
  have hsub : (candidates q).Sublist q := by
    unfold candidates
    dsimp only
    split
    · exact List.filter_sublist
    · exact List.filter_sublist.trans List.filter_sublist
  exact (hsub.map _).nodup hn

theorem chosen_eq_some_iff :
    chosen q = some e ↔ e ∈ candidates q ∧ ∀ x ∈ candidates q, e.stamp ≤ x.stamp :=
  ⟨earliest_some, fun h => earliest_eq_some (candidates_stamps_nodup hn) h.1 h.2⟩

/-- The chosen entry is ready, of the first class if a ready one is, and the earliest of those that rival it. -/
theorem chosen_iff :
    chosen q = some e ↔
      e ∈ q ∧ e.ready = true ∧
        ∀ x ∈ q, x.ready = true →
          (x.firstClass = true → e.firstClass = true) ∧
            (x.firstClass = true ∨ ¬ e.firstClass = true → e.stamp ≤ x.stamp) := by
  rw [chosen_eq_some_iff hn, mem_candidates]
  constructor
  · rintro ⟨⟨he, hready, hclass⟩, hle⟩
    refine ⟨he, hready, fun x hx hxready => ⟨fun hxc => hclass ⟨x, hx, hxready, hxc⟩, fun h => hle x ?_⟩⟩
    refine mem_candidates.2 ⟨hx, hxready, fun hsome => ?_⟩
    exact h.resolve_right fun hne => hne (hclass hsome)
  · rintro ⟨he, hready, h⟩
    refine ⟨⟨he, hready, fun ⟨x, hx, hxready, hxc⟩ => (h x hx hxready).1 hxc⟩, fun x hx => ?_⟩
    obtain ⟨hxq, hxready, hxclass⟩ := mem_candidates.1 hx
    refine (h x hxq hxready).2 ?_
    by_cases hc : e.firstClass = true
    · exact Or.inl (hxclass ⟨e, he, hready, hc⟩)
    · exact Or.inr hc

/-- With distinct stamps an entry leaves the queue by its stamp. -/
theorem erase_eq_filter_stamp (he : e ∈ q) : q.erase e = q.filter fun x => decide (x.stamp ≠ e.stamp) := by
  rw [hn.of_map.erase_eq_filter]
  refine List.filter_congr fun x hx => ?_
  have hiff : x ≠ e ↔ x.stamp ≠ e.stamp := not_congr ⟨congrArg _, List.inj_on_of_nodup_map hn hx he⟩
  rw [Bool.eq_iff_iff, bne_iff_ne, decide_eq_true_iff, hiff]

end Choice

/-! ### The grant (R89, R92) -/

section Selection

variable {s : State} {e : QueueEntry}

theorem State.select_chosen (hc : chosen s.head.queue = some e) (hst : s.ctl.station.selects = true) :
    s.select = s.grant e := by
  simp only [State.select, hst, if_true, hc]

theorem State.grant_queue (e : QueueEntry) (s : State) :
    (s.grant e).head.queue = (s.head.queue.erase e).map (passOver e.stamp) := rfl

theorem State.firstPhase_eq (s : State) (e : QueueEntry) :
    s.firstPhase e =
      match e.job with
      | .finish =>
        if 0 < s.undriven e.pocket then
          .stroke ((s.pockets.get e.pocket).driven + 1) ((e.strokes.map StrokesDone.openStaple).getD false)
        else .eject
      | _ => .trayDrop := by
  unfold State.firstPhase State.finishPhase
  cases e.job <;> rfl

end Selection

/-- Settles O43: distinct stamps make the earliest of the candidates the only choice, and a selection grants the head to
it. -/
theorem selectionServesFirstClassThenEarliest : Obligations.SelectionServesFirstClassThenEarliest := by
  refine ⟨fun st => StationState.selects_iff, fun e s hn => ⟨?_, chosen_none, fun hc hst => ?_⟩⟩
  · simp only [chosen_iff hn, QueueEntry.ready_iff, QueueEntry.firstClass_iff]
  · rw [State.select_chosen hc hst]
    refine ⟨?_, ?_, fun r hr => ?_, ⟨s.operationOf e, rfl, rfl, rfl, rfl, rfl, rfl, s.firstPhase_eq e⟩, rfl, rfl, rfl, rfl⟩
    · rw [State.grant_queue, erase_eq_filter_stamp hn (chosen_mem hc).1]
      exact List.map_congr_left fun x _ => passOver_unfolded _ _
    · rw [State.grant_pocket, if_pos rfl]
    · rw [State.grant_pocket, if_neg hr]

end Sys2Proof.Machine

namespace Sys2Proof.Machine

open Sys2Proof.Config

/-! ### An entry put back (R89) -/

/-- A blocked reason reads the budget's state, the pack of the pocket, the rack and the configuration (R86). -/
theorem State.blockedReason_congr {s t : State} {p : PocketId} (j : Job) (hs : t.head.staples = s.head.staples)
    (hp : (t.pockets.get p).bound = (s.pockets.get p).bound ∧ (t.pockets.get p).driven = (s.pockets.get p).driven ∧
      (t.pockets.get p).sheets = (s.pockets.get p).sheets)
    (he : t.packs = s.packs) (hr : t.rack = s.rack) (hc : t.config = s.config) :
    t.blockedReason p j = s.blockedReason p j := by
  obtain ⟨hbound, hdriven, hsheets⟩ := hp
  have hundriven : t.undriven p = s.undriven p := State.undriven_bound (by rw [hbound]) hdriven (by rw [he])
  have htarget : t.targetBin p = s.targetBin p := State.targetBin_bound (by rw [hbound]) (by rw [he])
  have hbins : ∀ n, t.bin n = s.bin n := State.bin_congr (by rw [hr])
  have hblocks : t.binBlocks p = s.binBlocks p := by
    unfold State.binBlocks
    rw [htarget, hsheets, show t.cfg = s.cfg by simp only [State.cfg, hc]]
    simp only [hbins]
  have hfull : t.trayFull = s.trayFull := by simp only [State.trayFull, hc, hr]
  cases j <;> simp only [State.blockedReason, hs, hundriven, hblocks, hfull]

theorem State.noteHold_true (s : State) : s.noteHold true = s := if_neg fun h => absurd h.1 nofun

section PutBack

variable (op : Operation) (j : Job) (lane : Lane) (strokes : Option StrokesDone) (s : State)

/-- An entry put back, the hold judged and the blocked reasons evaluated, before the IDLE head is served (R87, R89). -/
def State.returnedFresh : State := (((s.returned op j lane strokes).noteHold s.holdCondition).headTo .idle).reevaluate

theorem State.putBack_serve : s.putBack op j lane strokes = (s.returnedFresh op j lane strokes).serve := rfl

theorem State.mem_returned {x : QueueEntry} :
    x ∈ (s.returned op j lane strokes).head.queue ↔ x = s.returnedEntry op j lane strokes ∨ x ∈ s.head.queue := by
  rw [← List.mem_cons]
  exact (insertByStamp_perm _ _).mem_iff

theorem State.returned_length : (s.returned op j lane strokes).head.queue.length = s.head.queue.length + 1 :=
  (insertByStamp_perm _ _).length_eq

theorem State.returnedFresh_pockets :
    (s.returnedFresh op j lane strokes).pockets = (s.pocketTo op.pocket (.waiting j)).pockets := by
  simp [State.returnedFresh, State.returned]

theorem State.returnedFresh_pocket :
    (s.returnedFresh op j lane strokes).pockets.get op.pocket = { s.pockets.get op.pocket with state := .waiting j } := by
  rw [State.returnedFresh_pockets, State.pocketTo_get]

theorem State.returnedFresh_other {q : PocketId} (h : q ≠ op.pocket) :
    (s.returnedFresh op j lane strokes).pockets.get q = s.pockets.get q := by
  rw [State.returnedFresh_pockets, State.pocketTo_other _ _ h]

/-- The returned entry was evaluated as it was put back; a second evaluation finds the same reason. -/
theorem State.evaluated_returnedEntry :
    (((s.returned op j lane strokes).noteHold s.holdCondition).headTo .idle).evaluated
        (s.returnedEntry op j lane strokes) = s.returnedEntry op j lane strokes := by
  unfold State.evaluated
  refine congrArg (fun b => { s.returnedEntry op j lane strokes with blocked := b })
    (State.blockedReason_congr (s := s) j ?_ ?_ ?_ ?_ ?_) <;>
    simp [State.returned, State.returnedEntry, State.pocketTo_get]

theorem State.returnedEntry_mem :
    s.returnedEntry op j lane strokes ∈ (s.returnedFresh op j lane strokes).head.queue := by
  have hmem : s.returnedEntry op j lane strokes ∈
      (((s.returned op j lane strokes).noteHold s.holdCondition).headTo .idle).head.queue := by
    simpa using (s.mem_returned op j lane strokes).2 (Or.inl rfl)
  unfold State.returnedFresh State.reevaluate
  split
  · exact hmem
  · exact List.mem_map.2 ⟨_, hmem, s.evaluated_returnedEntry op j lane strokes⟩

theorem State.mem_returnedFresh {x : QueueEntry} (h : x ∈ (s.returnedFresh op j lane strokes).head.queue) :
    x = s.returnedEntry op j lane strokes ∨
      ∃ y ∈ s.head.queue, x = { y with passOvers := x.passOvers, blocked := x.blocked } := by
  have hmem : ∀ y ∈ (((s.returned op j lane strokes).noteHold s.holdCondition).headTo .idle).head.queue,
      y = s.returnedEntry op j lane strokes ∨ y ∈ s.head.queue := fun y hy =>
    (s.mem_returned op j lane strokes).1 (by simpa using hy)
  unfold State.returnedFresh State.reevaluate at h
  split at h
  · exact (hmem x h).imp_right fun hx => ⟨x, hx, rfl⟩
  · obtain ⟨y, hy, rfl⟩ := List.mem_map.1 h
    rcases hmem y hy with rfl | hy
    · exact Or.inl (s.evaluated_returnedEntry op j lane strokes)
    · exact Or.inr ⟨y, hy, rfl⟩

variable {op j lane strokes s}

theorem State.putBack_served : IdleHeadServed (s.putBack op j lane strokes) := State.serve_served _

theorem State.putBack_arrivals : (s.putBack op j lane strokes).head.arrivals = s.head.arrivals := by
  rw [State.putBack_serve, State.serve_arrivals, State.returnedFresh, State.reevaluate]
  split <;> simp [State.returned, State.headTo]

/-- A put-back frees the head (R87, R89, R90). -/
theorem State.putBack_freed {u : State} (h : u.head.testWaiting = s.head.testWaiting) :
    HeadFreed s (u.putBack op j lane strokes) := by
  have hfreed := ((u.returned op j lane strokes).noteHold u.holdCondition).headIdle_freed
  have hwaiting : ((u.returned op j lane strokes).noteHold u.holdCondition).head.testWaiting = s.head.testWaiting := by
    simpa [State.returned] using h
  unfold HeadFreed at hfreed ⊢
  rwa [hwaiting] at hfreed

theorem State.putBack_fresh {u : State} (h : u.ctl.station = s.ctl.station) :
    BlocksFresh s (u.putBack op j lane strokes) :=
  State.headIdle_fresh (by simpa [State.returned] using h)

/-- A blocked entry that has been put back waits in the queue. -/
theorem State.putBack_entry (h : s.blockedReason op.pocket j ≠ none) :
    s.returnedEntry op j lane strokes ∈ (s.putBack op j lane strokes).head.queue :=
  State.serve_keeps_blocked (s.returnedEntry_mem op j lane strokes) h

/-- The pocket of a blocked entry that has been put back waits. -/
theorem State.putBack_pocket (h : s.blockedReason op.pocket j ≠ none) (hq : ∀ x ∈ s.head.queue, x.pocket ≠ op.pocket) :
    (s.putBack op j lane strokes).pockets.get op.pocket = { s.pockets.get op.pocket with state := .waiting j } := by
  rw [State.putBack_serve, ← s.returnedFresh_pocket op j lane strokes]
  rcases (s.returnedFresh op j lane strokes).serve_cases with e | ⟨-, -, e⟩ | ⟨g, hg, hready, -, -, -, e⟩ <;> rw [e]
  · rfl
  · rw [State.grant_pocket, if_neg]
    intro hp
    rcases s.mem_returnedFresh op j lane strokes hg with rfl | ⟨y, hy, hgy⟩
    · exact h hready
    · exact hq y hy (by rw [hp, hgy])

/-- A put-back, after a change of the operation's pocket and outside the queue, leaves the others but for a grant. -/
theorem State.putBack_others {u : State} (hw : QueueHoldsWaiting s) (hu : u.head.queue = s.head.queue)
    (hp : OtherPocketsUnchanged op.pocket s u) (hq : ∀ x ∈ s.head.queue, x.pocket ≠ op.pocket) :
    OthersServed (fun q => q = op.pocket) s (u.putBack op j lane strokes) := by
  have hmem : ∀ x ∈ (u.returnedFresh op j lane strokes).head.queue, x = u.returnedEntry op j lane strokes ∨
      ∃ y ∈ s.head.queue, x = { y with passOvers := x.passOvers, blocked := x.blocked } := fun x hx => by
    rw [← hu]
    exact u.mem_returnedFresh op j lane strokes hx
  rw [State.putBack_serve]
  refine State.serve_others (fun x hx => ?_) (fun q hne => ?_) (fun y hy _ => ?_) fun x hx => (hmem x hx).imp_left ?_
  · rcases hmem x hx with rfl | ⟨y, hy, hxy⟩
    · exact congrArg Pocket.state (u.returnedFresh_pocket op j lane strokes)
    · rw [hxy, u.returnedFresh_other op j lane strokes (hq y hy), hp _ (hq y hy)]
      exact hw.2.1 y hy
  · rw [u.returnedFresh_other op j lane strokes hne, hp q hne]
  · refine State.reevaluate_mem ?_
    have hback := (u.mem_returned op j lane strokes).2 (Or.inr (hu ▸ hy))
    simpa only [State.headTo_queue, State.noteHold_head] using hback
  · rintro rfl
    rfl

/-- A put-back makes the hold condition rise as it does from any state with the same queue, tray count and hold. -/
theorem State.putBack_hold {u : State} (hu : u.head.queue = s.head.queue) (ht : u.rack = s.rack)
    (hc : u.config = s.config) (hk : u.ctl = s.ctl) (hl : u.link = s.link) :
    (u.putBack op j lane strokes).ctl = { s.ctl with hold := (u.putBack op j lane strokes).ctl.hold } ∧
      HoldRaised (ConditionRises (s.head.queue.length + 1) s.rack.tray s) s.ctl.hold
        (u.putBack op j lane strokes).ctl.hold ∧
      HoldQueued (ConditionRises (s.head.queue.length + 1) s.rack.tray s) s.ctl.hold s.cfg.holdTime s.link
        (u.putBack op j lane strokes).link := by
  let v := u.returned op j lane strokes
  have hctl : v.ctl = s.ctl := hk
  have hnow : u.holdCondition = false ↔ ¬ HoldWanted s.head.queue.length s.rack.tray s := by
    rw [← Bool.not_eq_true, u.holdCondition_iff, HoldWanted, HoldWanted, hu, ht, hc]
  have hthen : HoldWanted v.head.queue.length v.rack.tray v ↔ HoldWanted (s.head.queue.length + 1) s.rack.tray s := by
    rw [u.returned_length, hu, HoldWanted, HoldWanted, show v.config = s.config from hc,
      show v.rack = s.rack from ht]
  obtain ⟨heq, hraised, hqueued⟩ := v.noteHold_raised u.holdCondition
    (ConditionRises (s.head.queue.length + 1) s.rack.tray s) (by rw [hnow, hthen, hctl]; rfl)
  rw [hctl] at hraised hqueued
  rw [show v.cfg = s.cfg by simp only [State.cfg, show v.config = s.config from hc], show v.link = s.link from hl]
    at hqueued
  have hput : (u.putBack op j lane strokes).ctl = (v.noteHold u.holdCondition).ctl ∧
      (u.putBack op j lane strokes).link = (v.noteHold u.holdCondition).link := by
    rw [State.putBack_eq]
    simp [v]
  rw [hput.1, hput.2]
  exact ⟨(congrArg State.ctl heq).trans (by rw [hctl]), hraised, hqueued⟩

end PutBack

end Sys2Proof.Machine

namespace Sys2Proof.Machine

open Sys2Proof.Config

/-! ### No staple (R97, R111) -/

@[simp] theorem State.emptyStaples_frame (s : State) :
    s.emptyStaples.part = s.part ∧ s.emptyStaples.config = s.config ∧ s.emptyStaples.ctl = s.ctl ∧
      s.emptyStaples.link = s.link ∧ s.emptyStaples.packs = s.packs ∧ s.emptyStaples.pockets = s.pockets ∧
      s.emptyStaples.rack = s.rack ∧
      s.emptyStaples.head =
        { s.head with staples := { remaining := 0, committed := s.head.staples.committed, state := .empty } } := by
  simp [State.emptyStaples, State.onStaples]

theorem State.emptyStaples_written (s : State) : StoreWritten s s.emptyStaples :=
  (State.writeStore_written (s.onStaples fun b => { b with remaining := 0, state := .empty })).transfer rfl rfl rfl rfl rfl

/-- With the budget EMPTY, staple positions not driven block a FINISH entry (R86). -/
theorem State.emptyStaples_blocks {p : PocketId} {s : State} (h : 0 < s.undriven p) :
    s.emptyStaples.blockedReason p .finish = some .staples := by
  have hundriven : s.emptyStaples.undriven p = s.undriven p := State.undriven_congr (by simp) (by simp)
  exact if_pos ⟨by simp, hundriven ▸ h⟩

/-- What the report of no staple brings about in every head state but STOPPED (R87, R90, R97, R111). -/
structure BudgetEmptied (s t : State) : Prop where
  ctl : t.ctl = { s.ctl with hold := t.ctl.hold }
  staples : t.head.staples = { remaining := 0, committed := s.head.staples.committed, state := .empty }
  readings : t.head.readings = s.head.readings
  rack : t.rack = s.rack
  packs : t.packs = s.packs
  part : t.part = s.part
  config : t.config = s.config
  arrivals : t.head.arrivals = s.head.arrivals
  fresh : BlocksFresh s t
  written : StoreWritten s t
  served : IdleHeadServed t

section NoStaple

variable {s : State}

theorem State.emptyStaples_reviewed (s : State) : Reviewed s s.emptyStaples.reevaluateAndServe :=
  State.reevaluateAndServe_reviewed (by simp) (by simp) (by simp)

theorem State.emptyStaples_reviewed_emptied (s : State) : BudgetEmptied s s.emptyStaples.reevaluateAndServe where
  ctl := by simp
  staples := by simp
  readings := by simp
  rack := by simp
  packs := by simp
  part := by simp
  config := by simp
  arrivals := s.emptyStaples_reviewed.arrivals
  fresh := s.emptyStaples_reviewed.fresh
  written := s.emptyStaples_written.transfer rfl rfl (by simp) (by simp) (by simp)
  served := s.emptyStaples_reviewed.served

theorem State.emptyStaples_putBack_emptied (op : Operation) (j : Job) (lane : Lane) (strokes : Option StrokesDone)
    (s : State) : BudgetEmptied s (s.emptyStaples.putBack op j lane strokes) where
  ctl := (State.putBack_hold (by simp) (by simp) (by simp) (by simp) (by simp)).1
  staples := by simp
  readings := by simp
  rack := by simp
  packs := by simp
  part := by simp
  config := by simp
  arrivals := (State.putBack_arrivals).trans (by simp)
  fresh := State.putBack_fresh (by simp)
  written := s.emptyStaples_written.transfer rfl rfl (by simp) (by simp) (by simp)
  served := State.putBack_served

/-- A FINISH job put back with staple positions to drive waits for staples. -/
theorem State.emptyStaples_putBack_waits {op : Operation} (lane : Lane) (strokes : Option StrokesDone)
    (hleft : 0 < s.undriven op.pocket) (hq : ∀ x ∈ s.head.queue, x.pocket ≠ op.pocket) :
    (s.emptyStaples.putBack op .finish lane strokes).pockets.get op.pocket =
        { s.pockets.get op.pocket with state := .waiting .finish } ∧
      ∃ x ∈ (s.emptyStaples.putBack op .finish lane strokes).head.queue,
        x = { pocket := op.pocket, job := .finish, lane := lane, stamp := op.stamp, passOvers := op.passOvers,
              blocked := some .staples, strokes := strokes } := by
  have hreason := State.emptyStaples_blocks hleft
  have hblocked : s.emptyStaples.blockedReason op.pocket .finish ≠ none := by rw [hreason]; nofun
  refine ⟨?_, _, State.putBack_entry hblocked, ?_⟩
  · rw [State.putBack_pocket hblocked (by simpa using hq)]
    simp
  · rw [State.returnedEntry, hreason]

theorem State.reevaluateAndServe_busy {u : State} (h : u.head.state ≠ .idle) :
    u.reevaluateAndServe.head.state = u.head.state ∧ u.reevaluateAndServe.pockets = u.pockets := by
  rw [State.reevaluateAndServe, State.serve_busy (by simpa using h)]
  simp

/-- A stroke in progress ends in a put-back of the FINISH job (R97). -/
theorem State.noStapleFound_putBack {op : Operation} {position : Nat} {retry : Bool} (hb : s.head.state = .busy op)
    (hph : op.phase = .stroke position retry) :
    s.noStapleFound =
      s.emptyStaples.putBack op .finish op.lane (some { openStaple := retry, retried := op.retried }) := by
  simp only [State.noStapleFound, hb, hph]

/-- With no stroke in progress the head goes on as it was. -/
theorem State.noStapleFound_reviewed (hst : s.head.state ≠ .stopped)
    (h : ∀ op k retry, s.head.state = .busy op → op.phase ≠ .stroke k retry) :
    s.noStapleFound = s.emptyStaples.reevaluateAndServe := by
  unfold State.noStapleFound
  split
  · next hs => exact absurd hs hst
  · next op hb =>
    split
    · next k retry hph => exact absurd hph (h op k retry hb)
    · rfl
  all_goals rfl

end NoStaple

/-- Settles O45: by whether a stroke is in progress, a put-back of the job or a review of the blocked reasons. -/
theorem noStapleEmptiesTheBudget : Obligations.NoStapleEmptiesTheBudget := by
  intro s hr
  refine ⟨fun hst => (event_running hr).trans (congrArg _ (State.noStapleFound_stopped hst)), fun hst =>
    ⟨_, event_running hr, ?_⟩⟩
  by_cases hstroke : ∃ op k retry, s.head.state = .busy op ∧ op.phase = .stroke k retry
  · obtain ⟨op, k, retry, hb, hph⟩ := hstroke
    rw [State.noStapleFound_putBack hb hph]
    obtain ⟨hctl, hstaples, hreadings, hrack, hpacks, hpart, hconfig, harrivals, hfresh, hwritten, hserved⟩ :=
      s.emptyStaples_putBack_emptied op .finish op.lane (some { openStaple := retry, retried := op.retried })
    refine ⟨hctl, hstaples, hreadings, hrack, hpacks, hpart, hconfig, harrivals, hfresh, hwritten, hserved,
      fun h => absurd hph (h op k retry hb), fun level limit ht => absurd (hb.symm.trans ht) nofun, fun op' hb' => ?_⟩
    obtain rfl : op = op' := HeadState.busy.inj (hb.symm.trans hb')
    refine ⟨fun h => absurd (hph ▸ h) nofun, fun position retry' hph' hleft hq => ?_⟩
    obtain ⟨-, rfl⟩ : k = position ∧ retry = retry' := Phase.stroke.inj (hph.symm.trans hph')
    obtain ⟨hpocket, hentry⟩ :=
      State.emptyStaples_putBack_waits op.lane (some { openStaple := retry, retried := op.retried }) hleft hq
    obtain ⟨-, hraised, hqueued⟩ := State.putBack_hold (op := op) (j := .finish) (lane := op.lane)
      (strokes := some { openStaple := retry, retried := op.retried }) (u := s.emptyStaples) (s := s) (by simp) (by simp)
      (by simp) (by simp) (by simp)
    exact ⟨hpocket, State.putBack_freed (by simp),
      fun hw => State.putBack_others hw (by simp) (fun q _ => by simp) hq, hraised, hqueued, hentry⟩
  · have hnone : ∀ op k retry, s.head.state = .busy op → op.phase ≠ .stroke k retry := fun op k retry hb hph =>
      hstroke ⟨op, k, retry, hb, hph⟩
    rw [State.noStapleFound_reviewed hst hnone]
    obtain ⟨hctl, hstaples, hreadings, hrack, hpacks, hpart, hconfig, harrivals, hfresh, hwritten, hserved⟩ :=
      s.emptyStaples_reviewed_emptied
    have hstays (hi : s.head.state ≠ .idle) : s.emptyStaples.reevaluateAndServe.head.state = s.head.state ∧
        s.emptyStaples.reevaluateAndServe.pockets = s.pockets := by
      simpa using State.reevaluateAndServe_busy (u := s.emptyStaples) (by simpa using hi)
    refine ⟨hctl, hstaples, hreadings, hrack, hpacks, hpart, hconfig, harrivals, hfresh, hwritten, hserved,
      fun _ => ⟨by simp, by simp, s.emptyStaples_reviewed.others⟩, fun level limit ht => hstays (by rw [ht]; nofun),
      fun op hb => ⟨fun _ => ?_, fun position retry hph => absurd hph (hnone op position retry hb)⟩⟩
    obtain ⟨hstate, hpockets⟩ := hstays (by rw [hb]; nofun)
    exact ⟨hstate, hpockets, by simp⟩

end Sys2Proof.Machine

namespace Sys2Proof.Machine

open Sys2Proof.Config

/-! ### A stroke (R93, R107, R109) -/

/-- The reading of a stroke has been written and its staple spent, before the clinch is judged. -/
def State.struck (position : Nat) (v : SenseReading) (s : State) : State := (s.writeClinch position v).spendStaple

@[simp] theorem State.struck_frame (position : Nat) (v : SenseReading) (s : State) :
    (s.struck position v).part = s.part ∧ (s.struck position v).config = s.config ∧
      (s.struck position v).ctl = s.ctl ∧ (s.struck position v).link = s.link ∧
      (s.struck position v).packs = s.packs ∧ (s.struck position v).pockets = s.pockets ∧
      (s.struck position v).rack = s.rack ∧ (s.struck position v).head.queue = s.head.queue ∧
      (s.struck position v).head.arrivals = s.head.arrivals ∧
      (s.struck position v).head.testWaiting = s.head.testWaiting ∧
      (s.struck position v).head.staples = { s.head.staples with remaining := s.head.staples.remaining - 1 } ∧
      (s.struck position v).head.readings =
        (if position = 1 then
          { s.head.readings with position1 := { value := v, updated := true, rewritten := true } }
        else { s.head.readings with position2 := { value := v, updated := true, rewritten := true } }) := by
  simp [State.struck, State.spendStaple, State.writeClinch, State.onStaples, HeadReading.write]

theorem State.struck_written (position : Nat) (v : SenseReading) (s : State) : StoreWritten s (s.struck position v) :=
  (State.writeStore_written ((s.writeClinch position v).onStaples fun b => { b with remaining := b.remaining - 1 })).transfer
    rfl rfl rfl rfl rfl

theorem State.strokeCompletes_struck {op : Operation} {position : Nat} {retry : Bool} {c : StationConfig} {s : State}
    (v : SenseReading) (hb : s.head.state = .busy op) (hph : op.phase = .stroke position retry) (hc : s.config = some c) :
    s.strokeCompletes v =
      if c.lowThreshold ≤ v.toNat then (s.struck position v).goodClinch op v
      else if retry then (s.struck position v).convertClinch op
      else (s.struck position v).retryStroke op position := by
  have hcfg : s.cfg = c := by simp only [State.cfg, hc, Option.getD_some]
  simp only [State.strokeCompletes, hb, hph, State.strokeDone, hcfg]
  rfl

/-! ### What the judgement of a clinch leaves (R94 to R96) -/

/-- A change of a bin record outside its fills and roster is not retained (R136). -/
theorem State.onBin_retained (n : Nat) (f : Bin → Bin) (hf : ∀ b, (f b).retained = b.retained) (s : State) :
    (s.onBin n f).rack.bins.map Bin.retained = s.rack.bins.map Bin.retained := by
  unfold State.onBin
  split
  · rfl
  · refine List.ext_getElem? fun i => ?_
    simp only [State.onRack, List.getElem?_map, List.getElem?_modify]
    cases s.rack.bins[i]? with
    | none => rfl
    | some b => split <;> simp [hf]

theorem State.accountAside_retained (p : PocketId) (r : AsideReason) (s : State) :
    (s.accountAside p r).rack.bins.map Bin.retained = s.rack.bins.map Bin.retained := by
  have hrack : (s.accountAside p r).rack = (s.releaseCommitments p).rack := rfl
  rw [hrack, State.releaseCommitments]
  split
  · rfl
  · exact State.onBin_retained _ (fun b => { b with committed := b.committed - 1 }) (fun _ => rfl) _

/-- What the retained store keeps, the arrivals and the readings stand. -/
structure JudgementKeeps (u t : State) : Prop where
  part : t.part = u.part
  packs : t.packs = u.packs
  config : t.config = u.config
  store : t.store = u.store
  retained : t.rack.bins.map Bin.retained = u.rack.bins.map Bin.retained
  tray : t.rack.tray = u.rack.tray
  arrivals : t.head.arrivals = u.head.arrivals
  remaining : t.head.staples.remaining = u.head.staples.remaining
  budget : t.head.staples.state = u.head.staples.state
  readings : t.head.readings = u.head.readings

theorem JudgementKeeps.written {s u t : State} (h : JudgementKeeps u t) (hw : StoreWritten s u) : StoreWritten s t := by
  unfold StoreWritten at hw ⊢
  rwa [h.store, h.retained, h.tray, h.remaining]

section Judgement

variable (op : Operation) (s : State)

/-- A good clinch, counted, before the operation goes on (R94). -/
def State.clinched (v : SenseReading) : State :=
  let t :=
    (s.onStaples fun b => { b with committed := b.committed - 1 }).onPocket op.pocket fun q =>
      { q with driven := q.driven + 1 }
  if s.cfg.overdriveThreshold ≤ v.toNat then t.count .overdrive else t

theorem State.goodClinch_eq (v : SenseReading) :
    s.goodClinch op v = (s.clinched op v).startPhase op ((s.clinched op v).finishPhase op.pocket false) := rfl

@[simp] theorem State.clinched_frame (v : SenseReading) :
    (s.clinched op v).part = s.part ∧ (s.clinched op v).packs = s.packs ∧ (s.clinched op v).config = s.config ∧
      (s.clinched op v).store = s.store ∧ (s.clinched op v).rack = s.rack ∧ (s.clinched op v).link = s.link ∧
      (s.clinched op v).ctl =
        { s.ctl with
          counters :=
            if s.cfg.overdriveThreshold ≤ v.toNat then s.ctl.counters.bump .overdrive else s.ctl.counters } ∧
      (s.clinched op v).head =
        { s.head with staples := { s.head.staples with committed := s.head.staples.committed - 1 } } := by
  unfold State.clinched
  split <;> exact ⟨rfl, rfl, rfl, rfl, rfl, rfl, rfl, rfl⟩

theorem State.clinched_pockets (v : SenseReading) :
    (s.clinched op v).pockets = (s.onPocket op.pocket fun q => { q with driven := q.driven + 1 }).pockets := by
  unfold State.clinched
  split <;> rfl

theorem State.clinched_pocket (v : SenseReading) :
    (s.clinched op v).pockets.get op.pocket =
      { s.pockets.get op.pocket with driven := (s.pockets.get op.pocket).driven + 1 } := by
  rw [State.clinched_pockets, State.onPocket_self]

theorem State.clinched_undriven (v : SenseReading) : (s.clinched op v).undriven op.pocket = s.undriven op.pocket - 1 := by
  have hentry : ∀ id, (s.clinched op v).entry id = s.entry id := State.entry_congr (by simp)
  rw [State.undriven_eq, State.undriven_eq, s.clinched_pocket op v]
  simp only [hentry]
  split
  · rfl
  · exact Nat.sub_add_eq _ _ _

theorem State.clinched_finishPhase (v : SenseReading) :
    (s.clinched op v).finishPhase op.pocket false =
      if 1 < s.undriven op.pocket then .stroke ((s.pockets.get op.pocket).driven + 2) false else .eject := by
  rw [State.finishPhase, s.clinched_undriven op v, s.clinched_pocket op v]
  exact if_congr Nat.sub_pos_iff_lt rfl rfl

theorem State.goodClinch_keeps (v : SenseReading) : JudgementKeeps s (s.goodClinch op v) := by
  rw [State.goodClinch_eq]
  constructor <;> simp [State.startPhase, State.headTo]

theorem State.retryStroke_keeps (position : Nat) : JudgementKeeps s (s.retryStroke op position) := by
  constructor <;> rfl

/-- A pack whose clinch stays open is accounted for as set aside, its pocket still at the head (R75, R96). -/
def State.clinchFailed : State := (s.accountAside op.pocket .clinch).pocketTo op.pocket (.atHead (.setAside .clinch))

theorem State.convertClinch_eq :
    s.convertClinch op =
      if s.trayFull then (s.clinchFailed op).putBack op (.setAside .clinch) .normal none
      else (s.clinchFailed op).startPhase { op with job := .setAside .clinch, lane := .normal } .trayDrop := by
  have hfull : (s.clinchFailed op).trayFull = s.trayFull := by simp [State.trayFull, State.clinchFailed]
  rw [← hfull]
  rfl

theorem State.clinchFailed_keeps : JudgementKeeps s (s.clinchFailed op) where
  part := by simp [State.clinchFailed]
  packs := by simp [State.clinchFailed]
  config := by simp [State.clinchFailed]
  store := by simp [State.clinchFailed]
  retained := s.accountAside_retained op.pocket .clinch
  tray := by simp [State.clinchFailed]
  arrivals := by simp [State.clinchFailed, State.accountAside_head]
  remaining := by simp [State.clinchFailed, State.accountAside_head]
  budget := by simp [State.clinchFailed, State.accountAside_head]
  readings := by simp [State.clinchFailed]

theorem JudgementKeeps.trans {u t : State} (h : JudgementKeeps s u) (h' : JudgementKeeps u t) : JudgementKeeps s t where
  part := h'.part.trans h.part
  packs := h'.packs.trans h.packs
  config := h'.config.trans h.config
  store := h'.store.trans h.store
  retained := h'.retained.trans h.retained
  tray := h'.tray.trans h.tray
  arrivals := h'.arrivals.trans h.arrivals
  remaining := h'.remaining.trans h.remaining
  budget := h'.budget.trans h.budget
  readings := h'.readings.trans h.readings

theorem State.startPhase_keeps (ph : Phase) : JudgementKeeps s (s.startPhase op ph) := by
  constructor <;> rfl

theorem State.putBack_keeps (j : Job) (lane : Lane) (strokes : Option StrokesDone) :
    JudgementKeeps s (s.putBack op j lane strokes) where
  part := by simp
  packs := by simp
  config := by simp
  store := by simp
  retained := by simp
  tray := by simp
  arrivals := State.putBack_arrivals
  remaining := by simp
  budget := by simp
  readings := by simp

theorem State.convertClinch_keeps : JudgementKeeps s (s.convertClinch op) := by
  rw [State.convertClinch_eq]
  split
  · exact (s.clinchFailed_keeps op).trans _ (State.putBack_keeps _ _ _ _ _)
  · exact (s.clinchFailed_keeps op).trans _ (State.startPhase_keeps _ _ _)

theorem State.clinchFailed_released : CommitmentsReleased op.pocket s (s.clinchFailed op) :=
  s.accountAside_released op.pocket .clinch

theorem State.clinchFailed_ctl :
    (s.clinchFailed op).ctl = { s.ctl with counters := s.ctl.counters.bump (.setAside .clinch) } :=
  s.accountAside_ctl op.pocket .clinch

theorem State.clinchFailed_pocket :
    (s.clinchFailed op).pockets.get op.pocket = { s.pockets.get op.pocket with state := .atHead (.setAside .clinch) } := by
  simp [State.clinchFailed, State.pocketTo_get]

theorem State.clinchFailed_other : OtherPocketsUnchanged op.pocket s (s.clinchFailed op) := fun q hq => by
  simp [State.clinchFailed, State.pocketTo_other _ _ hq]

theorem State.clinchFailed_head :
    (s.clinchFailed op).head =
      { s.head with staples := { s.head.staples with committed := s.head.staples.committed - s.undriven op.pocket } } :=
  s.accountAside_head op.pocket .clinch

theorem State.clinchFailed_queue : (s.clinchFailed op).head.queue = s.head.queue := by rw [State.clinchFailed_head]

theorem State.clinchFailed_testWaiting : (s.clinchFailed op).head.testWaiting = s.head.testWaiting := by
  rw [State.clinchFailed_head]

end Judgement

end Sys2Proof.Machine

namespace Sys2Proof.Machine

open Sys2Proof.Config

/-! ### How a judged operation goes on (R94 to R96) -/

section GoesOn

variable (op : Operation) (s : State)

/-- The head goes on to the next staple position, or to the eject (R94). -/
theorem State.goodClinch_state (v : SenseReading) :
    (s.goodClinch op v).head.state =
      (if 1 < s.undriven op.pocket then
        .busy { op with phase := .stroke ((s.pockets.get op.pocket).driven + 2) false, limit := 2 }
      else .busy { op with phase := .eject, limit := 4 }) := by
  rw [State.goodClinch_eq, s.clinched_finishPhase op v]
  split <;> rfl

theorem State.goodClinch_spec (v : SenseReading) :
    (s.goodClinch op v).head.staples.committed = s.head.staples.committed - 1 ∧
      (s.goodClinch op v).head.queue = s.head.queue ∧ (s.goodClinch op v).rack = s.rack ∧
      (s.goodClinch op v).link = s.link ∧
      (s.goodClinch op v).ctl =
        { s.ctl with
          counters :=
            if s.cfg.overdriveThreshold ≤ v.toNat then s.ctl.counters.bump .overdrive else s.ctl.counters } ∧
      (s.goodClinch op v).pockets.get op.pocket =
        { s.pockets.get op.pocket with driven := (s.pockets.get op.pocket).driven + 1 } ∧
      OtherPocketsUnchanged op.pocket s (s.goodClinch op v) ∧
      (s.goodClinch op v).head.testWaiting = s.head.testWaiting := by
  rw [State.goodClinch_eq]
  refine ⟨by simp, by simp, by simp, by simp, by simp, ?_, fun q hq => ?_, by simp [State.startPhase, State.headTo]⟩
  · simpa using s.clinched_pocket op v
  · simp [State.clinched_pockets, State.onPocket_other _ _ hq]

/-- A put-back under a hold condition that is true already raises no hold. -/
theorem State.putBack_unraised {j : Job} {lane : Lane} {strokes : Option StrokesDone} {u : State}
    (h : u.holdCondition = true) :
    (u.putBack op j lane strokes).ctl = u.ctl ∧ (u.putBack op j lane strokes).link = u.link := by
  rw [State.putBack_eq, h, State.noteHold_true]
  simp [State.returned]

theorem State.holdCondition_of_trayFull {u : State} (h : u.trayFull = true) : u.holdCondition = true := by
  obtain ⟨c, hc, ht⟩ := u.trayFull_iff.1 h
  exact u.holdCondition_iff.2 ⟨c, hc, Or.inr ht⟩

theorem State.clinchFailed_trayFull : (s.clinchFailed op).trayFull = s.trayFull := by
  simp [State.trayFull, State.clinchFailed]

/-- A second open staple sets the pack aside, whether or not the tray has room (R75, R96). -/
theorem State.convertClinch_released :
    CommitmentsReleased op.pocket s (s.convertClinch op) ∧
      (s.convertClinch op).ctl = { s.ctl with counters := s.ctl.counters.bump (.setAside .clinch) } ∧
      (s.convertClinch op).link = s.link := by
  have hlink : (s.clinchFailed op).link = s.link := by simp [State.clinchFailed]
  obtain ⟨hstaples, hbins⟩ := s.clinchFailed_released op
  rw [State.convertClinch_eq]
  split
  · next hfull =>
    have hhold := State.holdCondition_of_trayFull ((s.clinchFailed_trayFull op).trans hfull)
    obtain ⟨hctl, hlink'⟩ := State.putBack_unraised op (j := .setAside .clinch) (lane := .normal) (strokes := none) hhold
    refine ⟨⟨?_, fun n => ?_⟩, hctl.trans (s.clinchFailed_ctl op), hlink'.trans hlink⟩
    · simpa using hstaples
    · exact (State.bin_congr (by simp) n).trans (hbins n)
  · exact ⟨⟨hstaples, hbins⟩, s.clinchFailed_ctl op, hlink⟩

/-- With room on the tray the pack goes to it (R96, R100). -/
theorem State.convertClinch_room (h : s.trayFull = false) :
    (s.convertClinch op).pockets.get op.pocket = { s.pockets.get op.pocket with state := .atHead (.setAside .clinch) } ∧
      OtherPocketsUnchanged op.pocket s (s.convertClinch op) ∧
      (s.convertClinch op).head.state =
        .busy { op with job := .setAside .clinch, lane := .normal, phase := .trayDrop, limit := 6 } ∧
      (s.convertClinch op).head.queue = s.head.queue ∧
      (s.convertClinch op).head.testWaiting = s.head.testWaiting := by
  rw [State.convertClinch_eq, h, if_neg Bool.false_ne_true]
  exact ⟨s.clinchFailed_pocket op, s.clinchFailed_other op, rfl, s.clinchFailed_queue op, s.clinchFailed_testWaiting op⟩

theorem State.clinchFailed_blocked (h : s.trayFull = true) :
    (s.clinchFailed op).blockedReason op.pocket (.setAside .clinch) = some .tray :=
  if_pos ((s.clinchFailed_trayFull op).trans h)

end GoesOn

/-- With the tray full the pack goes back to the queue and waits for room (R89, R96). -/
theorem State.convertClinch_full {op : Operation} {s u : State} (h : u.trayFull = true)
    (hq : ∀ x ∈ s.head.queue, x.pocket ≠ op.pocket) (hqueue : u.head.queue = s.head.queue) (hpockets : u.pockets = s.pockets)
    (hwaiting : u.head.testWaiting = s.head.testWaiting) (hstation : u.ctl.station = s.ctl.station) :
    (u.convertClinch op).pockets.get op.pocket = { s.pockets.get op.pocket with state := .waiting (.setAside .clinch) } ∧
      BlocksFresh s (u.convertClinch op) ∧ HeadFreed s (u.convertClinch op) ∧
      (QueueHoldsWaiting s → OthersServed (fun q => q = op.pocket) s (u.convertClinch op)) ∧
      ∃ x ∈ (u.convertClinch op).head.queue, x.pocket = op.pocket ∧ x.job = .setAside .clinch ∧ x.stamp = op.stamp ∧
        x.passOvers = op.passOvers ∧ x.lane = .normal ∧ x.blocked = some .tray := by
  rw [State.convertClinch_eq, h, if_pos rfl]
  have hreason := u.clinchFailed_blocked op h
  have hblocked : (u.clinchFailed op).blockedReason op.pocket (.setAside .clinch) ≠ none := by rw [hreason]; nofun
  have hfailed : (u.clinchFailed op).head.queue = s.head.queue := (u.clinchFailed_queue op).trans hqueue
  have hothers : OtherPocketsUnchanged op.pocket s (u.clinchFailed op) := by
    rw [OtherPocketsUnchanged, ← hpockets]
    exact u.clinchFailed_other op
  refine ⟨?_, State.putBack_fresh (by simpa [State.clinchFailed] using hstation),
    State.putBack_freed ((u.clinchFailed_testWaiting op).trans hwaiting),
    fun hw => State.putBack_others hw hfailed hothers hq,
    _, State.putBack_entry hblocked, rfl, rfl, rfl, rfl, rfl, hreason⟩
  rw [State.putBack_pocket hblocked (by rwa [hfailed]), u.clinchFailed_pocket op, hpockets]

section Stroke

variable {op : Operation} {position : Nat} {c : StationConfig} {s : State} (v : SenseReading)

theorem State.struck_undriven (position : Nat) (p : PocketId) (s : State) :
    (s.struck position v).undriven p = s.undriven p := State.undriven_congr (by simp) (by simp)

theorem State.struck_trayFull (hc : s.config = some c) :
    (s.struck position v).trayFull = decide (s.rack.tray = c.trayCapacity) := by
  simp [State.trayFull, hc]

/-- What every stroke-complete brings about, whatever its reading (R93, R107, R109). -/
theorem JudgementKeeps.struck {t : State} (h : JudgementKeeps (s.struck position v) t) :
    t.part = s.part ∧ t.packs = s.packs ∧ t.config = s.config ∧ StoreWritten s t ∧ t.rack.tray = s.rack.tray ∧
      t.head.arrivals = s.head.arrivals ∧ t.head.staples.remaining = s.head.staples.remaining - 1 ∧
      t.head.staples.state = s.head.staples.state ∧
      t.head.readings =
        (if position = 1 then
          { s.head.readings with position1 := { value := v, updated := true, rewritten := true } }
        else { s.head.readings with position2 := { value := v, updated := true, rewritten := true } }) := by
  have hwritten := h.written (s.struck_written position v)
  obtain ⟨hpart, hpacks, hconfig, -, -, htray, harrivals, hremaining, hbudget, hreadings⟩ := h
  simp only [State.struck_frame] at hpart hpacks hconfig htray harrivals hremaining hbudget hreadings
  exact ⟨hpart, hpacks, hconfig, hwritten, htray, harrivals, hremaining, hbudget, hreadings⟩

/-- The commitments of a pack set aside at a stroke are those that stood before it. -/
theorem State.struck_released {t : State} (h : CommitmentsReleased op.pocket (s.struck position v) t) :
    t.head.staples.committed = s.head.staples.committed - s.undriven op.pocket ∧
      ∀ n, t.bin n = (s.bin n).map fun b =>
        if s.targetBin op.pocket = some n then { b with committed := b.committed - 1 } else b := by
  obtain ⟨hstaples, hbins⟩ := h
  have htarget : (s.struck position v).targetBin op.pocket = s.targetBin op.pocket :=
    State.targetBin_congr (by simp) (by simp)
  have hbin : ∀ n, (s.struck position v).bin n = s.bin n := State.bin_congr (by simp)
  refine ⟨?_, fun n => ?_⟩
  · rw [hstaples, State.struck_undriven]
    simp
  · rw [hbins, htarget, hbin]

/-- The clinch is judged after the reading and the spent staple (R93 to R96). -/
theorem State.strokeCompletes_keeps {retry : Bool} (hb : s.head.state = .busy op)
    (hph : op.phase = .stroke position retry) (hc : s.config = some c) :
    JudgementKeeps (s.struck position v) (s.strokeCompletes v) := by
  rw [State.strokeCompletes_struck v hb hph hc]
  split
  · exact State.goodClinch_keeps _ _ _
  · split
    · exact State.convertClinch_keeps _ _
    · exact State.retryStroke_keeps _ _ _

theorem State.retryStroke_spec (op : Operation) (position : Nat) (s : State) :
    (s.retryStroke op position).head =
        { s.head with state := .busy { op with phase := .stroke position true, limit := 2, retried := true } } ∧
      (s.retryStroke op position).rack = s.rack ∧ (s.retryStroke op position).link = s.link ∧
      (s.retryStroke op position).ctl = { s.ctl with counters := s.ctl.counters.bump .clinchRetries } ∧
      (s.retryStroke op position).pockets = s.pockets :=
  ⟨rfl, rfl, rfl, rfl, rfl⟩

end Stroke

/-- Settles O44: the reading is written and the staple spent, and then the clinch is judged by the low threshold and by
whether the stroke was a retry. -/
theorem strokeCompleteJudgesTheClinch : Obligations.StrokeCompleteJudgesTheClinch := by
  intro v op position left retry c s hr hb hph hc hleft hq
  subst hleft
  let u := s.struck position v
  have hundriven : u.undriven op.pocket = s.undriven op.pocket := State.struck_undriven v position op.pocket s
  obtain ⟨hpart, hpacks, hconfig, hwritten, htray, harrivals, hremaining, hbudget, hreadings⟩ :=
    (State.strokeCompletes_keeps v hb hph hc).struck v
  refine ⟨_, event_running hr, hpart, hpacks, hconfig, hwritten, htray, harrivals, hremaining, hbudget, hreadings,
    fun hgood => ?_, fun hopen hretry => ?_, fun hopen hretry => ?_⟩ <;> rw [State.strokeCompletes_struck v hb hph hc]
  · rw [if_pos hgood]
    obtain ⟨hcommitted, hqueue, hrack, hlink, hctl, hpocket, hothers, hwaiting⟩ := u.goodClinch_spec op v
    have hcfg : u.cfg = c := by simp only [State.cfg, show u.config = some c by simp [u, hc], Option.getD_some]
    have hstate := u.goodClinch_state op v
    rw [hundriven] at hstate
    rw [hcfg] at hctl
    simp only [u, State.struck_frame] at hcommitted hqueue hrack hlink hctl
    simp only [u, OtherPocketsUnchanged, State.struck_frame] at hpocket hothers hwaiting hstate
    exact ⟨hcommitted, hqueue, hrack, hlink, hctl, hpocket, hothers, hwaiting, hstate⟩
  · obtain ⟨hhead, hrack, hlink, hctl, hpockets⟩ := u.retryStroke_spec op position
    rw [if_neg (Nat.not_le.2 hopen), hretry, if_neg Bool.false_ne_true, hhead]
    simp only [u, State.struck_frame] at hrack hlink hctl hpockets ⊢
    exact ⟨trivial, trivial, hrack, hlink, hctl, hpockets, trivial, trivial⟩
  · rw [if_neg (Nat.not_le.2 hopen), hretry, if_pos rfl]
    obtain ⟨hreleased, hctl, hlink⟩ := u.convertClinch_released op
    obtain ⟨hcommitted, hbins⟩ := State.struck_released v hreleased
    have hfull : u.trayFull = decide (s.rack.tray = c.trayCapacity) := State.struck_trayFull v hc
    simp only [u, State.struck_frame] at hctl hlink
    refine ⟨hcommitted, hbins, hctl, hlink, fun hroom => ?_, fun hfills => ?_⟩
    · have hspec := u.convertClinch_room op (by rw [hfull, decide_eq_false hroom])
      simpa only [u, OtherPocketsUnchanged, State.struck_frame] using hspec
    · exact State.convertClinch_full (by rw [hfull, decide_eq_true hfills]) hq (by simp) (by simp) (by simp)
        (by simp)

end Sys2Proof.Machine

namespace Sys2Proof.Machine

open Sys2Proof.Config

/-! ### The REPORT that a replace builds (R115, R169, R176) -/

/-- A HEAD report starts its watch in every station state, SAFE among them (log 21). -/
theorem State.appendReport_head (a : Ask) (s : State) : (s.appendReport a).head = watchedBy a s.head := by
  cases a <;> simp [State.appendReport, watchedBy]

/-- What a REPORT shows turns neither on the transmit queue nor on the watch of the readings. -/
theorem State.reportContent_appendReport (a : Ask) (s : State) :
    (s.appendReport a).reportContent a = s.reportContent a := by
  have happend : ∀ f, (s.append f).reportContent a = s.reportContent a := fun f => by
    unfold State.append
    split
    · rfl
    · exact State.reportContent_onLink _ a s
  cases a <;> exact happend _

/-! ### What the delivered REPORT changes outside its slot (R115, R178) -/

section ContentReported

variable (a : Ask) (c : ReportContent) (s : State)

@[simp] theorem State.contentReported_frame :
    (s.contentReported a c).part = s.part ∧
    (s.contentReported a c).config = s.config ∧
    (s.contentReported a c).link = s.link ∧
    (s.contentReported a c).packs = s.packs ∧
    (s.contentReported a c).pockets = s.pockets ∧
    (s.contentReported a c).rack = s.rack ∧
    (s.contentReported a c).store = s.store ∧
    (s.contentReported a c).ctl.reportSlot = s.ctl.reportSlot ∧
    (s.contentReported a c).ctl.station = s.ctl.station := by
  cases c with
  | bin b => cases a <;> exact ⟨rfl, rfl, rfl, rfl, rfl, rfl, rfl, rfl, rfl⟩
  | _ => exact ⟨rfl, rfl, rfl, rfl, rfl, rfl, rfl, rfl, rfl⟩

/-- Of the Station Controller the content of a REPORT moves the roster cursor alone. -/
theorem State.contentReported_ctl :
    (s.contentReported a c).ctl = { s.ctl with rosterCursor := (s.contentReported a c).ctl.rosterCursor } := by
  cases c with
  | bin b => cases a <;> rfl
  | _ => rfl

theorem State.contentReported_rosterCursor :
    (s.contentReported a c).ctl.rosterCursor =
      match a, c with
      | .bin n, .bin b => (s.binReported n.toNat b).ctl.rosterCursor
      | _, _ => s.ctl.rosterCursor := by
  cases c with
  | bin b => cases a <;> rfl
  | _ => cases a <;> rfl

theorem State.contentReported_head :
    (s.contentReported a c).head =
      match c with
      | .head k => (s.headReported k).head
      | _ => s.head := by
  cases c with
  | bin b => cases a <;> rfl
  | _ => rfl

end ContentReported

/-! ### The report slot at the echo (R169, R175, R176) -/

section FreeReportSlot

variable {m : TxMark} {s : State}

/-- With no replace pending the slot becomes empty, and nothing else changes. -/
theorem State.freeReportSlot_empties (hm : m ≠ .replace) :
    s.freeReportSlot m = s.onCtl fun k => { k with reportSlot := none } := by
  cases m with
  | none => rfl
  | remove => rfl
  | replace => exact absurd rfl hm

/-- With a replace pending the REPORT of the slot's ask is built and appended. -/
theorem State.freeReportSlot_replaced {b : Ask} (hb : s.ctl.reportSlot = some b) :
    s.freeReportSlot .replace = s.appendReport b := by
  simp only [State.freeReportSlot, hb]

theorem State.freeReportSlot_unasked (hn : s.ctl.reportSlot = none) : s.freeReportSlot .replace = s := by
  simp only [State.freeReportSlot, hn]

theorem State.freeReportSlot_frame (m : TxMark) (s : State) :
    (s.freeReportSlot m).part = s.part ∧
    (s.freeReportSlot m).config = s.config ∧
    (s.freeReportSlot m).packs = s.packs ∧
    (s.freeReportSlot m).pockets = s.pockets ∧
    (s.freeReportSlot m).rack = s.rack ∧
    (s.freeReportSlot m).store = s.store ∧
    (s.freeReportSlot m).link.sendRun = s.link.sendRun ∧
    (s.freeReportSlot m).ctl.rosterCursor = s.ctl.rosterCursor := by
  by_cases hm : m = .replace
  · subst hm
    cases hslot : s.ctl.reportSlot with
    | none => simp [State.freeReportSlot_unasked hslot]
    | some b => simp [State.freeReportSlot_replaced hslot]
  · rw [State.freeReportSlot_empties hm]
    exact ⟨rfl, rfl, rfl, rfl, rfl, rfl, rfl, rfl⟩

/-- The head changes by the watch of a REPORT that takes the place of the delivered one, and by that alone. -/
theorem State.freeReportSlot_head (m : TxMark) (s : State) :
    (s.freeReportSlot m).head =
      match m, s.ctl.reportSlot with
      | .replace, some b => watchedBy b s.head
      | _, _ => s.head := by
  cases m with
  | none => rfl
  | remove => rfl
  | replace =>
    cases hslot : s.ctl.reportSlot with
    | none => rw [State.freeReportSlot_unasked hslot]
    | some b => rw [State.freeReportSlot_replaced hslot, State.appendReport_head]

/-- Outside SAFE the REPORT that a pending replace builds shows the state in which it is queued, and the slot stays full. -/
theorem State.freeReportSlot_queued {b : Ask} (hb : s.ctl.reportSlot = some b) (hs : s.ctl.station ≠ .safe) :
    (s.freeReportSlot .replace).ctl = s.ctl ∧
      ∃ d, ReportShows (s.freeReportSlot .replace) b d ∧
        FrameQueued (.report b d) (fun _ => True) s.link (s.freeReportSlot .replace).link := by
  rw [State.freeReportSlot_replaced hb]
  have hlink : (s.appendReport b).link = (s.append (.report b (s.reportContent b))).link := by cases b <;> rfl
  have hshows := (s.appendReport b).reportContent_shows b
  rw [State.reportContent_appendReport] at hshows
  refine ⟨by simp, s.reportContent b, hshows, ?_⟩
  rw [hlink]
  exact State.append_queued _ hs

end FreeReportSlot

/-! ### The echo of a REPORT (R115, R175, R178) -/

theorem exec_reportEcho {e : TxEntry} {a : Ask} {c : ReportContent} {s : State} (h : Echoes e s)
    (hf : e.frame = .report a c) :
    exec .reportEcho s = .next (((s.echoed e).contentReported a c).freeReportSlot e.mark) := by
  have hecho : s.echo (TxFrame.isKind .report) State.reportEchoed = State.reportEchoed e (s.echoed e) :=
    State.echo_heard _ h (by rw [hf]; rfl)
  have htaken : State.reportEchoed e (s.echoed e) = ((s.echoed e).contentReported a c).freeReportSlot e.mark := by
    simp only [State.reportEchoed, hf]
  exact (event_running (State.running_of_unitActive h.1)).trans (congrArg _ (hecho.trans htaken))

/-- Settles O35: the delivered content changes the flags or the cursor, and the slot is then freed, or kept for the REPORT that
a pending replace builds. -/
theorem reportEchoFreesTheSlot : Obligations.ReportEchoFreesTheSlot := by
  intro e a c cleared h' s he hf hcleared hh'
  obtain rfl : cleared = fun v x => x.reported v := funext fun v => funext (hcleared v)
  let u := (s.echoed e).contentReported a c
  obtain ⟨hpart, hconfig, hlink, hpacks, hpockets, hrack, hstore, hslot, hstation⟩ :=
    State.contentReported_frame a c (s.echoed e)
  obtain ⟨fpart, fconfig, fpacks, fpockets, frack, fstore, fsendRun, fcursor⟩ := u.freeReportSlot_frame e.mark
  have hctl : u.ctl = { s.ctl with rosterCursor := u.ctl.rosterCursor } := State.contentReported_ctl a c (s.echoed e)
  have hhead : u.head = h' := by
    rw [hh', State.contentReported_head]
    cases c <;> rfl
  have hhead' := u.freeReportSlot_head e.mark
  rw [hhead, show u.ctl.reportSlot = s.ctl.reportSlot from hslot] at hhead'
  refine ⟨_, exec_reportEcho he hf, fpacks.trans hpacks, fpockets.trans hpockets, frack.trans hrack, fstore.trans hstore,
    fconfig.trans hconfig, fpart.trans hpart, fsendRun.trans (congrArg BayLink.sendRun hlink),
    fcursor.trans (State.contentReported_rosterCursor a c (s.echoed e)), fun hm => ?_, hhead', fun hm b hb hs => ?_⟩
  · rw [fcursor, State.freeReportSlot_empties hm]
    exact ⟨congrArg (fun k : Controller => { k with reportSlot := none }) hctl, hlink⟩
  · obtain ⟨hkept, d, hshows, hqueued⟩ := State.freeReportSlot_queued (hslot.trans hb) (hstation.trans_ne hs)
    rw [fcursor, hm]
    rw [hlink] at hqueued
    exact ⟨hkept.trans hctl, d, hshows, hqueued⟩

end Sys2Proof.Machine

namespace Sys2Proof.Machine

open Sys2Proof.Config

/-! ### What the rosters are matched with (R128, R136) -/

/-- In every bin record the roster is as long as the fill packs, with one record per bin of the configured rack (R128). -/
def RackMatches (s : State) : Prop :=
  (∀ b ∈ s.rack.bins, b.roster.length = b.fillPacks) ∧
    s.rack.bins.length = (s.config.map StationConfig.rackSize).getD 0

/-- In every retained record the roster is as long as the fill packs, with as many records as the retained rack size (R136). -/
def StoreMatches (r : RetainedStore) : Prop :=
  (∀ b ∈ r.bins, b.roster.length = b.fillPacks) ∧ r.bins.length = r.rackSize

/-- The fills and rosters of the bins, the retained store and the configuration stand; commitments may change. An abbreviation,
so that `simp` takes a lemma of this form as its three equations. -/
abbrev RostersStand (s t : State) : Prop :=
  t.rack.bins.map Bin.retained = s.rack.bins.map Bin.retained ∧ t.store = s.store ∧ t.config = s.config

section Matching

variable {s t : State}

theorem rostersMatch_iff : RostersMatch s ↔ RackMatches s ∧ StoreMatches s.store := by
  unfold RostersMatch RackMatches StoreMatches
  tauto

/-- The retained content of the bins is all that is read of them. -/
theorem rackMatches_iff_retained :
    RackMatches s ↔
      (∀ b ∈ s.rack.bins.map Bin.retained, b.roster.length = b.fillPacks) ∧
        (s.rack.bins.map Bin.retained).length = (s.config.map StationConfig.rackSize).getD 0 := by
  simp [RackMatches, Bin.retained]

theorem RackMatches.congr (h : RackMatches s)
    (hb : t.rack.bins.map Bin.retained = s.rack.bins.map Bin.retained) (hc : t.config = s.config) : RackMatches t := by
  rw [rackMatches_iff_retained] at h ⊢
  rwa [hb, hc]

theorem RostersMatch.stands (h : RostersMatch s) (k : RostersStand s t) : RostersMatch t := by
  obtain ⟨hb, hs, hc⟩ := k
  obtain ⟨hrack, hstore⟩ := rostersMatch_iff.1 h
  exact rostersMatch_iff.2 ⟨hrack.congr hb hc, hs ▸ hstore⟩

theorem keepsRosters_of_stands {f : State → State} (h : ∀ s, RostersStand s (f s)) : Keeps RostersMatch f :=
  fun s hs => hs.stands (h s)

/-- A bin record changed to one whose roster still counts its fill packs. -/
theorem RackMatches.onBin (h : RackMatches s) (n : Nat) {f : Bin → Bin}
    (hf : ∀ b, b.roster.length = b.fillPacks → (f b).roster.length = (f b).fillPacks) : RackMatches (s.onBin n f) := by
  obtain ⟨hbins, hsize⟩ := h
  unfold State.onBin
  split
  · exact ⟨hbins, hsize⟩
  · refine ⟨fun b hb => ?_, by simpa [State.onRack] using hsize⟩
    obtain ⟨i, hi⟩ := List.mem_iff_getElem?.1 hb
    obtain ⟨x, hx, rfl⟩ : ∃ x, s.rack.bins[i]? = some x ∧ (if n - 1 = i then f x else x) = b := by
      simpa [State.onRack, List.getElem?_modify] using hi
    have hmatch := hbins x (List.mem_of_getElem? hx)
    split
    · exact hf x hmatch
    · exact hmatch

/-- A store written with the bins as they stand matches where they do (R128, R188). -/
theorem StoreWritten.rostersMatch (hw : StoreWritten s t) (hs : StoreMatches s.store) (hr : RackMatches t)
    (hc : t.config = s.config) : RostersMatch t := by
  refine rostersMatch_iff.2 ⟨hr, ?_⟩
  cases hcfg : s.config with
  | none => rwa [hw.1 hcfg]
  | some c =>
    rw [rackMatches_iff_retained, hc, hcfg] at hr
    rw [hw.2 c hcfg]
    exact hr

/-- A write of the store with the fills and rosters as they were. -/
theorem RostersMatch.written (h : RostersMatch s) (hw : StoreWritten s t)
    (hb : t.rack.bins.map Bin.retained = s.rack.bins.map Bin.retained) (hc : t.config = s.config) : RostersMatch t := by
  obtain ⟨hrack, hstore⟩ := rostersMatch_iff.1 h
  exact hw.rostersMatch hstore (hrack.congr hb hc) hc

end Matching

/-! ### What leaves fills, rosters and store as they stand: the shared operations -/

section SharedOperations

variable (s : State)

@[simp] theorem State.releaseCommitments_stands (p : PocketId) : RostersStand s (s.releaseCommitments p) := by
  refine ⟨?_, by simp, by simp⟩
  unfold State.releaseCommitments
  split
  · rfl
  · exact State.onBin_retained _ (fun b => { b with committed := b.committed - 1 }) (fun _ => rfl) _

@[simp] theorem State.accountAside_stands (p : PocketId) (r : AsideReason) : RostersStand s (s.accountAside p r) :=
  s.releaseCommitments_stands p

@[simp] theorem State.retireUngathered_stands (p : PocketId) (r : AsideReason) :
    RostersStand s (s.retireUngathered p r) := by
  unfold State.retireUngathered
  split <;> simp [RostersStand]

@[simp] theorem State.closePocket_stands (p : PocketId) (j : Job) : RostersStand s (s.closePocket p j) := by
  unfold State.closePocket
  cases j <;> simp [RostersStand]

@[simp] theorem State.convertWaiting_stands (p : PocketId) (r : AsideReason) :
    RostersStand s (s.convertWaiting p r) := by
  simp [RostersStand, State.convertWaiting]

@[simp] theorem State.giveBack_stands (p : PocketId) : RostersStand s (s.giveBack p) := by
  unfold State.giveBack
  split <;> simp [RostersStand]

theorem State.haltEchoed_stands : RostersStand s s.haltEchoed := by
  have hbins := foldl_keeps (fun t => t.rack.bins.map Bin.retained) (fun u p => State.giveBack p u) (fun t p => by simp)
    PocketId.all s
  exact ⟨by simpa [State.haltEchoed] using hbins, by simp, by simp⟩

@[simp] theorem State.commitClaims_stands (b : PendingBid) : RostersStand s (s.commitClaims b) := by
  refine ⟨?_, by simp [State.commitClaims], by simp [State.commitClaims]⟩
  exact State.onBin_retained _ (fun n => { n with committed := n.committed + 1 }) (fun _ => rfl) _

@[simp] theorem State.requestTest_stands : RostersStand s s.requestTest := by
  simp [RostersStand, State.requestTest]

end SharedOperations

end Sys2Proof.Machine

namespace Sys2Proof.Machine

open Sys2Proof.Config

/-! ### What leaves fills, rosters and store as they stand: link, packs, pockets and console -/

section Meanings

variable (s : State)

theorem State.tick_stands : RostersStand s s.tick := by
  unfold State.tick State.tickPockets
  (repeat' split) <;> simp [RostersStand]

/-! The bay link (R165, R166, R170, R171) -/

@[simp] theorem State.startAttempt_stands : RostersStand s s.startAttempt := by
  unfold State.startAttempt
  split <;> simp [RostersStand]

theorem State.contends_stands (m : ContentionMoment) : RostersStand s (s.contends m) := by
  unfold State.contends State.arbitrate State.enterContention
  (repeat' split) <;> simp [RostersStand]

theorem State.ownSpoiled_stands : RostersStand s s.ownSpoiled := by
  unfold State.ownSpoiled
  dsimp only
  (repeat' split) <;> simp [RostersStand]

theorem State.receivedSpoiled_stands (r : Reception) : RostersStand s (s.receivedSpoiled r) := by
  unfold State.receivedSpoiled
  dsimp only
  (repeat' split) <;> simp [RostersStand]

theorem State.frameSpoiled_stands (f : SpoiledFrame) : RostersStand s (s.frameSpoiled f) := by
  unfold State.frameSpoiled
  split
  · cases f with
    | own => exact s.ownSpoiled_stands
    | received r => exact s.receivedSpoiled_stands r
  · exact ⟨rfl, rfl, rfl⟩

/-! Frames of the pack table (R8 to R18, R36, R79) -/

theorem State.takeOffer_stands (sender : Nat) (b : OfferBody) : RostersStand s (s.takeOffer sender b) := by
  unfold State.takeOffer State.enterOffer
  dsimp only
  (repeat' split) <;> simp [RostersStand]

theorem State.takeBid_stands (sender : Nat) (mine : Bool) (fit load : Nat) (id : PackId) :
    RostersStand s (s.takeBid sender mine fit load id) := by
  unfold State.takeBid State.bidSent State.recordBid
  dsimp only
  (repeat' split) <;> simp [RostersStand]

theorem State.takeBidFrom_stands (sender : Nat) (b : BidBody) (id : PackId) :
    RostersStand s (s.takeBidFrom sender b id) := by
  unfold State.takeBidFrom
  split
  · exact s.takeBid_stands _ _ _ _ _
  · exact ⟨rfl, rfl, rfl⟩

theorem State.takeBidEcho_stands (e : TxEntry) : RostersStand s (s.takeBidEcho e) := by
  unfold State.takeBidEcho
  (repeat' split)
  · exact s.takeBid_stands _ _ _ _ _
  all_goals exact ⟨rfl, rfl, rfl⟩

@[simp] theorem State.resolvePlaced_stands (id : PackId) (owner : Nat) : RostersStand s (s.resolvePlaced id owner) := by
  unfold State.resolvePlaced State.placeEntry
  (repeat' split) <;> simp [RostersStand]

@[simp] theorem State.resolveRetired_stands (id : PackId) : RostersStand s (s.resolveRetired id) := by
  unfold State.resolveRetired
  (repeat' split) <;> simp [RostersStand]

theorem State.takeClose_stands (sender : Nat) (id : PackId) : RostersStand s (s.takeClose sender id) := by
  unfold State.takeClose
  (repeat' split) <;> simp [RostersStand]

@[simp] theorem State.withdrawAtOwner_stands (p : PocketId) : RostersStand s (s.withdrawAtOwner p) := by
  unfold State.withdrawAtOwner
  (repeat' split) <;> simp [RostersStand]

theorem State.takeWithdraw_stands (sender : Nat) (id : PackId) : RostersStand s (s.takeWithdraw sender id) := by
  unfold State.takeWithdraw
  (repeat' split) <;> simp [RostersStand]

theorem State.takeEnd_stands (sender : Nat) (id : PackId) : RostersStand s (s.takeEnd sender id) := by
  unfold State.takeEnd State.freeRetired
  (repeat' split) <;> simp [RostersStand]

theorem State.takeEndEcho_stands (e : TxEntry) : RostersStand s (s.takeEndEcho e) := by
  unfold State.takeEndEcho
  (repeat' split)
  · exact s.takeEnd_stands _ _
  · exact s.takeEnd_stands _ _
  all_goals exact ⟨rfl, rfl, rfl⟩

theorem State.takeForget_stands (sender : Nat) : RostersStand s (s.takeForget sender) := by
  unfold State.takeForget
  split <;> simp [RostersStand]

theorem State.joinEchoed_stands : RostersStand s s.joinEchoed := by
  unfold State.joinEchoed State.haltOnHeld
  (repeat' split) <;> simp [RostersStand]

theorem State.renewHold_stands : RostersStand s s.renewHold := by
  unfold State.renewHold
  (repeat' split) <;> simp [RostersStand]

/-! The console and the service button (R175 to R182) -/

theorem State.asked_stands (a : Ask) : RostersStand s (s.asked a) := by
  unfold State.asked
  split <;> simp [RostersStand]

theorem State.reportEchoed_stands (e : TxEntry) : RostersStand s (s.reportEchoed e) := by
  unfold State.reportEchoed
  split <;> simp [RostersStand, State.freeReportSlot_frame]

theorem State.takeOrder_stands (o : OrderKind) {obey : State → Obeyed} (h : RostersStand s (obey s).state) :
    RostersStand s (s.takeOrder o obey) := by
  unfold State.takeOrder
  (repeat' split) <;> simp [RostersStand, h]

theorem State.obeyStandby_stands : RostersStand s s.obeyStandby.state := by
  unfold State.obeyStandby
  split <;> simp [RostersStand]

theorem State.obeyResume_stands (r : ResumeReadings) : RostersStand s (s.obeyResume r).state := by
  unfold State.obeyResume
  (repeat' split) <;> simp [RostersStand]

theorem State.obeySelfTest_stands : RostersStand s s.obeySelfTest.state := by
  unfold State.obeySelfTest
  (repeat' split) <;> simp [RostersStand]

theorem State.buttonPressed_stands (r : ResumeReadings) : RostersStand s (s.buttonPressed r) := by
  unfold State.buttonPressed
  (repeat' split) <;> simp [RostersStand]

/-! The gate and the pockets (R60 to R72) -/

@[simp] theorem State.takeSheet_stands (p : PocketId) : RostersStand s (s.takeSheet p) := ⟨rfl, rfl, rfl⟩

@[simp] theorem State.nextIndex_stands (p : PocketId) : RostersStand s (s.nextIndex p) := ⟨rfl, rfl, rfl⟩

@[simp] theorem State.absorbSheet_stands (p : PocketId) (r : AsideReason) (o : Offer) (m : Mark) :
    RostersStand s (s.absorbSheet p r o m) := by
  unfold State.absorbSheet State.passOwn
  dsimp only
  (repeat' split) <;> simp [RostersStand]

@[simp] theorem State.judgePack_stands (p : PocketId) (o : Offer) (m : Mark) : RostersStand s (s.judgePack p o m) := by
  unfold State.judgePack
  (repeat' split) <;> simp [RostersStand]

@[simp] theorem State.firstSheet_stands (p : PocketId) (o : Offer) (m : Mark) : RostersStand s (s.firstSheet p o m) := by
  unfold State.firstSheet
  dsimp only
  (repeat' split) <;> simp [RostersStand]

@[simp] theorem State.fillingSheet_stands (p : PocketId) (next : Nat) (o : Offer) (m : Mark) :
    RostersStand s (s.fillingSheet p next o m) := by
  unfold State.fillingSheet State.passOwn
  (repeat' split) <;> simp [RostersStand]

@[simp] theorem State.sheetAtPocket_stands (p : PocketId) (o : Offer) (m : Mark) :
    RostersStand s (s.sheetAtPocket p o m) := by
  unfold State.sheetAtPocket State.extraSheet State.passOwn
  (repeat' split) <;> simp [RostersStand]

theorem State.sheetArrives_stands (raw : Option SheetMark) : RostersStand s (s.sheetArrives raw) := by
  unfold State.sheetArrives State.divertTo
  dsimp only
  (repeat' split) <;> simp [RostersStand]

theorem State.gapExpires_stands (p : PocketId) : RostersStand s (s.gapExpires p) := by
  unfold State.gapExpires
  (repeat' split) <;> simp [RostersStand]

theorem State.firstSheetExpires_stands (p : PocketId) : RostersStand s (s.firstSheetExpires p) := by
  unfold State.firstSheetExpires
  (repeat' split) <;> simp [RostersStand]

/-! The head and its faults (R94 to R98, R102, R117, R118, R139) -/

theorem State.goodClinch_stands (op : Operation) (v : SenseReading) : RostersStand s (s.goodClinch op v) := by
  simp [RostersStand, State.goodClinch_eq]

theorem State.retryStroke_stands (op : Operation) (position : Nat) : RostersStand s (s.retryStroke op position) := by
  simp [RostersStand, State.retryStroke]

theorem State.convertClinch_stands (op : Operation) : RostersStand s (s.convertClinch op) := by
  unfold State.convertClinch
  dsimp only
  split <;> simp [RostersStand]

theorem State.ejectCompletes_stands (occupied : Bool) : RostersStand s (s.ejectCompletes occupied) := by
  unfold State.ejectCompletes State.readOccupied
  dsimp only
  (repeat' split) <;> simp [RostersStand]

theorem State.limitExpires_stands (inPhase : Phase → Bool) (c : HaltCause) :
    RostersStand s (s.limitExpires inPhase c) := by
  unfold State.limitExpires
  (repeat' split) <;> simp [RostersStand]

theorem State.headJams_stands : RostersStand s s.headJams := by
  unfold State.headJams
  split <;> simp [RostersStand]

theorem State.levelEnds_stands (level : TestLevel) (j : Judgement) : RostersStand s (s.levelEnds level j) := by
  unfold State.levelEnds State.endTest
  split <;> simp [RostersStand]

theorem State.referenceRead_stands (v : SenseReading) : RostersStand s (s.referenceRead v) := by
  unfold State.referenceRead
  split
  · exact (s.writeReference _ v).levelEnds_stands _ _
  · exact ⟨rfl, rfl, rfl⟩

theorem State.readingExpires_stands : RostersStand s s.readingExpires := by
  unfold State.readingExpires
  split
  · exact s.levelEnds_stands _ _
  · exact ⟨rfl, rfl, rfl⟩

theorem State.pocketJams_stands (p : PocketId) : RostersStand s (s.pocketJams p) := by
  unfold State.pocketJams State.jamLine
  dsimp only
  split <;> simp [RostersStand]

end Meanings

end Sys2Proof.Machine

namespace Sys2Proof.Machine

open Sys2Proof.Config

/-! ### What writes the store (R107, R128, R188) -/

/-- A stroke spends a staple in the store, and its judgement writes nothing more (R93 to R96). -/
theorem State.strokeCompletes_rosters (v : SenseReading) : Keeps RostersMatch (State.strokeCompletes v) := by
  intro s h
  unfold State.strokeCompletes
  split
  · next op _ =>
    split
    · next position retry _ =>
      have hstruck : RostersMatch (s.struck position v) := h.written (s.struck_written position v) (by simp) (by simp)
      unfold State.strokeDone
      dsimp only
      split
      · exact hstruck.stands ((s.struck position v).goodClinch_stands op v)
      · split
        · exact hstruck.stands ((s.struck position v).convertClinch_stands op)
        · exact hstruck.stands ((s.struck position v).retryStroke_stands op position)
    · exact h
  · exact h

theorem State.noStapleFound_rosters : Keeps RostersMatch State.noStapleFound := by
  intro s h
  have hemptied : RostersMatch s.emptyStaples := h.written s.emptyStaples_written (by simp) (by simp)
  have hserved : RostersMatch s.emptyStaples.reevaluateAndServe := hemptied.stands (by simp [RostersStand])
  unfold State.noStapleFound
  split
  · exact h
  · split
    · exact hemptied.stands (by simp [RostersStand])
    · exact hserved
  · exact hserved
  · exact hserved

/-- A drop puts one record on the roster and one pack in the fill (R129, R131). -/
theorem State.recordDrop_rosters (op : Operation) (o : Offer) (n : Nat) : Keeps RostersMatch (State.recordDrop op o n) := by
  intro s h
  obtain ⟨hrack, hstore⟩ := rostersMatch_iff.1 h
  have hdropped := hrack.onBin n
    (f := fun b =>
      { fillPacks := b.fillPacks + 1, fillSheets := b.fillSheets + (s.pockets.get op.pocket).sheets,
        committed := b.committed - 1, roster := b.roster ++ [s.rosterRecord op o n] })
    fun b hb => by simp [hb]
  exact (s.recordDrop_written op o n).rostersMatch hstore
    (hdropped.congr (by simp [State.recordDrop]) (by simp [State.recordDrop])) (by simp)

theorem State.dropConfirms_rosters : Keeps RostersMatch State.dropConfirms := by
  intro s h
  unfold State.dropConfirms
  split
  · next op _ =>
    split
    · split
      · next o n _ _ => exact (State.recordDrop_rosters op o n s h).stands (by simp [RostersStand])
      · exact h.stands (by simp [RostersStand])
    · exact h
  · exact h

theorem State.trayDropConfirms_rosters (occupied : Bool) : Keeps RostersMatch (State.trayDropConfirms occupied) := by
  intro s h
  cases hst : s.head.state with
  | busy op =>
    cases hph : op.phase with
    | trayDrop =>
      have hread : RostersMatch (s.readOccupied op.pocket occupied) := h
      cases occupied with
      | true =>
        rw [State.trayDropConfirms_failed hst hph]
        exact hread.stands (by simp [RostersStand])
      | false =>
        rw [State.trayDropConfirms_ends hst hph]
        have hended := hread.written (State.trayEnded_written op _) (by simp) (by simp)
        exact hended.stands (by simp [RostersStand])
    | _ => simpa [State.trayDropConfirms, hst, hph] using h
  | _ => simpa [State.trayDropConfirms, hst] using h

/-! The senses of the rack and the cartridge (R110, R133, R135) -/

theorem State.refill_rosters (c : StationConfig) : Keeps RostersMatch (State.refill c) := fun s h =>
  h.written (s.refill_written c) (by simp [State.refill]) (by simp [State.refill])

/-- An emptied bin has an empty roster and a fill of no packs (R133). -/
theorem State.emptyBin_rosters (n : Nat) : Keeps RostersMatch (State.emptyBin n) := by
  intro s h
  cases hn : s.bin n with
  | none => simpa only [State.emptyBin, hn] using h
  | some r =>
    obtain ⟨hrack, hstore⟩ := rostersMatch_iff.1 h
    obtain ⟨-, hconfig, -⟩ := State.emptyBin_frame hn
    have hemptied := hrack.onBin n (f := fun b => { b with fillPacks := 0, fillSheets := 0, roster := [] }) fun _ _ => rfl
    exact (State.emptyBin_written hn).rostersMatch hstore
      (hemptied.congr (by rw [State.emptyBin_rack hn]) (by simp [hconfig])) hconfig

theorem State.emptyTray_rosters : Keeps RostersMatch State.emptyTray := fun s h =>
  h.written s.emptyTray_written (by simp [State.emptyTray]) (by simp [State.emptyTray])

theorem State.senseRaised_rosters (hold : HeldEvents → HeldEvents) {take : StationConfig → State → State}
    (ht : ∀ c, Keeps RostersMatch (take c)) : Keeps RostersMatch (State.senseRaised hold take) := by
  intro s h
  unfold State.senseRaised
  split
  · exact ht _ s h
  · split <;> exact h

/-! ### Resets and the start sequence (R136, R137, R183 to R188) -/

theorem RetainedStore.lost_matches : StoreMatches RetainedStore.lost := by
  simp [StoreMatches, RetainedStore.lost]

/-- A reset keeps the store alone, and no configuration and no bin. -/
theorem State.resetTo_rosters {s : State} (cause : ResetCause) (h : RostersMatch s) : RostersMatch (s.resetTo cause) :=
  rostersMatch_iff.2 ⟨(rostersMatch_iff.1 invariantsHoldAtReset.2.2.1).1, (rostersMatch_iff.1 h).2⟩

/-- A write that is cut off leaves its records, with a store check that fails (R188). -/
theorem State.cutStore_rosters (cut : Bool) : Keeps RostersMatch (State.cutStore cut) := by
  intro s h
  unfold State.cutStore
  split <;> exact h

/-- Applied power brings no retained content (R188). -/
theorem State.powerApplied_rosters (straps : Straps) : Keeps RostersMatch (State.powerApplied straps) := fun _ h =>
  rostersMatch_iff.2 ⟨(rostersMatch_iff.1 (State.resetTo_rosters .power h)).1, RetainedStore.lost_matches⟩

theorem State.reboot_rosters (straps : Straps) (cut : Bool) : Keeps RostersMatch (State.reboot straps cut) := fun _ h =>
  State.cutStore_rosters cut _ (State.resetTo_rosters .reboot h)

theorem State.pinActive_rosters (cut : Bool) : Keeps RostersMatch (State.pinActive cut) := by
  intro s h
  unfold State.pinActive
  split
  · exact h
  · split
    · exact State.cutStore_rosters cut _ (State.resetTo_rosters .line h)
    · exact h

theorem State.pinReleased_rosters (straps : Straps) : Keeps RostersMatch (State.pinReleased straps) := by
  intro s h
  unfold State.pinReleased
  dsimp only
  split
  · split <;> exact h
  · exact h

theorem State.failLoading_rosters (f : ConfigFault) : Keeps RostersMatch (State.failLoading f) := by
  refine keepsRosters_of_stands fun s => ?_
  unfold State.failLoading State.clearHeld State.budgetUnset
  dsimp only
  split <;> simp [RostersStand]

/-- The start values hold a matching record for each bin: restored ones of the same rack size, or empty ones (R136, R137). -/
theorem startRack_matches {r : RetainedStore} (h : StoreMatches r) (c : StationConfig) (result : StoreResult) :
    (∀ b ∈ (startRack r c result).bins, b.roster.length = b.fillPacks) ∧
      (startRack r c result).bins.length = c.rackSize := by
  obtain ⟨hbins, hsize⟩ := h
  have hempty : (∀ b ∈ List.replicate c.rackSize Bin.empty, b.roster.length = b.fillPacks) ∧
      (List.replicate c.rackSize Bin.empty).length = c.rackSize :=
    ⟨fun b hb => by rw [List.eq_of_mem_replicate hb]; rfl, List.length_replicate⟩
  cases result with
  | notMade => exact hempty
  | bad => exact hempty
  | good =>
    unfold startRack
    dsimp only
    split
    · next hsame =>
      obtain ⟨hrack, -, -⟩ := of_decide_eq_true hsame
      refine ⟨fun b hb => ?_, by rw [List.length_map, hsize, hrack]⟩
      obtain ⟨x, hx, rfl⟩ := List.mem_map.1 hb
      exact hbins x hx
    · exact hempty

/-- The start values written back match, whatever rack there was before the configuration (R184 step 5). -/
theorem State.checkStore_rosters (c : StationConfig) (cartridge : Bool) {s : State} (h : StoreMatches s.store) :
    RostersMatch ((s.withConfig (some c)).checkStore c cartridge) := by
  unfold State.checkStore
  refine (State.writeStore_written _).rostersMatch h ?_ (by simp)
  have hstart := startRack_matches h c (s.withConfig (some c)).storeCheck
  simpa [RackMatches] using hstart

theorem State.takeHeld_rosters (c : StationConfig) : Keeps RostersMatch (State.takeHeld c) := by
  intro s h
  have hbins := foldl_keepsCondition (P := RostersMatch) (f := fun (u : State) n => u.emptyBin n) State.emptyBin_rosters
    s.part.held.bins s h
  have htray : RostersMatch s.trayTaken := by
    unfold State.trayTaken
    split
    · exact State.emptyTray_rosters _ hbins
    · exact hbins
  rw [State.takeHeld_eq]
  unfold State.sensesTaken
  split
  · exact State.refill_rosters c _ htray
  · exact htray

theorem State.startTestIfFitted_stands (c : StationConfig) (s : State) : RostersStand s (s.startTestIfFitted c) := by
  unfold State.startTestIfFitted
  split <;> simp [RostersStand]

theorem State.checkPockets_rosters (occupied : PocketLevels) : Keeps RostersMatch (State.checkPockets occupied) := fun s h =>
  foldl_keepsCondition (P := RostersMatch) (f := fun (t : State) p => (t.checkPocket p (occupied.get p)).serve)
    (fun _ _ hu => hu.stands (by simp [RostersStand])) PocketId.all (s.onPart fun k => { k with occupied := occupied }) h

theorem State.leaveLoading_stands (c : StationConfig) (s : State) : RostersStand s (s.leaveLoading c) := by
  unfold State.leaveLoading
  split <;> simp [RostersStand]

theorem State.imageRead_rosters (bytes : List Byte) (occupied : PocketLevels) (cartridge : Bool) :
    Keeps RostersMatch (State.imageRead bytes occupied cartridge) := by
  intro s h
  unfold State.imageRead
  split
  · split
    · exact State.failLoading_rosters _ s h
    · next c _ =>
      have hstored := State.checkStore_rosters c cartridge (rostersMatch_iff.1 h).2
      have hequipped := (State.takeHeld_rosters c _ hstored).stands (State.startTestIfFitted_stands c _)
      rw [State.startWith_eq]
      exact (State.checkPockets_rosters occupied _ hequipped).stands (State.leaveLoading_stands c _)
  · exact h

end Sys2Proof.Machine

namespace Sys2Proof.Machine

/-! ### Every command keeps the rosters -/

theorem State.orderOf_rosters (o : OrderKind) : Keeps RostersMatch (State.orderOf o) := by
  intro s h
  cases o with
  | standby => exact h.stands (s.takeOrder_stands _ s.obeyStandby_stands)
  | resume => exact h.stands (s.takeOrder_stands _ (s.obeyResume_stands _))
  | selfTest => exact h.stands (s.takeOrder_stands _ s.obeySelfTest_stands)
  | clearCounters => exact h.stands (s.takeOrder_stands .clearCounters (obey := State.obeyClear) ⟨rfl, rfl, rfl⟩)
  | reboot => exact State.reboot_rosters _ _ s h

theorem rostersMatch_meanings : MeaningsKeep RostersMatch where
  waiting _ _ h := h
  tick := keepsRosters_of_stands State.tick_stands
  powerApplied := State.powerApplied_rosters
  pinActive := State.pinActive_rosters
  pinReleased := State.pinReleased_rosters
  powerLost _ s h := State.cutStore_rosters _ s h
  imageRead := State.imageRead_rosters
  contends m := keepsRosters_of_stands fun s => s.contends_stands m
  frameSpoiled f := keepsRosters_of_stands fun s => s.frameSpoiled_stands f
  received _ h := h
  malformed _ h := h
  echoed _ _ h := h
  takeOffer sender b := keepsRosters_of_stands fun s => s.takeOffer_stands sender b
  takeBidFrom sender b id := keepsRosters_of_stands fun s => s.takeBidFrom_stands sender b id
  takeBidEcho e := keepsRosters_of_stands fun s => s.takeBidEcho_stands e
  takeClose sender id := keepsRosters_of_stands fun s => s.takeClose_stands sender id
  takeWithdraw sender id := keepsRosters_of_stands fun s => s.takeWithdraw_stands sender id
  takeEnd sender id := keepsRosters_of_stands fun s => s.takeEnd_stands sender id
  takeEndEcho e := keepsRosters_of_stands fun s => s.takeEndEcho_stands e
  takeForget sender := keepsRosters_of_stands fun s => s.takeForget_stands sender
  haltEchoed s h _ := h.stands s.haltEchoed_stands
  joinEchoed := keepsRosters_of_stands State.joinEchoed_stands
  holdEchoed _ h := h
  renewHold := keepsRosters_of_stands State.renewHold_stands
  asked a := keepsRosters_of_stands fun s => s.asked_stands a
  reportEchoed e := keepsRosters_of_stands fun s => s.reportEchoed_stands e
  answerEchoed _ h := h
  orderOf := State.orderOf_rosters
  takeResume r := keepsRosters_of_stands fun s => s.takeOrder_stands _ (s.obeyResume_stands r)
  reboot := State.reboot_rosters
  buttonPressed r := keepsRosters_of_stands fun s => s.buttonPressed_stands r
  sheetArrives mark := keepsRosters_of_stands fun s => s.sheetArrives_stands mark
  gapExpires p := keepsRosters_of_stands fun s => s.gapExpires_stands p
  firstSheetExpires p := keepsRosters_of_stands fun s => s.firstSheetExpires_stands p
  strokeCompletes := State.strokeCompletes_rosters
  limitExpires inPhase c := keepsRosters_of_stands fun s => s.limitExpires_stands inPhase c
  noStapleFound := State.noStapleFound_rosters
  headJams := keepsRosters_of_stands State.headJams_stands
  ejectCompletes occupied := keepsRosters_of_stands fun s => s.ejectCompletes_stands occupied
  dropConfirms := State.dropConfirms_rosters
  trayDropConfirms := State.trayDropConfirms_rosters
  referenceRead v := keepsRosters_of_stands fun s => s.referenceRead_stands v
  readingExpires := keepsRosters_of_stands State.readingExpires_stands
  cartridgeShows _ h := h
  refillSensed hold := State.senseRaised_rosters hold State.refill_rosters
  binSensed hold bin := State.senseRaised_rosters hold fun _ => State.emptyBin_rosters bin
  traySensed hold := State.senseRaised_rosters hold fun _ => State.emptyTray_rosters
  pocketJams p := keepsRosters_of_stands fun s => s.pocketJams_stands p
  jamLine _ _ _ h := h

/-- A condition that the halt consequences keep wherever they are taken needs no sound transmit queue beside it. -/
theorem exec_keeps_of_meanings {P : State → Prop} (k : MeaningsKeep P) (hh : Keeps P State.haltEchoed) (c : Instr)
    {s t : State} (hs : P s) (h : exec c s = .next t) : P t := by
  cases c with
  | powerReset => exact Host.Outcome.next.inj h ▸ k.powerApplied _ s hs
  | resetPinActive => exact Host.Outcome.next.inj h ▸ k.pinActive _ s hs
  | resetPinReleased => exact Host.Outcome.next.inj h ▸ k.pinReleased _ s hs
  | lossOfPower => exact Host.Outcome.next.inj h ▸ k.powerLost _ s hs
  | pocketJam => exact Host.Outcome.next.inj h ▸ k.pocketJams _ s hs
  | pocketJamCleared => exact Host.Outcome.next.inj h ▸ k.jamLine _ _ s hs
  | haltEcho => exact event_keeps (k.echo (fun _ => hh) _) h hs
  | imageReadComplete | imageReadTimeout => exact event_keeps (k.imageRead _ _ _) h hs
  | contention => exact event_keeps (k.contends _) h hs
  | spoiledFrame => exact event_keeps (k.frameSpoiled _) h hs
  | malformedFrame f | frameForAnotherMember f => exact event_keeps (k.member (k.handOn f) f) h hs
  | offer => exact event_keeps (k.packFrame (fun _ => k.takeOffer _ _) _ _) h hs
  | bid a =>
    cases a with
    | echo => exact event_keeps (k.echo k.takeBidEcho _) h hs
    | other => exact event_keeps (k.packFrame (k.takeBidFrom _ _) _ _) h hs
  | close => exact event_keeps (k.packFrame (k.takeClose _) _ _) h hs
  | withdraw => exact event_keeps (k.packFrame (k.takeWithdraw _) _ _) h hs
  | delivered a | aside a =>
    cases a with
    | echo => exact event_keeps (k.echo k.takeEndEcho _) h hs
    | other => exact event_keeps (k.packFrame (k.takeEnd _) _ _) h hs
  | halt | join => exact event_keeps (k.member (k.takeForget _) _) h hs
  | joinEcho => exact event_keeps (k.echo (fun _ => k.joinEchoed) _) h hs
  | hold => exact event_keeps (k.member Keeps.id _) h hs
  | holdEcho => exact event_keeps (k.echo (fun _ => k.holdEchoed) _) h hs
  | renewalTimerExpiry => exact event_keeps k.renewHold h hs
  | askSummary | askPack | askPocket | askBin | askHead | askCounters => exact event_keeps (k.ask _ _) h hs
  | reportEcho => exact event_keeps (k.echo k.reportEchoed _) h hs
  | answerEcho => exact event_keeps (k.echo (fun _ => k.answerEchoed) _) h hs
  | orderStandby => exact event_keeps (k.order _ _ (k.orderOf .standby)) h hs
  | orderResume => exact event_keeps (k.order _ _ (k.takeResume _)) h hs
  | orderSelfTest => exact event_keeps (k.order _ _ (k.orderOf .selfTest)) h hs
  | orderClearCounters => exact event_keeps (k.order _ _ (k.orderOf .clearCounters)) h hs
  | orderReboot => exact event_keeps (k.order _ _ (k.reboot _ _)) h hs
  | serviceButton => exact event_keeps (k.buttonPressed _) h hs
  | sheetAtGate => exact event_keeps (k.sheetArrives _) h hs
  | gapTimerExpiry => exact event_keeps (k.gapExpires _) h hs
  | firstSheetTimerExpiry => exact event_keeps (k.firstSheetExpires _) h hs
  | strokeComplete => exact event_keeps (k.strokeCompletes _) h hs
  | strokeLimitExpiry | ejectLimitExpiry | carriageJam | dropLimitExpiry | trayDropLimitExpiry =>
    exact event_keeps (k.limitExpires _ _) h hs
  | noStaple => exact event_keeps k.noStapleFound h hs
  | headJam => exact event_keeps k.headJams h hs
  | ejectComplete => exact event_keeps (k.ejectCompletes _) h hs
  | dropConfirmed => exact event_keeps k.dropConfirms h hs
  | trayDropConfirmed => exact event_keeps (k.trayDropConfirms _) h hs
  | referenceReading => exact event_keeps (k.referenceRead _) h hs
  | readingLimitExpiry => exact event_keeps k.readingExpires h hs
  | cartridgeInserted =>
    exact event_keeps (f := fun u => State.senseRaised _ _ u.cartridgeShows)
      (fun u hu => k.refillSensed _ _ (k.cartridgeShows u hu)) h hs
  | binEmptied => exact event_keeps (k.binSensed _ _) h hs
  | trayEmptied => exact event_keeps (k.traySensed _) h hs

/-- Settles O58: a bin's fill and roster change together, at a drop and at an emptying; the store takes the bins as they stand,
and a start takes them back only for a rack of the same size. -/
theorem rostersStayEqualToTheFills : Obligations.RostersStayEqualToTheFills := by
  intro s t hs h
  unfold step at h
  split at h
  · obtain rfl := Host.Outcome.next.inj h
    exact rostersMatch_meanings.tick s hs
  · next c rest _ =>
    exact exec_keeps_of_meanings rostersMatch_meanings (keepsRosters_of_stands State.haltEchoed_stands) c
      (s := s.withPending rest) hs h

end Sys2Proof.Machine

namespace Sys2Proof.Machine

open Sys2Proof.Config

/-! ### The match of one entry (R123 to R125) -/

/-- The aligned group of the bound holds the rolls with the bound's quotient (R125). -/
theorem rollInRange_block {before : Option MapEntry} {e : MapEntry} (h : e.mode = .block) (roll : Nat) :
    rollInRange before e roll = true ↔ roll / 2 ^ e.exponent = e.rollBound / 2 ^ e.exponent := by
  have hpos : 0 < 2 ^ e.exponent := Nat.two_pow_pos _
  unfold rollInRange
  rw [Nat.div_eq_iff hpos, Nat.add_sub_assoc hpos, h]
  exact decide_eq_true_iff

theorem mapMatches_iff (before : Option MapEntry) (e : MapEntry) (classCode roll : Nat) :
    mapMatches before e classCode roll = true ↔
      e.classCode = classCode ∧
        match e.mode with
        | .off => False
        | .single => roll = e.rollBound
        | .upto => uptoLower before e ≤ roll ∧ roll ≤ e.rollBound
        | .block => roll / 2 ^ e.exponent = e.rollBound / 2 ^ e.exponent := by
  rw [mapMatches, Bool.and_eq_true, decide_eq_true_iff]
  refine and_congr_right fun _ => ?_
  cases hm : e.mode with
  | block => exact rollInRange_block hm roll
  | off | single | upto => simp [rollInRange, hm]

/-! ### The first match (R126) -/

/-- The entry ahead of position `n` of a map, `before` standing ahead of its first. -/
def entryBefore (before : Option MapEntry) (map : List MapEntry) (n : Nat) : Option MapEntry :=
  if n = 0 then before else map[n - 1]?

@[simp] theorem entryBefore_zero (before : Option MapEntry) (map : List MapEntry) : entryBefore before map 0 = before := rfl

@[simp] theorem entryBefore_cons_succ (before : Option MapEntry) (x : MapEntry) (rest : List MapEntry) (n : Nat) :
    entryBefore before (x :: rest) (n + 1) = entryBefore (some x) rest n := by
  cases n <;> rfl

/-- The entry at position `n`, should there be one, does not match. -/
def MissesAt (classCode roll : Nat) (before : Option MapEntry) (map : List MapEntry) (n : Nat) : Prop :=
  ∀ x, map[n]? = some x → mapMatches (entryBefore before map n) x classCode roll = false

section FirstMatch

variable {classCode roll : Nat} {before : Option MapEntry} {x : MapEntry} {rest : List MapEntry}

@[simp] theorem missesAt_nil (n : Nat) : MissesAt classCode roll before [] n := nofun

@[simp] theorem missesAt_cons_zero :
    MissesAt classCode roll before (x :: rest) 0 ↔ mapMatches before x classCode roll = false := by
  simp [MissesAt]

@[simp] theorem missesAt_cons_succ (n : Nat) :
    MissesAt classCode roll before (x :: rest) (n + 1) ↔ MissesAt classCode roll (some x) rest n := by
  simp [MissesAt]

theorem lookupFrom_eq_none_iff (map : List MapEntry) (before : Option MapEntry) :
    lookupFrom classCode roll before map = none ↔ ∀ n, MissesAt classCode roll before map n := by
  induction map generalizing before with
  | nil => simp [lookupFrom]
  | cons x rest ih =>
    rw [← Nat.and_forall_add_one, missesAt_cons_zero, lookupFrom]
    simp only [missesAt_cons_succ, ← ih]
    cases mapMatches before x classCode roll <;> simp

theorem lookupFrom_eq_some_iff (map : List MapEntry) (before : Option MapEntry) (e : MapEntry) :
    lookupFrom classCode roll before map = some e ↔
      ∃ n, map[n]? = some e ∧ mapMatches (entryBefore before map n) e classCode roll = true ∧
        ∀ k < n, MissesAt classCode roll before map k := by
  induction map generalizing before with
  | nil => simp [lookupFrom]
  | cons x rest ih =>
    rw [lookupFrom]
    cases hx : mapMatches before x classCode roll with
    | true =>
      rw [if_pos rfl, Option.some.injEq]
      refine ⟨fun he => ⟨0, congrArg some he, he ▸ hx, nofun⟩, fun ⟨n, hn, _, hmiss⟩ => ?_⟩
      cases n with
      | zero => exact Option.some.inj hn
      | succ n => exact absurd (hx.symm.trans (missesAt_cons_zero.1 (hmiss 0 n.succ_pos))) nofun
    | false =>
      rw [if_neg Bool.false_ne_true, ih]
      refine ⟨fun ⟨n, hn, he, hmiss⟩ => ⟨n + 1, hn, by simpa using he, fun k hk => ?_⟩,
        fun ⟨n, hn, he, hmiss⟩ => ?_⟩
      · cases k with
        | zero => exact missesAt_cons_zero.2 hx
        | succ k => exact (missesAt_cons_succ k).2 (hmiss k (Nat.lt_of_succ_lt_succ hk))
      · cases n with
        | zero =>
          obtain rfl := Option.some.inj hn
          exact absurd (hx.symm.trans he) nofun
        | succ n =>
          exact ⟨n, hn, by simpa using he, fun k hk => (missesAt_cons_succ k).1 (hmiss (k + 1) (Nat.succ_lt_succ hk))⟩

end FirstMatch

/-- Settles O54: an entry's match by its mode, and the walk over the map, which hands each entry the one before it. -/
theorem firstMatchingMapEntryIsTheLookup : Obligations.FirstMatchingMapEntryIsTheLookup := by
  refine ⟨mapMatches_iff, fun map classCode roll e => ⟨?_, ?_⟩⟩
  · refine (lookupFrom_eq_some_iff map none e).trans (exists_congr fun n => ?_)
    exact and_congr_right fun _ => and_congr_right fun _ => forall_congr' fun k => forall_comm
  · exact lookupFrom_eq_none_iff map none

end Sys2Proof.Machine

namespace Sys2Proof.Machine

/-! ### The transmit queue (R141, R165, R168, R169, R172) -/

/-- Settles O57: the half second of an empty queue leaves the link, and each command keeps the transmit queue sound. -/
theorem transmitQueueStaysOrdered : Obligations.TransmitQueueStaysOrdered := by
  intro s t hs h
  cases hp : s.pending with
  | nil =>
    obtain rfl := Host.Outcome.next.inj ((step_empty hp).symm.trans h)
    exact keepsTransmit_of (fun _ _ => tick_keepsLink) s hs
  | cons c rest =>
    simp only [step, hp] at h
    exact exec_keepsTransmit c (s := s.withPending rest) hs h

/-! ### A spoiled received frame (R166, R171) -/

/-- The station with a spoiled received frame counted, before the run that reaches 16 is taken as a loss of the link: damaged here,
both counters rise and the receive run goes on; damaged elsewhere, one counter rises and the run ends. -/
def State.spoilCounted (r : Reception) (s : State) : State :=
  if receptionDamaged r then
    ((s.count .spoiledSeen).count .spoiledHere).onLink fun l => { l with recvRun := min 16 (s.link.recvRun + 1) }
  else (s.count .spoiledSeen).onLink fun l => { l with recvRun := 0 }

theorem State.spoilCounted_eq (r : Reception) (s : State) :
    s.spoilCounted r =
      { s with
        ctl :=
          { s.ctl with
            counters :=
              if receptionDamaged r then (s.ctl.counters.bump .spoiledSeen).bump .spoiledHere
              else s.ctl.counters.bump .spoiledSeen }
        link :=
          { s.link with recvRun := if receptionDamaged r then min 16 (s.link.recvRun + 1) else 0 } } := by
  unfold State.spoilCounted
  split <;> rfl

/-- A run of 0 is short of 16, so only a frame damaged here can lose the link. -/
theorem State.receivedSpoiled_eq (r : Reception) (s : State) :
    s.receivedSpoiled r =
      if (s.spoilCounted r).link.recvRun = 16 then (s.spoilCounted r).linkLoss else s.spoilCounted r := by
  cases hd : receptionDamaged r with
  | true =>
    simp only [State.receivedSpoiled, State.spoilCounted, hd, if_true]
    rfl
  | false => simp [State.receivedSpoiled, State.spoilCounted, hd, State.onLink]

theorem exec_receivedSpoiled (r : Reception) {s : State} (hu : s.unitActive = true) :
    exec (.spoiledFrame (.received r)) s =
      .next (if (s.spoilCounted r).link.recvRun = 16 then (s.spoilCounted r).linkLoss else s.spoilCounted r) := by
  have hspoiled : s.frameSpoiled (.received r) = s.receivedSpoiled r := by simp only [State.frameSpoiled, hu, if_true]
  rw [← State.receivedSpoiled_eq, ← hspoiled]
  exact event_running (State.running_of_unitActive hu)

/-- Settles O14: the damage test is R166's, and the run that reaches 16 is a loss of the link. -/
theorem spoiledReceivedFrameMovesTheReceiveRun : Obligations.SpoiledReceivedFrameMovesTheReceiveRun := by
  refine ⟨receptionDamaged_iff, fun r k run s u hu hk hrun huv => ?_⟩
  have hcounted : s.spoilCounted r = u := by rw [State.spoilCounted_eq, ← hk, ← hrun, huv]
  have hrecv : u.link.recvRun = run := by rw [huv]
  have hstation : u.ctl.station = s.ctl.station := by rw [huv]
  have hexec := exec_receivedSpoiled r hu
  rw [hcounted, hrecv] at hexec
  obtain ⟨hlost, hsafe, hloading⟩ := u.linkLoss_spec
  rw [hstation] at hlost hsafe hloading
  refine ⟨_, hexec, fun hn => if_neg hn, fun h16 => ?_, fun h16 => ?_, fun h16 => ?_⟩ <;> rw [if_pos h16]
  · exact hlost
  · exact hsafe
  · exact hloading

end Sys2Proof.Machine

namespace Sys2Proof.Machine

open Sys2Proof.Config

/-! ### A HOLD on the link (R155, R158, R161) -/

/-- A HOLD with a hold time of 1 to 30 s is well formed (R163, R164). -/
theorem frameWellFormed_hold {sender : LinkAddress} {time : Byte} {s : State} (h : FromStation sender s)
    (hlo : 1 ≤ time.toNat) (hhi : time.toNat ≤ 30) : frameWellFormed s.address (holdFrame sender time) = true := by
  obtain ⟨-, hfirst, hlast, hother⟩ := h
  have hsender : FrameKind.hold.sentBy sender.toNat = true := by simp [FrameKind.sentBy, isStation, hfirst, hlast]
  have htime : FrameKind.hold.bodyAllowed [time] = true := decide_eq_true ⟨hlo, hhi⟩
  exact (frameWellFormed_frameOf _ _ _ _ _).2 ⟨hsender, rfl, rfl, htime, hother⟩

/-- Another station's HOLD is received, and nothing is done with it (R161). -/
theorem exec_hold_other {sender : LinkAddress} {time : Byte} {s : State} (h : FromStation sender s)
    (hlo : 1 ≤ time.toNat) (hhi : time.toNat ≤ 30) : exec (.hold sender time) s = .next s.received :=
  (event_running (State.running_of_unitActive h.1)).trans
    (congrArg _ (State.fromMember_heard id h.1 (frameWellFormed_hold h hlo hhi)))

theorem exec_holdEcho {e : TxEntry} {time : Nat} {s : State} (h : Echoes e s) (hf : e.frame = .hold time) :
    exec .holdEcho s = .next (s.echoed e).holdEchoed :=
  (event_running (State.running_of_unitActive h.1)).trans (congrArg _ (State.echo_heard _ h (by rw [hf]; rfl)))

/-- Settles O32: the echo comes to R158 on the state whose queue the frame has left, and another station's HOLD to R161. -/
theorem holdActsAtItsOwnEchoAlone : Obligations.HoldActsAtItsOwnEchoAlone :=
  ⟨fun _ _ _ he hf => exec_holdEcho he hf, fun _ _ _ hs hlo hhi => exec_hold_other hs hlo hhi⟩

/-! ### The renewal point (R156, R159) -/

theorem StationState.holds_iff {st : StationState} :
    st.holds = true ↔ st = .joining ∨ st = .run ∨ st = .drain ∨ st = .standby := by
  cases st <;> simp [StationState.holds]

theorem StationState.not_safe_of_holds {st : StationState} (h : st.holds = true) : st ≠ .safe := by
  rintro rfl
  exact absurd h nofun

/-- An append changes the link alone (R168, R172). -/
theorem State.append_eq (f : TxFrame) (s : State) : s.append f = { s with link := (s.append f).link } := by
  unfold State.append
  split <;> rfl

section RenewalPoint

variable {s : State} (hst : s.ctl.station.holds = true) (hactive : s.ctl.hold.active = true)
  (htimer : s.ctl.hold.timer ≠ none)
include hst hactive htimer

/-- With the condition true the hold is renewed: a HOLD joins the queue, and the hold stays ACTIVE with its timer stopped. -/
theorem State.renewHold_renewed (hcond : s.holdCondition = true) :
    s.renewHold =
      { s with
        ctl := { s.ctl with hold := { active := true, queued := true, timer := none } }
        link := (s.append (.hold s.cfg.holdTime)).link } := by
  have hpoint := And.intro hst (And.intro hactive (Option.isSome_iff_ne_none.2 htimer))
  rw [State.renewHold, if_pos hpoint, if_pos hcond, State.append_eq]
  simp [State.onCtl, hactive]

/-- With the condition false the hold lapses, and nothing is queued. -/
theorem State.renewHold_lapsed (hcond : ¬s.holdCondition = true) : s.renewHold = s.endHold := by
  have hpoint := And.intro hst (And.intro hactive (Option.isSome_iff_ne_none.2 htimer))
  rw [State.renewHold, if_pos hpoint, if_neg hcond]

end RenewalPoint

/-- Settles O33: by the hold condition at the expiry; a hold state is not SAFE, where the HOLD would be refused. -/
theorem renewalPointRenewsOrLapses : Obligations.RenewalPointRenewsOrLapses := by
  refine fun s => ⟨StationState.holds_iff, s.holdCondition_iff, fun hr hst hactive htimer => ?_⟩
  have hexec : exec .renewalTimerExpiry s = .next s.renewHold := event_running hr
  rw [hexec, ← s.holdCondition_iff]
  refine ⟨fun hcond => ⟨_, rfl, ?_⟩, fun hcond => congrArg _ (State.renewHold_lapsed hst hactive htimer hcond)⟩
  rw [State.renewHold_renewed hst hactive htimer hcond]
  exact ⟨rfl, State.append_queued _ (StationState.not_safe_of_holds hst)⟩

end Sys2Proof.Machine

namespace Sys2Proof.Machine

open Sys2Proof.Config

/-! ### The rows of the frame table (R164, R173) -/

theorem FrameKind.ofCode_eq_some {c : BitVec 4} {k : FrameKind} : FrameKind.ofCode c = some k ↔ c = k.code := by
  refine ⟨?_, fun h => h ▸ k.ofCode_code⟩
  cases k <;> revert c <;> decide

theorem FrameKind.exists_iff {P : FrameKind → Prop} :
    (∃ k, P k) ↔
      P .offer ∨ P .bid ∨ P .close ∨ P .withdraw ∨ P .delivered ∨ P .aside ∨ P .halt ∨ P .join ∨ P .hold ∨ P .ask ∨
        P .order ∨ P .report ∨ P .answer := by
  constructor
  · rintro ⟨k, hk⟩
    cases k <;> simp only [hk, true_or, or_true]
  · rintro (h | h | h | h | h | h | h | h | h | h | h | h | h) <;> exact ⟨_, h⟩

/-- A body passes the length and content checks of a kind (R173). -/
def FrameKind.takesBody (k : FrameKind) (body : List Byte) : Prop :=
  k.lengthAllowed body = true ∧ k.bodyAllowed body = true

/-- A frame passes the checks of R173 as a frame of a kind, but for the last one, that its sender is not the station itself. -/
def FrameKind.Passes (k : FrameKind) (f : Frame) : Prop :=
  f.kind = k.code ∧ f.precedence = BitVec.ofNat 4 k.precedence ∧ k.sentBy f.sender.toNat = true ∧
    k.sentTo f.target.toNat = true ∧ k.takesBody f.body

theorem FrameKind.Passes.eq_frameOf {k : FrameKind} {f : Frame} (h : k.Passes f) :
    f = frameOf k f.sender f.target f.body := by
  obtain ⟨hkind, hprec, -⟩ := h
  rw [frameOf, ← hkind, ← hprec]

/-- A frame that passes has the kind code and precedence of its kind, so `frameWellFormed_frameOf` gives the checks left. -/
theorem frameWellFormed_iff {own : Nat} {f : Frame} :
    frameWellFormed own f = true ↔ f.sender.toNat ≠ own ∧ ∃ k : FrameKind, k.Passes f := by
  constructor
  · intro h
    cases hk : FrameKind.ofCode f.kind with
    | none => simp [frameWellFormed, hk] at h
    | some k =>
      simp only [frameWellFormed, hk, Bool.and_eq_true, decide_eq_true_iff] at h
      obtain ⟨-, ⟨⟨⟨⟨hprec, hsender⟩, htarget⟩, hlength⟩, hbody⟩, hown⟩ := h
      have hprecedence : f.precedence = BitVec.ofNat 4 k.precedence :=
        BitVec.eq_of_toNat_eq (hprec.trans k.precedence_toNat.symm)
      exact ⟨hown, k, FrameKind.ofCode_eq_some.1 hk, hprecedence, hsender, htarget, hlength, hbody⟩
  · rintro ⟨hown, k, h⟩
    rw [h.eq_frameOf]
    obtain ⟨-, -, hsender, htarget, hlength, hbody⟩ := h
    exact (frameWellFormed_frameOf _ _ _ _ _).2 ⟨hsender, htarget, hlength, hbody, hown⟩

theorem LinkAddress.toNat_eq_iff {a : LinkAddress} {n : Nat} (hn : n < 32) : a.toNat = n ↔ a = BitVec.ofNat 5 n := by
  rw [← BitVec.toNat_inj, BitVec.toNat_ofNat, Nat.mod_eq_of_lt hn]

section Rows

variable {k : FrameKind} {f : Frame} {B : Prop} (hb : k.takesBody f.body ↔ B)
include hb

theorem FrameKind.passes_feedToAll (hk : k = .offer ∨ k = .close) :
    k.Passes f ↔
      f.kind = k.code ∧ f.precedence = BitVec.ofNat 4 k.precedence ∧ 16 ≤ f.sender.toNat ∧ f.sender.toNat ≤ 19 ∧
        f.target = 31 ∧ B := by
  have htarget := LinkAddress.toNat_eq_iff (a := f.target) (n := 31) (by decide)
  rw [FrameKind.Passes, hb]
  rcases hk with rfl | rfl <;> simp [FrameKind.sentBy, FrameKind.sentTo, isFeed, htarget, and_assoc]

theorem FrameKind.passes_stationToAll
    (hk : k = .bid ∨ k = .delivered ∨ k = .aside ∨ k = .halt ∨ k = .join ∨ k = .hold) :
    k.Passes f ↔
      f.kind = k.code ∧ f.precedence = BitVec.ofNat 4 k.precedence ∧ 1 ≤ f.sender.toNat ∧ f.sender.toNat ≤ 8 ∧
        f.target = 31 ∧ B := by
  have htarget := LinkAddress.toNat_eq_iff (a := f.target) (n := 31) (by decide)
  rw [FrameKind.Passes, hb]
  rcases hk with rfl | rfl | rfl | rfl | rfl | rfl <;>
    simp [FrameKind.sentBy, FrameKind.sentTo, isStation, htarget, and_assoc]

theorem FrameKind.passes_consoleToStation (hk : k = .ask ∨ k = .order) :
    k.Passes f ↔
      f.kind = k.code ∧ f.precedence = BitVec.ofNat 4 k.precedence ∧ f.sender = 30 ∧ 1 ≤ f.target.toNat ∧
        f.target.toNat ≤ 8 ∧ B := by
  have hsender := LinkAddress.toNat_eq_iff (a := f.sender) (n := 30) (by decide)
  rw [FrameKind.Passes, hb]
  rcases hk with rfl | rfl <;> simp [FrameKind.sentBy, FrameKind.sentTo, isStation, hsender, and_assoc]

theorem FrameKind.passes_stationToConsole (hk : k = .report ∨ k = .answer) :
    k.Passes f ↔
      f.kind = k.code ∧ f.precedence = BitVec.ofNat 4 k.precedence ∧ 1 ≤ f.sender.toNat ∧ f.sender.toNat ≤ 8 ∧
        f.target = 30 ∧ B := by
  have htarget := LinkAddress.toNat_eq_iff (a := f.target) (n := 30) (by decide)
  rw [FrameKind.Passes, hb]
  rcases hk with rfl | rfl <;> simp [FrameKind.sentBy, FrameKind.sentTo, isStation, htarget, and_assoc]

end Rows

theorem FrameKind.passes_withdraw {f : Frame} :
    FrameKind.withdraw.Passes f ↔
      f.kind = 4 ∧ f.precedence = 6 ∧ (16 ≤ f.sender.toNat ∧ f.sender.toNat ≤ 19 ∨ f.sender = 30) ∧ f.target = 31 ∧
        f.body.length = 3 := by
  have hsender := LinkAddress.toNat_eq_iff (a := f.sender) (n := 30) (by decide)
  have htarget := LinkAddress.toNat_eq_iff (a := f.target) (n := 31) (by decide)
  simp [FrameKind.Passes, FrameKind.takesBody, FrameKind.code, FrameKind.precedence, FrameKind.sentBy, FrameKind.sentTo,
    FrameKind.lengthAllowed, FrameKind.bodyAllowed, isFeed, hsender, htarget]

section Bodies

variable {body : List Byte}

/-- A kind whose body is checked for its length alone (R173). -/
theorem FrameKind.takesBody_iff_length {k : FrameKind} {n : Nat} (hl : k.lengthAllowed body = decide (body.length = n))
    (hc : k.bodyAllowed body = true) : k.takesBody body ↔ body.length = n := by
  rw [FrameKind.takesBody, hl, hc, decide_eq_true_iff, and_iff_left rfl]

theorem FrameKind.takesBody_report : FrameKind.report.takesBody body ↔ 1 ≤ body.length ∧ body.length ≤ 80 := by
  simp [FrameKind.takesBody, FrameKind.lengthAllowed, FrameKind.bodyAllowed]

/-- A kind with a body of one byte from 1 to `hi` (R164, R173). -/
theorem FrameKind.takesBody_iff_byte {k : FrameKind} {hi : Nat} (hl : k.lengthAllowed body = decide (body.length = 1))
    (hc : k.bodyAllowed body = decide (1 ≤ (body.headD 0).toNat ∧ (body.headD 0).toNat ≤ hi)) :
    k.takesBody body ↔ ∃ b : Byte, body = [b] ∧ 1 ≤ b.toNat ∧ b.toNat ≤ hi := by
  rw [FrameKind.takesBody, hl, hc, decide_eq_true_iff, decide_eq_true_iff, List.length_eq_one_iff]
  constructor
  · rintro ⟨⟨b, rfl⟩, hb⟩
    exact ⟨b, rfl, hb⟩
  · rintro ⟨b, rfl, hb⟩
    exact ⟨⟨b, rfl⟩, hb⟩

/-- The six ask kinds; the kind fixes the length (R175). -/
theorem knownAsk_iff {b : Byte} : knownAsk b = true ↔ b = 1 ∨ b = 2 ∨ b = 3 ∨ b = 4 ∨ b = 5 ∨ b = 6 := by
  rw [knownAsk, decide_eq_true_iff]
  constructor
  · intro h
    bv_omega
  · rintro (rfl | rfl | rfl | rfl | rfl | rfl) <;> decide

theorem FrameKind.takesBody_ask :
    FrameKind.ask.takesBody body ↔
      body = [1] ∨ (∃ a b c : Byte, body = [2, a, b, c]) ∨ (∃ n : Byte, body = [3, n] ∨ body = [4, n]) ∨ body = [5] ∨
        body = [6] := by
  constructor
  · rintro ⟨hl, hk⟩
    cases body with
    | nil => exact absurd hk (by decide)
    | cons k rest =>
      have hlength : rest.length + 1 = askLength k := of_decide_eq_true hl
      rcases knownAsk_iff.1 hk with rfl | rfl | rfl | rfl | rfl | rfl
      · obtain rfl := List.length_eq_zero_iff.1 (Nat.succ.inj hlength)
        exact .inl rfl
      · obtain ⟨a, b, c, rfl⟩ := List.length_eq_three.1 (Nat.succ.inj hlength)
        exact .inr (.inl ⟨a, b, c, rfl⟩)
      · obtain ⟨n, rfl⟩ := List.length_eq_one_iff.1 (Nat.succ.inj hlength)
        exact .inr (.inr (.inl ⟨n, .inl rfl⟩))
      · obtain ⟨n, rfl⟩ := List.length_eq_one_iff.1 (Nat.succ.inj hlength)
        exact .inr (.inr (.inl ⟨n, .inr rfl⟩))
      · obtain rfl := List.length_eq_zero_iff.1 (Nat.succ.inj hlength)
        exact .inr (.inr (.inr (.inl rfl)))
      · obtain rfl := List.length_eq_zero_iff.1 (Nat.succ.inj hlength)
        exact .inr (.inr (.inr (.inr rfl)))
  · rintro (rfl | ⟨a, b, c, rfl⟩ | ⟨n, rfl | rfl⟩ | rfl | rfl) <;> exact ⟨rfl, rfl⟩

end Bodies

/-- Settles O16: a frame passes the checks as a frame of some kind, and the kinds are taken row by row, by who sends them to whom. -/
theorem wellFormedFrameAgreesWithItsTable : Obligations.WellFormedFrameAgreesWithItsTable := by
  intro own f
  rw [frameWellFormed_iff, FrameKind.exists_iff]
  have offer := FrameKind.passes_feedToAll (k := .offer) (f := f) (FrameKind.takesBody_iff_length rfl rfl) (by simp)
  have bid := FrameKind.passes_stationToAll (k := .bid) (f := f) (FrameKind.takesBody_iff_length rfl rfl) (by simp)
  have close := FrameKind.passes_feedToAll (k := .close) (f := f) (FrameKind.takesBody_iff_length rfl rfl) (by simp)
  have delivered :=
    FrameKind.passes_stationToAll (k := .delivered) (f := f) (FrameKind.takesBody_iff_length rfl rfl) (by simp)
  have aside := FrameKind.passes_stationToAll (k := .aside) (f := f) (FrameKind.takesBody_iff_length rfl rfl) (by simp)
  have halt := FrameKind.passes_stationToAll (k := .halt) (f := f) (FrameKind.takesBody_iff_length rfl rfl) (by simp)
  have join := FrameKind.passes_stationToAll (k := .join) (f := f) (FrameKind.takesBody_iff_length rfl rfl) (by simp)
  have hold := FrameKind.passes_stationToAll (k := .hold) (f := f) (FrameKind.takesBody_iff_byte rfl rfl) (by simp)
  have ask := FrameKind.passes_consoleToStation (k := .ask) (f := f) FrameKind.takesBody_ask (by simp)
  have order := FrameKind.passes_consoleToStation (k := .order) (f := f) (FrameKind.takesBody_iff_byte rfl rfl) (by simp)
  have report := FrameKind.passes_stationToConsole (k := .report) (f := f) FrameKind.takesBody_report (by simp)
  have answer :=
    FrameKind.passes_stationToConsole (k := .answer) (f := f) (FrameKind.takesBody_iff_length rfl rfl) (by simp)
  exact and_congr_right fun _ =>
    or_congr offer <| or_congr bid <| or_congr close <| or_congr FrameKind.passes_withdraw <| or_congr delivered <|
      or_congr aside <| or_congr halt <| or_congr join <| or_congr hold <| or_congr ask <| or_congr order <|
      or_congr report answer

end Sys2Proof.Machine

namespace Sys2Proof.Machine

open Sys2Proof.Config

/-! ### Frames of another member that are counted or dropped (R171, R173, R174) -/

theorem State.unitActive_iff {s : State} :
    s.unitActive = true ↔ s.running = true ∧ 1 ≤ s.address ∧ s.address ≤ 8 := by
  rw [State.unitActive, Bool.and_eq_true, decide_eq_true_iff]

theorem exec_frameForAnotherMember_eq (f : Frame) (s : State) :
    exec (.frameForAnotherMember f) s = exec (.malformedFrame f) s := rfl

theorem exec_malformedFrame_counted {f : Frame} {s : State} (hu : s.unitActive = true)
    (hf : frameWellFormed s.address f = false) : exec (.malformedFrame f) s = .next (s.received.count .malformed) := by
  have hcounted : s.frameDelivered f = s.received.count .malformed := by
    simp [State.frameDelivered, State.fromMember, hu, hf]
  rw [← hcounted]
  exact event_running (State.running_of_unitActive hu)

theorem exec_malformedFrame_heard {f : Frame} {s : State} (hu : s.unitActive = true)
    (hf : frameWellFormed s.address f = true) : exec (.malformedFrame f) s = .next (s.received.handOn f) :=
  (event_running (State.running_of_unitActive hu)).trans (congrArg _ (State.fromMember_heard _ hu hf))

theorem State.forThisStation_elsewhere {s : State} {target : LinkAddress} (handOn : State → State)
    (h : target.toNat ≠ s.address) : s.forThisStation target handOn = s := if_neg h

theorem FrameKind.code_injective : Function.Injective FrameKind.code := fun k l h =>
  Option.some.inj (k.ofCode_code.symm.trans ((congrArg FrameKind.ofCode h).trans l.ofCode_code))

/-- No block takes a REPORT or an ANSWER of another station (R174). -/
theorem State.handOn_toConsole {f : Frame} {k : FrameKind} (s : State) (hk : k = .report ∨ k = .answer)
    (hf : f.kind = k.code) : s.handOn f = s := by
  have hcode := FrameKind.ofCode_eq_some.2 hf
  rcases hk with rfl | rfl <;> simp [State.handOn, hcode]

/-- A well-formed frame is a frame of some kind, with its precedence and a body of it (R164, R173). -/
theorem exists_frameOf_of_wellFormed {own : Nat} {f : Frame} (h : frameWellFormed own f = true) :
    ∃ (k : FrameKind) (sender target : LinkAddress) (body : List Byte),
      f = frameOf k sender target body ∧ k.takesBody body := by
  obtain ⟨-, k, hk⟩ := frameWellFormed_iff.1 h
  have hf := hk.eq_frameOf
  obtain ⟨-, -, -, -, hbody⟩ := hk
  exact ⟨k, f.sender, f.target, f.body, hf, hbody⟩

theorem State.handOn_elsewhere {k : FrameKind} {sender target : LinkAddress} {body : List Byte} {s : State}
    (hk : k = .ask ∨ k = .order) (hb : k.takesBody body) (ht : target.toNat ≠ s.address) :
    s.handOn (frameOf k sender target body) = s := by
  rcases hk with rfl | rfl
  · rcases FrameKind.takesBody_ask.1 hb with rfl | ⟨a, b, c, rfl⟩ | ⟨n, rfl | rfl⟩ | rfl | rfl <;>
      exact State.forThisStation_elsewhere _ ht
  · obtain ⟨o, rfl, -⟩ := (FrameKind.takesBody_iff_byte (k := .order) rfl rfl).1 hb
    simp only [State.handOn, frameOf, FrameKind.ofCode_code]
    cases readOrder o with
    | none => rfl
    | some o => exact State.forThisStation_elsewhere _ ht

/-- What R174 keeps from every block: a frame to the console, and a frame to another station. -/
theorem State.handOn_dropped {f : Frame} {s : State} (hf : frameWellFormed s.address f = true)
    (hd : f.kind = 12 ∨ f.kind = 13 ∨ ((f.kind = 10 ∨ f.kind = 11) ∧ f.target.toNat ≠ s.address)) : s.handOn f = s := by
  rcases hd with hreport | hanswer | ⟨hkind, ht⟩
  · exact s.handOn_toConsole (.inl rfl) hreport
  · exact s.handOn_toConsole (.inr rfl) hanswer
  · obtain ⟨k, sender, target, body, rfl, hb⟩ := exists_frameOf_of_wellFormed hf
    have hk : k = .ask ∨ k = .order :=
      hkind.imp (fun h => FrameKind.code_injective h) fun h => FrameKind.code_injective h
    exact State.handOn_elsewhere hk hb ht

/-! ### A raw frame acts as the row it spells (R174; log 9) -/

theorem packIdBytes_append (feed hi lo : Byte) (rest : List Byte) :
    packIdBytes { feed := feed, serial := hi ++ lo } ++ rest = feed :: hi :: lo :: rest := by
  have hhi : (hi ++ lo).extractLsb' 8 8 = hi := BitVec.extractLsb'_append_eq_left
  have hlo : (hi ++ lo).extractLsb' 0 8 = lo := BitVec.extractLsb'_append_eq_right
  simp [packIdBytes, hhi, hlo]

theorem FrameKind.target_of_sentToAll {k : FrameKind} {target : LinkAddress} (hk : k.sentTo = fun a => decide (a = 31))
    (h : k.sentTo target.toNat = true) : target = 31 := by
  rw [hk] at h
  exact (LinkAddress.toNat_eq_iff (by decide)).1 (of_decide_eq_true h)

/-- A command of a link row is the frame `g` it spells, handed to `take`. -/
theorem exec_heard_as {c : Instr} {f g : Frame} {take : State → State} {s : State} (hu : s.unitActive = true)
    (hf : frameWellFormed s.address f = true) (hc : exec c s = event (State.fromMember g take) s) (hg : g = f)
    (ht : take s.received = s.received.handOn f) : exec c s = .next (s.received.handOn f) := by
  subst hg
  rw [hc, event_running (State.running_of_unitActive hu), State.fromMember_heard _ hu hf, ht]

/-- A frame of a kind sent to all members names target 31, so its row spells it but for the layout of the body (R164). -/
theorem exec_heard_toAll {c : Instr} {k : FrameKind} {sender target : LinkAddress} {body spelled : List Byte}
    {take : State → State} {s : State} (hu : s.unitActive = true)
    (hf : frameWellFormed s.address (frameOf k sender target body) = true) (hk : k.sentTo = fun a => decide (a = 31))
    (hc : exec c s = event (State.fromMember (frameOf k sender 31 spelled) take) s) (hb : spelled = body)
    (ht : take s.received = s.received.handOn (frameOf k sender 31 body)) :
    exec c s = .next (s.received.handOn (frameOf k sender target body)) := by
  obtain ⟨-, hto, -⟩ := (frameWellFormed_frameOf _ _ _ _ _).1 hf
  obtain rfl := FrameKind.target_of_sentToAll hk hto
  exact exec_heard_as hu hf hc (congrArg _ hb) ht

/-- By the kind: the row's frame is this one, and the row's block is the one to which the frame is handed on. -/
theorem Spells.exec_eq {f : Frame} {c : Instr} {s : State} (hu : s.unitActive = true)
    (hf : frameWellFormed s.address f = true) (h : Spells f c s) : exec c s = .next (s.received.handOn f) := by
  obtain ⟨k, sender, target, body, rfl, -⟩ := exists_frameOf_of_wellFormed hf
  cases k with
  | offer =>
    obtain ⟨feed, hi, lo, cls, roll, count, finish, lane, rfl, rfl⟩ := h
    exact exec_heard_toAll hu hf rfl rfl (packIdBytes_append feed hi lo _) rfl
  | bid =>
    obtain ⟨feed, hi, lo, fit, load, rfl, rfl⟩ := h
    exact exec_heard_toAll hu hf rfl rfl (packIdBytes_append feed hi lo _) rfl
  | close =>
    obtain ⟨feed, hi, lo, rfl, rfl⟩ := h
    exact exec_heard_toAll hu hf rfl rfl (packIdBytes_append feed hi lo []) rfl
  | withdraw =>
    obtain ⟨feed, hi, lo, rfl, rfl⟩ := h
    exact exec_heard_toAll hu hf rfl rfl (packIdBytes_append feed hi lo []) rfl
  | delivered =>
    obtain ⟨feed, hi, lo, bin, flags, rfl, rfl⟩ := h
    exact exec_heard_toAll hu hf rfl rfl (packIdBytes_append feed hi lo _) rfl
  | aside =>
    obtain ⟨feed, hi, lo, reason, rfl, rfl⟩ := h
    exact exec_heard_toAll hu hf rfl rfl (packIdBytes_append feed hi lo _) rfl
  | halt =>
    obtain ⟨cause, rfl, rfl⟩ := h
    exact exec_heard_toAll hu hf rfl rfl rfl rfl
  | join =>
    obtain ⟨cause, capabilities, outcome, capacity, rfl, rfl⟩ := h
    exact exec_heard_toAll hu hf rfl rfl rfl rfl
  | hold =>
    obtain ⟨time, rfl, rfl⟩ := h
    exact exec_heard_toAll hu hf rfl rfl rfl rfl
  | ask =>
    obtain ⟨rfl, rfl⟩ | ⟨feed, hi, lo, rfl, rfl⟩ | ⟨n, rfl, rfl⟩ | ⟨n, rfl, rfl⟩ | ⟨rfl, rfl⟩ | ⟨rfl, rfl⟩ := h
    case inr.inl =>
      have hbody := congrArg (List.cons 2) (packIdBytes_append feed hi lo [])
      exact exec_heard_as hu hf rfl (congrArg (frameOf .ask sender target) hbody) rfl
    all_goals exact exec_heard_as hu hf rfl rfl rfl
  | order =>
    obtain ⟨rfl, rfl⟩ | ⟨rfl, rfl⟩ | ⟨rfl, rfl⟩ | ⟨rfl, rfl⟩ | ⟨rfl, st, hst, rfl⟩ := h
    case inr.inr.inr.inr =>
      obtain rfl : s.received.lastStraps = st := by simp [State.lastStraps, State.received, State.onLink, hst]
      exact exec_heard_as hu hf rfl rfl rfl
    all_goals exact exec_heard_as hu hf rfl rfl rfl
  | report => exact h.elim
  | answer => exact h.elim

/-- Settles O15: by the checks of R173, then by R174, which hands on a frame as its row would. -/
theorem receivedFrameIsCountedDroppedOrHandedOn : Obligations.ReceivedFrameIsCountedDroppedOrHandedOn := by
  refine ⟨fun f s hu hf => ?_, fun f s hu hf hd => ?_, fun f c s hu hf hc => ?_, fun s => ⟨State.unitActive_iff, ?_⟩⟩
  · rw [exec_frameForAnotherMember_eq]
    exact and_self_iff.2 (exec_malformedFrame_counted hu hf)
  · have hdropped : s.received.handOn f = s.received := State.handOn_dropped hf hd
    rw [exec_frameForAnotherMember_eq, exec_malformedFrame_heard hu hf, hdropped]
    exact ⟨rfl, rfl⟩
  · rw [exec_frameForAnotherMember_eq, exec_malformedFrame_heard hu hf, hc.exec_eq hu hf]
    exact ⟨rfl, rfl⟩
  · refine ⟨?_, rfl, fun _ => rfl⟩
    unfold State.address
    cases s.part.straps <;> rfl

end Sys2Proof.Machine

namespace Sys2Proof.Machine

open Sys2Proof.Config

/-! ### ORDER REBOOT (R179, R183, R188) -/

/-- A cut-off write touches the check of the retained store alone (R188). -/
theorem State.cutStore_eq (cut : Bool) (s : State) :
    s.cutStore cut =
      { s with store := { s.store with checkMatches := if cut then false else s.store.checkMatches } } := by
  cases cut with
  | false => rfl
  | true => rfl

/-- REBOOT goes past the answer slot: no `takeOrder` stands between the order and the reset (R179). -/
theorem exec_orderReboot {h : ConsoleHeader} {s : State} (st : Straps) (cut : Bool) (hd : Addressed h s) :
    exec (.orderReboot h st cut) s = .next (s.received.reboot st cut) :=
  order_addressed (State.reboot st cut) hd

/-- The reset reads the waiting commands, the part and the store alone: neither the station state nor the answer slot (R183). -/
theorem State.reboot_eq (st : Straps) (cut : Bool) (s : State) :
    s.reboot st cut =
      { State.reset with
        pending := s.pending
        part := { s.part with straps := some st, divert := none }
        ctl := { State.reset.ctl with resetCause := .reboot }
        store := { s.store with checkMatches := if cut then false else s.store.checkMatches } } := by
  rw [State.reboot, State.cutStore_eq]
  rfl

theorem State.reboot_blocksAtReset (st : Straps) (cut : Bool) (s : State) : BlocksAtReset (s.reboot st cut) := by
  rw [State.reboot_eq]
  exact ⟨rfl, rfl, rfl, rfl, rfl, rfl⟩

/-- Settles O8: the order comes to the reset of R183 whatever the station state and the answer slot, and the reset leaves the
part and the store of the state the order met. -/
theorem rebootOrderResetsWhateverTheSlot : Obligations.RebootOrderResetsWhateverTheSlot := by
  intro h st cut s hd
  refine ⟨s.received.reboot st cut, exec_orderReboot st cut hd, s.received.reboot_blocksAtReset st cut, ?_⟩
  rw [State.reboot_eq]
  exact ⟨rfl, rfl, rfl⟩

end Sys2Proof.Machine

namespace Sys2Proof.Machine

open Sys2Proof.Config

/-! ### A step is the front command's effect on the rest of the queue -/

/-- Settles O1: the queue of the state is the command and the rest. -/
theorem frontCommandRunsOnTheRest : Obligations.FrontCommandRunsOnTheRest := fun c rest s =>
  step_front (s := { s with pending := c :: rest }) rfl

/-! ### What the meanings leave of the waiting commands: the link (R165 to R174) -/

/-- An operation leaves the waiting commands alone (log 24). -/
def LeavesQueue (f : State → State) : Prop := ∀ s, (f s).pending = s.pending

@[simp] theorem State.startAttempt_pending (s : State) : s.startAttempt.pending = s.pending := by
  unfold State.startAttempt
  split <;> rfl

@[simp] theorem State.arbitrate_pending (others : List Arbitration) (s : State) :
    (s.arbitrate others).pending = s.pending := by
  unfold State.arbitrate
  (repeat' split) <;> simp

theorem State.contends_pending (m : ContentionMoment) : LeavesQueue (State.contends m) := by
  intro s
  unfold State.contends State.enterContention
  (repeat' split) <;> simp

theorem State.frameSpoiled_pending (f : SpoiledFrame) : LeavesQueue (State.frameSpoiled f) := by
  intro s
  unfold State.frameSpoiled State.ownSpoiled State.receivedSpoiled
  dsimp only
  (repeat' split) <;> simp

/-- A frame of another member leaves the queue where what it is handed on to does. -/
theorem State.fromMember_pending {handOn : State → State} (h : LeavesQueue handOn) (f : Frame) :
    LeavesQueue (State.fromMember f handOn) := fun s =>
  fromMember_keeps (P := fun t => t.pending = s.pending) (fun _ => id) (fun _ => id)
    (fun t ht => (h t).trans ht) f s rfl

theorem State.echo_pending {handOn : TxEntry → State → State} (h : ∀ e, LeavesQueue (handOn e))
    (isKind : TxFrame → Bool) : LeavesQueue (State.echo isKind handOn) := fun s =>
  echo_keeps (P := fun t => t.pending = s.pending) (fun _ => id) (fun _ => id) (fun _ _ => id)
    (fun e t ht => (h e t).trans ht) isKind s rfl

theorem State.withPack_pending {take : PackId → State → State} (h : ∀ id, LeavesQueue (take id)) (w : WirePackId) :
    LeavesQueue (State.withPack w take) := fun s =>
  withPack_keeps (P := fun t => t.pending = s.pending) (fun _ => id) (fun id t ht => (h id t).trans ht) w s rfl

theorem State.forThisStation_pending {handOn : State → State} (h : LeavesQueue handOn) (target : LinkAddress) :
    LeavesQueue (State.forThisStation target handOn) := fun s =>
  forThisStation_keeps (P := fun t => t.pending = s.pending) (fun t ht => (h t).trans ht) target s rfl

theorem State.packFrame_pending {take : PackId → State → State} (h : ∀ id, LeavesQueue (take id)) (f : Frame)
    (w : WirePackId) : LeavesQueue (State.fromMember f (State.withPack w take)) :=
  State.fromMember_pending (State.withPack_pending h w) f

/-! ### What the meanings leave of the waiting commands: the pack table (R8 to R18, R79, R189) -/

theorem State.takeOffer_pending (sender : Nat) (b : OfferBody) : LeavesQueue (State.takeOffer sender b) := by
  intro s
  unfold State.takeOffer State.enterOffer
  (repeat' split) <;> simp

@[simp] theorem State.takeBid_pending (sender : Nat) (mine : Bool) (fit load : Nat) (id : PackId) (s : State) :
    (s.takeBid sender mine fit load id).pending = s.pending := by
  unfold State.takeBid State.recordBid State.bidSent
  dsimp only
  (repeat' split) <;> simp

theorem State.takeBidFrom_pending (sender : Nat) (b : BidBody) (id : PackId) :
    LeavesQueue (State.takeBidFrom sender b id) := by
  intro s
  unfold State.takeBidFrom
  split <;> simp

theorem State.takeBidEcho_pending (e : TxEntry) : LeavesQueue (State.takeBidEcho e) := by
  intro s
  unfold State.takeBidEcho
  (repeat' split) <;> simp

@[simp] theorem State.resolvePlaced_pending (id : PackId) (owner : Nat) (s : State) :
    (s.resolvePlaced id owner).pending = s.pending := by
  unfold State.resolvePlaced State.placeEntry State.commitClaims
  (repeat' split) <;> simp

@[simp] theorem State.resolveRetired_pending (id : PackId) (s : State) : (s.resolveRetired id).pending = s.pending := by
  unfold State.resolveRetired
  (repeat' split) <;> simp

theorem State.takeClose_pending (sender : Nat) (id : PackId) : LeavesQueue (State.takeClose sender id) := by
  intro s
  unfold State.takeClose
  (repeat' split) <;> simp

@[simp] theorem State.withdrawAtOwner_pending (p : PocketId) (s : State) :
    (s.withdrawAtOwner p).pending = s.pending := by
  unfold State.withdrawAtOwner
  (repeat' split) <;> simp

theorem State.takeWithdraw_pending (sender : Nat) (id : PackId) : LeavesQueue (State.takeWithdraw sender id) := by
  intro s
  unfold State.takeWithdraw
  (repeat' split) <;> simp

@[simp] theorem State.freeRetired_pending (p : PocketId) (s : State) : (s.freeRetired p).pending = s.pending := by
  unfold State.freeRetired
  split <;> simp

@[simp] theorem State.takeEnd_pending (sender : Nat) (id : PackId) (s : State) :
    (s.takeEnd sender id).pending = s.pending := by
  unfold State.takeEnd
  (repeat' split) <;> simp

theorem State.takeEndEcho_pending (e : TxEntry) : LeavesQueue (State.takeEndEcho e) := by
  intro s
  unfold State.takeEndEcho
  (repeat' split) <;> simp

theorem State.takeForget_pending (sender : Nat) : LeavesQueue (State.takeForget sender) := by
  intro s
  unfold State.takeForget
  split <;> simp

theorem State.joinEchoed_pending : LeavesQueue State.joinEchoed := by
  intro s
  unfold State.joinEchoed State.haltOnHeld
  (repeat' split) <;> simp

/-! ### What the meanings leave of the waiting commands: holds and the console (R158, R159, R175 to R182) -/

theorem State.renewHold_pending : LeavesQueue State.renewHold := by
  intro s
  unfold State.renewHold
  (repeat' split) <;> simp

theorem State.asked_pending (a : Ask) : LeavesQueue (State.asked a) := by
  intro s
  unfold State.asked
  split <;> simp

theorem State.reportEchoed_pending (e : TxEntry) : LeavesQueue (State.reportEchoed e) := by
  intro s
  unfold State.reportEchoed State.freeReportSlot State.contentReported
  (repeat' split) <;> simp [State.headReported, State.binReported]

/-- An order leaves the queue where its obedience does. -/
theorem State.takeOrder_pending (o : OrderKind) {obey : State → Obeyed} (h : LeavesQueue fun s => (obey s).state) :
    LeavesQueue (State.takeOrder o obey) := by
  intro s
  unfold State.takeOrder
  (repeat' split) <;> simp [h s]

theorem State.obeyStandby_pending : LeavesQueue fun s => s.obeyStandby.state := by
  intro s
  unfold State.obeyStandby
  dsimp only
  split <;> simp

theorem State.obeyResume_pending (r : ResumeReadings) : LeavesQueue fun s => (s.obeyResume r).state := by
  intro s
  unfold State.obeyResume
  dsimp only
  (repeat' split) <;> simp

@[simp] theorem State.requestTest_pending (s : State) : s.requestTest.pending = s.pending := by
  simp [State.requestTest]

theorem State.obeySelfTest_pending : LeavesQueue fun s => s.obeySelfTest.state := by
  intro s
  unfold State.obeySelfTest
  dsimp only
  (repeat' split) <;> simp

theorem State.reboot_pending (straps : Straps) (cut : Bool) : LeavesQueue (State.reboot straps cut) := fun s => by
  rw [State.reboot_eq]

theorem State.orderOf_pending (o : OrderKind) : LeavesQueue (State.orderOf o) := by
  intro s
  cases o with
  | standby => exact State.takeOrder_pending _ State.obeyStandby_pending s
  | resume => exact State.takeOrder_pending _ (State.obeyResume_pending _) s
  | selfTest => exact State.takeOrder_pending _ State.obeySelfTest_pending s
  | clearCounters => exact State.takeOrder_pending .clearCounters (obey := State.obeyClear) (fun _ => rfl) s
  | reboot => exact State.reboot_pending _ _ s

theorem State.buttonPressed_pending (r : ResumeReadings) : LeavesQueue (State.buttonPressed r) := by
  intro s
  unfold State.buttonPressed
  (repeat' split) <;> simp

/-! ### What the meanings leave of the waiting commands: a raw frame (R174) -/

theorem State.handOn_pending (f : Frame) : LeavesQueue (State.handOn f) := by
  intro s
  unfold State.handOn
  split
  · exact State.withPack_pending (fun _ => State.takeOffer_pending _ _) _ s
  · exact State.withPack_pending (State.takeBidFrom_pending _ _) _ s
  · exact State.withPack_pending (State.takeClose_pending _) _ s
  · exact State.withPack_pending (State.takeWithdraw_pending _) _ s
  · exact State.withPack_pending (State.takeEnd_pending _) _ s
  · exact State.withPack_pending (State.takeEnd_pending _) _ s
  · exact State.takeForget_pending _ s
  · exact State.takeForget_pending _ s
  · split
    · rfl
    · exact State.forThisStation_pending (State.asked_pending _) _ s
  · split
    · rfl
    · exact State.forThisStation_pending (State.orderOf_pending _) _ s
  · rfl

theorem State.frameDelivered_pending (f : Frame) : LeavesQueue (State.frameDelivered f) :=
  State.fromMember_pending (State.handOn_pending f) f

theorem State.askDelivered_pending (h : ConsoleHeader) (a : Ask) : LeavesQueue (State.askDelivered h a) :=
  State.fromMember_pending (State.forThisStation_pending (State.asked_pending a) _) _

theorem State.orderDelivered_pending {take : State → State} (ht : LeavesQueue take) (h : ConsoleHeader)
    (o : OrderKind) : LeavesQueue (State.orderDelivered h o take) :=
  State.fromMember_pending (State.forThisStation_pending ht _) _

/-! ### What the meanings leave of the waiting commands: the gate (R60 to R72) -/

@[simp] theorem State.takeSheet_pending (p : PocketId) (s : State) : (s.takeSheet p).pending = s.pending := by
  simp [State.takeSheet, State.divertTo]

@[simp] theorem State.absorbSheet_pending (p : PocketId) (r : AsideReason) (o : Offer) (m : Mark) (s : State) :
    (s.absorbSheet p r o m).pending = s.pending := by
  unfold State.absorbSheet State.passOwn
  dsimp only
  (repeat' split) <;> simp

@[simp] theorem State.judgePack_pending (p : PocketId) (o : Offer) (m : Mark) (s : State) :
    (s.judgePack p o m).pending = s.pending := by
  unfold State.judgePack
  (repeat' split) <;> simp

@[simp] theorem State.firstSheet_pending (p : PocketId) (o : Offer) (m : Mark) (s : State) :
    (s.firstSheet p o m).pending = s.pending := by
  unfold State.firstSheet State.nextIndex
  dsimp only
  (repeat' split) <;> simp

@[simp] theorem State.fillingSheet_pending (p : PocketId) (next : Nat) (o : Offer) (m : Mark) (s : State) :
    (s.fillingSheet p next o m).pending = s.pending := by
  unfold State.fillingSheet State.passOwn State.nextIndex
  (repeat' split) <;> simp

@[simp] theorem State.sheetAtPocket_pending (p : PocketId) (o : Offer) (m : Mark) (s : State) :
    (s.sheetAtPocket p o m).pending = s.pending := by
  unfold State.sheetAtPocket State.extraSheet State.passOwn
  (repeat' split) <;> simp

theorem State.sheetArrives_pending (raw : Option SheetMark) : LeavesQueue (State.sheetArrives raw) := by
  intro s
  unfold State.sheetArrives State.divertTo
  dsimp only
  (repeat' split) <;> simp

theorem State.gapExpires_pending (p : PocketId) : LeavesQueue (State.gapExpires p) := by
  intro s
  unfold State.gapExpires
  (repeat' split) <;> simp

theorem State.firstSheetExpires_pending (p : PocketId) : LeavesQueue (State.firstSheetExpires p) := by
  intro s
  unfold State.firstSheetExpires
  (repeat' split) <;> simp

/-! ### What the meanings leave of the waiting commands: the head (R93 to R118) -/

@[simp] theorem State.strokeDone_pending (op : Operation) (position : Nat) (retry : Bool) (v : SenseReading)
    (s : State) : (s.strokeDone op position retry v).pending = s.pending := by
  unfold State.strokeDone State.goodClinch State.convertClinch State.retryStroke
  dsimp only
  (repeat' split) <;> simp [State.spendStaple, State.writeClinch]

theorem State.strokeCompletes_pending (v : SenseReading) : LeavesQueue (State.strokeCompletes v) := by
  intro s
  unfold State.strokeCompletes
  (repeat' split) <;> simp

theorem State.noStapleFound_pending : LeavesQueue State.noStapleFound := by
  intro s
  unfold State.noStapleFound
  (repeat' split) <;> simp [State.emptyStaples]

theorem State.ejectCompletes_pending (occupied : Bool) : LeavesQueue (State.ejectCompletes occupied) := by
  intro s
  unfold State.ejectCompletes
  (repeat' split) <;> simp [State.readOccupied]

@[simp] theorem State.deliverPack_pending (op : Operation) (o : Offer) (bin : Nat) (s : State) :
    (s.deliverPack op o bin).pending = s.pending := by
  simp [State.deliverPack, State.recordDrop]

theorem State.dropConfirms_pending : LeavesQueue State.dropConfirms := by
  intro s
  unfold State.dropConfirms
  (repeat' split) <;> simp

@[simp] theorem State.asidePack_pending (op : Operation) (r : AsideReason) (s : State) :
    (s.asidePack op r).pending = s.pending := by
  unfold State.asidePack
  dsimp only
  split <;> simp

theorem State.trayDropConfirms_pending (occupied : Bool) : LeavesQueue (State.trayDropConfirms occupied) := by
  intro s
  unfold State.trayDropConfirms State.trayTakes State.readOccupied
  dsimp only
  (repeat' split) <;> simp

theorem State.limitExpires_pending (inPhase : Phase → Bool) (c : HaltCause) :
    LeavesQueue (State.limitExpires inPhase c) := by
  intro s
  unfold State.limitExpires
  (repeat' split) <;> simp

theorem State.headJams_pending : LeavesQueue State.headJams := by
  intro s
  unfold State.headJams
  split <;> simp

@[simp] theorem State.levelEnds_pending (level : TestLevel) (j : Judgement) (s : State) :
    (s.levelEnds level j).pending = s.pending := by
  unfold State.levelEnds State.endTest
  split <;> simp

theorem State.referenceRead_pending (v : SenseReading) : LeavesQueue (State.referenceRead v) := by
  intro s
  unfold State.referenceRead
  split <;> simp [State.writeReference]

theorem State.readingExpires_pending : LeavesQueue State.readingExpires := by
  intro s
  unfold State.readingExpires
  split <;> simp

/-! ### What the meanings leave of the waiting commands: the senses and the jam sensors (R110, R133, R135, R139) -/

@[simp] theorem State.refill_pending (c : StationConfig) (s : State) : (s.refill c).pending = s.pending := by
  simp [State.refill]

@[simp] theorem State.emptyBin_pending (n : Nat) (s : State) : (s.emptyBin n).pending = s.pending := by
  unfold State.emptyBin
  split <;> simp [State.forgetCursor]

@[simp] theorem State.emptyTray_pending (s : State) : s.emptyTray.pending = s.pending := by
  simp [State.emptyTray]

theorem State.senseRaised_pending (hold : HeldEvents → HeldEvents) {take : StationConfig → State → State}
    (h : ∀ c, LeavesQueue (take c)) : LeavesQueue (State.senseRaised hold take) := by
  intro s
  unfold State.senseRaised
  (repeat' split) <;> simp [h _ s]

theorem State.pocketJams_pending (p : PocketId) : LeavesQueue (State.pocketJams p) := by
  intro s
  unfold State.pocketJams State.jamLine
  dsimp only
  split <;> simp

/-! ### What the meanings leave of the waiting commands: the start sequence (R184, R187) -/

@[simp] theorem State.failLoading_pending (f : ConfigFault) (s : State) : (s.failLoading f).pending = s.pending := by
  unfold State.failLoading State.clearHeld State.budgetUnset
  dsimp only
  split <;> simp

@[simp] theorem State.takeHeld_pending (c : StationConfig) (s : State) : (s.takeHeld c).pending = s.pending := by
  unfold State.takeHeld State.clearHeld
  dsimp only
  (repeat' split) <;>
    simp [foldl_keeps (fun t => t.pending) (fun u n => State.emptyBin n u) fun t n => t.emptyBin_pending n]

@[simp] theorem State.startTestIfFitted_pending (c : StationConfig) (s : State) :
    (s.startTestIfFitted c).pending = s.pending := by
  unfold State.startTestIfFitted
  split <;> simp

@[simp] theorem State.checkPockets_pending (occupied : PocketLevels) (s : State) :
    (s.checkPockets occupied).pending = s.pending := by
  simp [State.checkPockets,
    foldl_keeps (fun t => t.pending) (fun t p => (State.checkPocket p (occupied.get p) t).serve) fun t p => by simp]

@[simp] theorem State.leaveLoading_pending (c : StationConfig) (s : State) :
    (s.leaveLoading c).pending = s.pending := by
  unfold State.leaveLoading
  split <;> simp

theorem State.imageRead_pending (bytes : List Byte) (occupied : PocketLevels) (cartridge : Bool) :
    LeavesQueue (State.imageRead bytes occupied cartridge) := by
  intro s
  unfold State.imageRead State.startWith
  (repeat' split) <;> simp [State.checkStore]

/-! ### Power and the reset pin (R183, R184, R188) -/

/-- Applied power reads the waiting commands, the part and its reset pin alone. -/
theorem State.powerApplied_eq (st : Straps) (s : State) :
    s.powerApplied st =
      { State.reset with
        pending := s.pending
        part :=
          { s.part with
            supplied := true
            straps := if s.part.resetPin then none else some st
            divert := none
            held := { bins := [], tray := false, cartridge := false } }
        ctl := { State.reset.ctl with resetCause := .power }
        store := RetainedStore.lost } := rfl

theorem State.powerLost_eq (cut : Bool) (s : State) :
    s.powerLost cut =
      { s with
        part := { s.part with supplied := false, divert := none }
        store :=
          { s.store with
            checkMatches := if cut = true ∧ s.part.supplied = true then false else s.store.checkMatches } } := by
  rw [State.powerLost, State.cutStore_eq]
  simp only [Bool.and_eq_true]
  rfl

theorem State.pinActive_held {s : State} (cut : Bool) (h : s.part.resetPin = true) : s.pinActive cut = s := if_pos h

theorem State.pinActive_unsupplied {s : State} (cut : Bool) (hp : s.part.resetPin = false)
    (hs : s.part.supplied = false) :
    s.pinActive cut = { s with part := { s.part with resetPin := true } } := by
  simp [State.pinActive, hp, hs, State.onPart]

/-- The reset of a supplied part reads the waiting commands, the part and the store alone. -/
theorem State.pinActive_supplied {s : State} (cut : Bool) (hp : s.part.resetPin = false) (hs : s.part.supplied = true) :
    s.pinActive cut =
      { State.reset with
        pending := s.pending
        part := { s.part with resetPin := true, straps := none, divert := none }
        ctl := { State.reset.ctl with resetCause := .line }
        store := { s.store with checkMatches := if cut then false else s.store.checkMatches } } := by
  rw [State.pinActive, if_neg (by simp [hp]), if_pos hs, State.cutStore_eq]
  rfl

theorem State.pinActive_resetPin (cut : Bool) (s : State) : (s.pinActive cut).part.resetPin = true := by
  cases hp : s.part.resetPin with
  | true => rw [State.pinActive_held cut hp, hp]
  | false =>
    cases hs : s.part.supplied with
    | true => rw [State.pinActive_supplied cut hp hs]
    | false => rw [State.pinActive_unsupplied cut hp hs]

theorem State.pinReleased_eq (st : Straps) (s : State) :
    s.pinReleased st =
      if s.part.resetPin then
        { s with
          part :=
            { s.part with
              resetPin := false
              straps := if s.part.supplied then some st else s.part.straps } }
      else s := by
  cases hs : s.part.supplied <;> simp [State.pinReleased, hs, State.strapsTo, State.onPart]

theorem State.pinActive_pending (cut : Bool) : LeavesQueue (State.pinActive cut) := by
  intro s
  unfold State.pinActive
  (repeat' split) <;> simp [State.strapsTo, State.cutStore_eq, State.resetTo]

theorem State.pinReleased_pending (st : Straps) : LeavesQueue (State.pinReleased st) := by
  intro s
  rw [State.pinReleased_eq]
  split <;> rfl

theorem State.running_iff {s : State} : s.running = true ↔ s.part.supplied = true ∧ s.part.resetPin = false := by
  simp [State.running]

theorem State.not_running_of_resetPin {s : State} (h : s.part.resetPin = true) : s.running = false := by
  simp [State.running, h]

theorem State.drives_of_not_running {s : State} (h : s.running = false) : s.drives = Drives.none := by
  simp [State.drives, h]

theorem event_of_not_running (f : State → State) {s : State} (h : s.running = false) : event f s = .next s := by
  simp [event, h]

/-- Settles O6: each is one equation of states. -/
theorem powerAppliedResetsAndPowerLostStops : Obligations.PowerAppliedResetsAndPowerLostStops := by
  refine ⟨fun st s => ⟨s.powerApplied st, rfl, ?_⟩, fun cut s => ⟨s.powerLost cut, rfl, ?_⟩⟩
  · rw [State.powerApplied_eq]
    exact ⟨⟨rfl, rfl, rfl, rfl, rfl, rfl⟩, rfl, rfl, rfl⟩
  · rw [State.powerLost_eq]
    exact ⟨rfl, rfl, rfl, State.drives_of_not_running rfl, rfl⟩

/-- Settles O7: the pin held before, a part without power, and a part with power are the three cases of the pin. -/
theorem resetPinResetsWithCauseLineAndHoldsThePart : Obligations.ResetPinResetsWithCauseLineAndHoldsThePart := by
  refine ⟨fun cut s => ⟨s.pinActive cut, rfl, s.pinActive_resetPin cut,
    State.not_running_of_resetPin (s.pinActive_resetPin cut), State.pinActive_held cut, State.pinActive_unsupplied cut,
    fun hp hs => ?_⟩, fun st s => congrArg _ (s.pinReleased_eq st)⟩
  rw [State.pinActive_supplied cut hp hs]
  exact ⟨⟨rfl, rfl, rfl, rfl, rfl, rfl⟩, rfl, rfl, rfl⟩

/-! ### Every command -/

/-- The commands that a part without power or held in reset follows too (R183; log 10). -/
inductive FollowedInReset : Instr → Prop where
  | powerReset (st : Straps) : FollowedInReset (.powerReset st)
  | resetPinActive (cut : Bool) : FollowedInReset (.resetPinActive cut)
  | resetPinReleased (st : Straps) : FollowedInReset (.resetPinReleased st)
  | lossOfPower (cut : Bool) : FollowedInReset (.lossOfPower cut)
  | pocketJam (p : PocketId) : FollowedInReset (.pocketJam p)
  | pocketJamCleared (p : PocketId) : FollowedInReset (.pocketJamCleared p)

theorem FollowedInReset.exec_pending {c : Instr} (h : FollowedInReset c) (s : State) :
    ∃ t, exec c s = .next t ∧ t.pending = s.pending := by
  cases h with
  | powerReset st => exact ⟨s.powerApplied st, rfl, by rw [State.powerApplied_eq]⟩
  | resetPinActive cut => exact ⟨s.pinActive cut, rfl, State.pinActive_pending cut s⟩
  | resetPinReleased st => exact ⟨s.pinReleased st, rfl, State.pinReleased_pending st s⟩
  | lossOfPower cut => exact ⟨s.powerLost cut, rfl, by rw [State.powerLost_eq]⟩
  | pocketJam p => exact ⟨s.pocketJams p, rfl, State.pocketJams_pending p s⟩
  | pocketJamCleared p => exact ⟨s.jamLine p false, rfl, rfl⟩

/-- The command is an event, taken with power and a released reset pin alone (R183), and its effect leaves the queue. -/
def IsEvent (c : Instr) : Prop := ∃ f, LeavesQueue f ∧ ∀ s, exec c s = event f s

theorem followedInReset_or_isEvent (c : Instr) : FollowedInReset c ∨ IsEvent c := by
  cases c with
  | powerReset st => exact .inl (.powerReset st)
  | resetPinActive cut => exact .inl (.resetPinActive cut)
  | resetPinReleased st => exact .inl (.resetPinReleased st)
  | lossOfPower cut => exact .inl (.lossOfPower cut)
  | pocketJam p => exact .inl (.pocketJam p)
  | pocketJamCleared p => exact .inl (.pocketJamCleared p)
  | imageReadComplete | imageReadTimeout => exact .inr ⟨_, State.imageRead_pending _ _ _, fun _ => rfl⟩
  | contention m => exact .inr ⟨_, State.contends_pending m, fun _ => rfl⟩
  | spoiledFrame f => exact .inr ⟨_, State.frameSpoiled_pending f, fun _ => rfl⟩
  | malformedFrame f | frameForAnotherMember f => exact .inr ⟨_, State.frameDelivered_pending f, fun _ => rfl⟩
  | offer sender b => exact .inr ⟨_, State.packFrame_pending (fun _ => State.takeOffer_pending _ b) _ _, fun _ => rfl⟩
  | bid a =>
    cases a with
    | echo => exact .inr ⟨_, State.echo_pending State.takeBidEcho_pending _, fun _ => rfl⟩
    | other sender b => exact .inr ⟨_, State.packFrame_pending (State.takeBidFrom_pending _ b) _ _, fun _ => rfl⟩
  | close sender w => exact .inr ⟨_, State.packFrame_pending (State.takeClose_pending _) _ _, fun _ => rfl⟩
  | withdraw sender w => exact .inr ⟨_, State.packFrame_pending (State.takeWithdraw_pending _) _ _, fun _ => rfl⟩
  | delivered a | aside a =>
    cases a with
    | echo => exact .inr ⟨_, State.echo_pending State.takeEndEcho_pending _, fun _ => rfl⟩
    | other sender b => exact .inr ⟨_, State.packFrame_pending (State.takeEnd_pending _) _ _, fun _ => rfl⟩
  | halt sender x | join sender x =>
    exact .inr ⟨_, State.fromMember_pending (State.takeForget_pending _) _, fun _ => rfl⟩
  | haltEcho =>
    exact .inr ⟨_, State.echo_pending (handOn := fun _ => State.haltEchoed) (fun _ s => by simp) _, fun _ => rfl⟩
  | joinEcho => exact .inr ⟨_, State.echo_pending (fun _ => State.joinEchoed_pending) _, fun _ => rfl⟩
  | hold sender time => exact .inr ⟨_, State.fromMember_pending (handOn := id) (fun _ => rfl) _, fun _ => rfl⟩
  | holdEcho =>
    exact .inr ⟨_, State.echo_pending (handOn := fun _ => State.holdEchoed) (fun _ _ => rfl) _, fun _ => rfl⟩
  | renewalTimerExpiry => exact .inr ⟨_, State.renewHold_pending, fun _ => rfl⟩
  | askSummary | askPack | askPocket | askBin | askHead | askCounters =>
    exact .inr ⟨_, State.askDelivered_pending _ _, fun _ => rfl⟩
  | reportEcho => exact .inr ⟨_, State.echo_pending State.reportEchoed_pending _, fun _ => rfl⟩
  | answerEcho =>
    exact .inr ⟨_, State.echo_pending (handOn := fun _ => State.answerEchoed) (fun _ _ => rfl) _, fun _ => rfl⟩
  | orderStandby hd => exact .inr ⟨_, State.orderDelivered_pending (State.orderOf_pending .standby) hd _, fun _ => rfl⟩
  | orderResume hd r =>
    exact .inr
      ⟨_, State.orderDelivered_pending (State.takeOrder_pending _ (State.obeyResume_pending r)) hd _, fun _ => rfl⟩
  | orderSelfTest hd =>
    exact .inr ⟨_, State.orderDelivered_pending (State.orderOf_pending .selfTest) hd _, fun _ => rfl⟩
  | orderClearCounters hd =>
    exact .inr ⟨_, State.orderDelivered_pending (State.orderOf_pending .clearCounters) hd _, fun _ => rfl⟩
  | orderReboot hd st cut =>
    exact .inr ⟨_, State.orderDelivered_pending (State.reboot_pending st cut) hd _, fun _ => rfl⟩
  | serviceButton r => exact .inr ⟨_, State.buttonPressed_pending r, fun _ => rfl⟩
  | sheetAtGate mark => exact .inr ⟨_, State.sheetArrives_pending mark, fun _ => rfl⟩
  | gapTimerExpiry p => exact .inr ⟨_, State.gapExpires_pending p, fun _ => rfl⟩
  | firstSheetTimerExpiry p => exact .inr ⟨_, State.firstSheetExpires_pending p, fun _ => rfl⟩
  | strokeComplete v => exact .inr ⟨_, State.strokeCompletes_pending v, fun _ => rfl⟩
  | strokeLimitExpiry | ejectLimitExpiry | carriageJam | dropLimitExpiry | trayDropLimitExpiry =>
    exact .inr ⟨_, State.limitExpires_pending _ _, fun _ => rfl⟩
  | noStaple => exact .inr ⟨_, State.noStapleFound_pending, fun _ => rfl⟩
  | headJam => exact .inr ⟨_, State.headJams_pending, fun _ => rfl⟩
  | ejectComplete occupied => exact .inr ⟨_, State.ejectCompletes_pending occupied, fun _ => rfl⟩
  | dropConfirmed => exact .inr ⟨_, State.dropConfirms_pending, fun _ => rfl⟩
  | trayDropConfirmed occupied => exact .inr ⟨_, State.trayDropConfirms_pending occupied, fun _ => rfl⟩
  | referenceReading v => exact .inr ⟨_, State.referenceRead_pending v, fun _ => rfl⟩
  | readingLimitExpiry => exact .inr ⟨_, State.readingExpires_pending, fun _ => rfl⟩
  | cartridgeInserted =>
    exact .inr ⟨_, fun s => State.senseRaised_pending _ State.refill_pending s.cartridgeShows, fun _ => rfl⟩
  | binEmptied n => exact .inr ⟨_, State.senseRaised_pending _ fun _ => State.emptyBin_pending n, fun _ => rfl⟩
  | trayEmptied => exact .inr ⟨_, State.senseRaised_pending _ fun _ => State.emptyTray_pending, fun _ => rfl⟩

/-- Settles O4: what is not followed in reset is an event, and no event reaches a part that is not running. -/
theorem partInResetTakesNoCommand : Obligations.PartInResetTakesNoCommand := by
  refine fun c s => ⟨State.running_iff, fun hr hpower hactive hreleased hlost hjam hcleared => ?_⟩
  obtain hc | ⟨f, -, hevent⟩ := followedInReset_or_isEvent c
  · cases hc with
    | powerReset st => exact absurd rfl (hpower st)
    | resetPinActive cut => exact absurd rfl (hactive cut)
    | resetPinReleased st => exact absurd rfl (hreleased st)
    | lossOfPower cut => exact absurd rfl (hlost cut)
    | pocketJam p => exact absurd rfl (hjam p)
    | pocketJamCleared p => exact absurd rfl (hcleared p)
  · rw [hevent, event_of_not_running f hr]

theorem LeavesQueue.event_pending {f : State → State} (hf : LeavesQueue f) (s : State) :
    ∃ t, event f s = .next t ∧ t.pending = s.pending := by
  refine ⟨_, rfl, ?_⟩
  split
  · exact hf s
  · rfl

/-- Settles O3: a command followed in reset answers its one state; every other is an event, and the effect of each leaves the
queue. -/
theorem everyCommandAnswersAndKeepsTheQueue : Obligations.EveryCommandAnswersAndKeepsTheQueue := by
  intro c s
  obtain hc | ⟨f, hf, hevent⟩ := followedInReset_or_isEvent c
  · exact hc.exec_pending s
  · rw [hevent]
    exact hf.event_pending s

end Sys2Proof.Machine
